-- ==== Sys2Proof/Word.lean ====
section
/-! DEFINITION. The word of the shared RAM and the register port, and the numbers of lines, slots, plans,
timing sets and order cells (spec 00 §0.7). -/

namespace Sys2Proof

/-- A word of the shared RAM or of a register: 16 bits (00 §0.7). -/
abbrev Word := BitVec 16

/-- Half a word, the unit in which the shared RAM is held. -/
abbrev Byte := BitVec 8

/-- A line number, 0 to 95 (00 §0.7). -/
abbrev LineNo := Fin 96

/-- A signalling slot number, 0 to 15. -/
abbrev SlotNo := Fin 16

/-- A ring plan number, 0 to 7. -/
abbrev PlanNo := Fin 8

/-- A timing set number, 0 to 3. -/
abbrev SetNo := Fin 4

/-- An order cell number, 0 to 31. -/
abbrev CellNo := Fin 32

end Sys2Proof
end

