-- ==== Sys2Proof/Syntax.lean ====
section
/-! DEFINITION. The commands of the LX96, one constructor per row of spec/opcode_table.json. The table gives its rows
no bits and no fields; the operands are the values that the row's rule gives the step (INVENTORY.md, Instructions). -/

namespace Sys2Proof

/-- A memory access that can fail (10 R160, R161), named by its requester. -/
inductive Access where
  /-- a journal write or a page-header access (class 1) -/
  | journal
  /-- the record fetch into a slot (class 2) -/
  | fetch (slot : SlotNo)
  /-- a core-field read (class 2) -/
  | core
  /-- the plan read of RELOAD_PLAN (class 2) -/
  | reload
  /-- a header, timing-set or plan read of the start procedure (class 2) -/
  | start
  /-- an order-cell access (class 3) -/
  | order
  /-- a mirror write (class 4) -/
  | mirror
  deriving DecidableEq, Repr

/-- The commands. A shelf command is a write to Control and carries the status select bit and the attention enable
mask of that write (11 R163). A scanner command carries the loop-sense reading (`true`: loop current flows, the line is
off-hook) and the trip-sense reading (`true`: trip) of the sample. An order carries its argument words as the cell holds
them (10 Table 10-11). A row that takes several accesses to the RAM carries `more`: how many further accesses of the row
the step makes after the first, as long as the arbiter serves it and the row is not at its end (10 R160, log 9); written without it, the
row makes one access. FLUSH and the page close timer's expiry begin with no access, and their `more` counts every one they make. -/
inductive Instr where
  /-- POWER_ON_RESET (R172) -/
  | powerOnReset
  /-- RESET_INPUT (R172) -/
  | resetInput
  /-- START written to Control (R167) -/
  | start (sel : Bool) (mask : BitVec 5)
  /-- STOP written to Control (R169) -/
  | stop (sel : Bool) (mask : BitVec 5)
  /-- COLD_RESTART written to Control (R169) -/
  | coldRestart (sel : Bool) (mask : BitVec 5)
  /-- WARM_RESTART written to Control (R170) -/
  | warmRestart (sel : Bool) (mask : BitVec 5)
  /-- FLUSH written to Control (R155); `more` of the two writes of the close are made at once where the port is idle -/
  | flush (sel : Bool) (mask : BitVec 5) (more : Nat := 0)
  /-- FAULT_CLEAR written to Control (R165) -/
  | faultClear (sel : Bool) (mask : BitVec 5)
  /-- a write to Area Base (R163) -/
  | areaBaseWrite (w : Word)
  /-- a write to Attention (R164) -/
  | attentionWrite (w : Word)
  /-- the mains-fail input is asserted (R105, R171) -/
  | mainsFailAsserted
  /-- the mains-fail input is released (R105, R171) -/
  | mainsFailReleased
  /-- the overload input is asserted (R131); `standing` is the level the input keeps after it -/
  | overloadAsserted (standing : Bool)
  /-- one sample of a line (R17) -/
  | lineSample (x : LineNo) (loop trip : Bool)
  /-- the sample at which a hook transition is recognised (R18) -/
  | hookTransition (x : LineNo) (loop trip : Bool)
  /-- the sample at which a first reading ends (R20) -/
  | firstDebouncedState (x : LineNo) (loop trip : Bool)
  /-- the sample at which a ring trip is confirmed (R23) -/
  | tripConfirm (x : LineNo) (loop trip : Bool)
  /-- the sample at which a CLEAR threshold expires (R29) -/
  | clearExpiry (x : LineNo) (loop trip : Bool)
  /-- the sample at which a DIGIT threshold expires (R32) -/
  | digitExpiry (x : LineNo) (loop trip : Bool)
  /-- expiry of the dial-tone timer (R40) -/
  | dialToneTimeout (x : LineNo)
  /-- expiry of the dialling timer (R45, R140) -/
  | diallingTimeout (x : LineNo)
  /-- expiry of the guard timer (R10) -/
  | guardExpiry (x : LineNo)
  /-- expiry of the park timer (R52) -/
  | parkTimerExpiry (x : LineNo)
  /-- expiry of the howler timer (R52) -/
  | howlerTimerExpiry (x : LineNo)
  /-- the eighth read of a record fetch (R60) -/
  | fetchComplete (i : SlotNo)
  /-- completion of the core-field read at the head of those requested (R3) -/
  | coreFieldReadComplete
  /-- a step boundary of the ringing cycle (R82) -/
  | stepBoundary
  /-- the step boundary at which the ringing of a line expires (R120) -/
  | ringExpiry (x : LineNo)
  /-- the wait timer of a line's queue entry reaches the admission wait limit (R101) -/
  | waitExpiry (x : LineNo)
  /-- the not-before of a line's queue entry reaches 0 (R111) -/
  | notBeforeExpiry (x : LineNo)
  /-- expiry of the generator start timer (R129) -/
  | genStartDone
  /-- expiry of the idle stop timer (R130) -/
  | idleStop
  /-- expiry of the trip-hold timer (R133) -/
  | holdEnd
  /-- RING (R110): line, party, plan, cycle count, priority flag -/
  | ring (line party plan cycles priority : Word)
  /-- STOP_RING (R118) -/
  | stopRing (line : Word)
  /-- DIGIT_SEEN (R39) -/
  | digitSeen (line : Word)
  /-- ENDDIAL (R46) -/
  | enddial (line : Word)
  /-- CONNECT (R144) -/
  | connect (line : Word)
  /-- TONE (R145): line, bus -/
  | tone (line bus : Word)
  /-- CLEAR (R146) -/
  | clear (line : Word)
  /-- BLOCK (R11) -/
  | block (line : Word)
  /-- UNBLOCK (R13) -/
  | unblock (line : Word)
  /-- LOCK_SLOT (R67) -/
  | lockSlot (line : Word)
  /-- UNLOCK_SLOT (R68) -/
  | unlockSlot (line : Word)
  /-- FREE_LOCKS (R69) -/
  | freeLocks
  /-- INVALIDATE (R70) -/
  | invalidate (line : Word)
  /-- INVALIDATE with the all-lines value (R71) -/
  | invalidateAll
  /-- RELOAD_PLAN (R78) -/
  | reloadPlan (plan : Word)
  /-- completion of the plan read of RELOAD_PLAN (R79) -/
  | reloadPlanReadComplete (more : Nat := 0)
  /-- SET_CAPACITY (R104): capacity, reserve -/
  | setCapacity (capacity reserve : Word)
  /-- POWER_MODE (R105) -/
  | powerMode (mode : Word)
  /-- GEN_RESET (R134) -/
  | genReset
  /-- a pass over the order cells begins (R149) -/
  | orderPass
  /-- the state word of the cell at the pass position is read, and TAKEN written to a POSTED one (R148, R150) -/
  | orderCellVisit (more : Nat := 0)
  /-- the kind and argument words of the cell in hand are read (R150) -/
  | orderTaken (more : Nat := 0)
  /-- the result word and DONE are written (R150) -/
  | orderDone (more : Nat := 0)
  /-- the head record of the write queue is written, or the page is closed (R154, R155) -/
  | journalWrite (more : Nat := 0)
  /-- expiry of the page close timer (R155); `more` as for FLUSH -/
  | pageCloseTimerExpiry (more : Nat := 0)
  /-- the header of the next page is read (R153) -/
  | pageOpen (more : Nat := 0)
  /-- the header of a stalled page is read again (R156) -/
  | pageStallRetry (more : Nat := 0)
  /-- the next marked line's status word is written (R159) -/
  | mirrorWrite
  /-- an access waits longer than 50 us (R161) -/
  | memoryTimeout (a : Access)
  /-- the shelf header has been read (R167) -/
  | headerReadComplete (more : Nat := 0)
  /-- the four timing sets have been read (R26) -/
  | timingSetReadComplete (more : Nat := 0)
  /-- the eight ring plans have been read (R77) -/
  | planReadComplete (more : Nat := 0)
  /-- the start procedure ends and the shelf runs (R167) -/
  | shelfRunning
  /-- a write to Control (R163); `more` as for FLUSH -/
  | controlRegisterWrite (w : Word) (more : Nat := 0)
  /-- the read of one of the first seven words of a record fetch (R60) -/
  | fetchWordRead (i : SlotNo)
  deriving DecidableEq, Repr

end Sys2Proof
end

