-- ==== Sys2Proof/Config.lean ====
section
/-! DEFINITION. What the spec leaves open, as constants without a body (logs 6 and 7), and its fixed sizes. -/

namespace Sys2Proof

/-- Words of the shared RAM (00 §0.5). -/
def Config.ramWords : Nat := 32768

/-- Milliseconds of a scan period (02 §2.1). -/
def Config.scanMs : Nat := 2

/-- Scan periods between two step boundaries (05 R74). -/
def Config.scansPerStep : Nat := 50

/-- Milliseconds of a cycle step (05). -/
def Config.stepMs : Nat := 100

/-- Records the write queue holds (10 R154). -/
def Config.queueLimit : Nat := 32

/-- Digits a digit buffer holds (03 Table 3-2). -/
def Config.bufferLimit : Nat := 20

/-- Slots that may be locked (04 R55). -/
def Config.lockLimit : Nat := 12

/-- DESIGN CHOICE (log 6), a free value: the word into which the body word number `word` of a journal record of kind `kind`
packs the fields that 10 Table 10-12 joins by commas. The table gives no bit positions for them. -/
opaque Config.packed (kind word : Nat) (fields : List Nat) : Word

/-- DESIGN CHOICE (log 7), a free value: what the part writes into the bits of the RAM word of format `item` that the layout
tables of 10 §10.6 do not list. -/
opaque Config.unlisted (item : Nat) : Word

end Sys2Proof
end

