-- ==== Sys2Proof/Machine/State.lean ====
section
/-! DEFINITION. The state of the LX96: one structure per block (00 Table 0-1), the shared RAM, and the queue of commands
that wait. Reset values are those of INVENTORY.md. -/

namespace Sys2Proof.Machine

/-! ## Lines (01, 02) -/

/-- The thirteen line states (01 Table 1-3). -/
inductive LineSt where
  | unequipped | idle | blocked | seizeWait | dialTone | dialling | routing | ringWait | ringing | talk | recall
  | parked | releaseGuard
  deriving DecidableEq, Repr

/-- The class of a line or of a request (01 Table 1-1). -/
inductive LineClass where
  | ordinary | priority
  deriving DecidableEq, Repr

/-- The signalling kind of a line (01 Table 1-1). -/
inductive Signalling where
  | pulse | tone | both
  deriving DecidableEq, Repr

/-- A hook state (02 Table 2-1). -/
inductive Hook where
  | on | off
  deriving DecidableEq, Repr

/-- Whether a line is sampled, and whether its first debounced state has been found (02 Table 2-1). -/
inductive Sampling where
  | off | first | on
  deriving DecidableEq, Repr

/-- The armed threshold of a line, with its sample count (02 R21). -/
inductive Threshold where
  | none | clear (count : Nat) | digit (count : Nat)
  deriving DecidableEq, Repr

/-- The tone-bus connection of a line (10 Table 10-3). -/
inductive Tone where
  | none | dial | specialDial | progress | howler
  deriving DecidableEq, Repr

/-- The code of a party-selector drive (05 Table 5-5). -/
inductive Selector where
  | code (n : Fin 4) | bridged
  deriving DecidableEq, Repr

/-- A running timer, in ms. A stopped timer is `none`. -/
structure Timer where
  elapsed : Nat
  duration : Nat
  deriving DecidableEq, Repr

/-- One line: the core state of the LCT (01 Table 1-2), the scanner's items (02 Table 2-1), and the drives and the mark that
other blocks keep for the line. -/
structure Line where
  st : LineSt
  equipped : Bool
  cls : LineClass
  sig : Signalling
  tset : SetNo
  dialTone : Option Timer
  dialling : Option Timer
  guard : Option Timer
  park : Option Timer
  howler : Option Timer
  slot : Option SlotNo
  seizure : Nat
  answered : Bool
  /-- a slot request held in STARTING (01 R16) -/
  asking : Bool
  /-- the class of the last slot request (04 R62) -/
  askClass : LineClass
  sampling : Sampling
  hook : Hook
  run : Nat
  tentative : Hook
  interval : Nat
  threshold : Threshold
  tripRun : Nat
  blank : Nat
  tone : Tone
  /-- the ring relay is closed -/
  relay : Bool
  selector : Option Selector
  /-- the mirror-pending mark -/
  mark : Bool
  deriving DecidableEq, Repr

/-- A timing set (02 Table 2-2), in the units held. -/
structure TimingSet where
  debounce : Nat
  pulseMin : Nat
  pulseMax : Nat
  interdigit : Nat
  flashMin : Nat
  flashMax : Nat
  dialTone : Nat
  dialling : Nat
  releaseGuard : Nat
  postRing : Nat
  tripConfirm : Nat
  burstBlank : Nat
  parkDelay : Nat
  howler : Nat
  deriving DecidableEq, Repr

/-! ## Slots (04) -/

/-- A completed digit: 0 to 9, or the ERROR mark (03 Table 3-2). -/
inductive Digit where
  | value (n : Fin 10) | error
  deriving DecidableEq, Repr

/-- The end flag of a DIGITS record (03 Table 3-3). -/
inductive EndFlag where
  | final | timeout | error
  deriving DecidableEq, Repr

/-- The ringing allocation of a line (06 Table 6-2). -/
structure Alloc where
  party : Nat
  plan : PlanNo
  phase : Nat
  load : Nat
  cls : LineClass
  age : Nat
  cyclesLeft : Nat
  selector : Selector
  deriving DecidableEq, Repr

/-- The call context of a slot (04 Table 4-2). -/
structure Ctx where
  pulses : Nat
  buffer : List Digit
  overflow : Bool
  mark : Option (EndFlag × Nat)
  alloc : Option Alloc
  tripDiscards : Nat
  cyclesRung : Nat
  /-- the first-burst flag reads "burst applied" -/
  burst : Bool
  deriving DecidableEq, Repr

inductive SlotStatus where
  | empty | warm | bound
  deriving DecidableEq, Repr

inductive SlotPhase where
  | fetching | valid
  deriving DecidableEq, Repr

/-- A signalling slot (04 Table 4-1); `words` counts the words its running fetch has read. -/
structure Slot where
  status : SlotStatus
  phase : SlotPhase
  holder : Option LineNo
  recLine : Option LineNo
  copy : Vector Word 8
  words : Nat
  lock : Option LineNo
  refetch : Bool
  failed : Bool
  ctx : Ctx
  deriving DecidableEq, Repr

/-- The purpose of a slot request (04 §4.3). -/
inductive Purpose where
  | originate | terminate | recall
  deriving DecidableEq, Repr

/-- An entry of the Slot Wait List (04 R65). -/
structure SlotWait where
  line : LineNo
  purpose : Purpose
  cls : LineClass
  deriving DecidableEq, Repr

/-- The Slot Store: the slots, the LRU stack (head: the LRU end) and the Slot Wait List. -/
structure Sst where
  slots : Vector Slot 16
  lru : List SlotNo
  waitList : List SlotWait
  deriving DecidableEq, Repr

/-! ## Ringing (05, 06, 08) -/

/-- A well-formed ring plan: its segment durations, the first of them ON (05 R75). -/
abbrev Plan := List Nat

/-- The Cadence Timebase; `periods` counts scan periods since the last step boundary. -/
structure Ctb where
  step : Nat
  periods : Nat
  active : Vector (Option Plan) 8
  staged : Vector (Option Plan) 8
  deriving DecidableEq, Repr

inductive PowerMode where
  | normal | conserve
  deriving DecidableEq, Repr

/-- An entry of the Ring Wait Queue (06 Table 6-3); plan `none` is "from record". -/
structure RingWait where
  line : LineNo
  party : Nat
  plan : Option PlanNo
  cycles : Nat
  cls : LineClass
  age : Nat
  notBefore : Option Nat
  needsSlot : Bool
  fetching : Bool
  wait : Nat
  deriving DecidableEq, Repr

/-- The Ring Scheduler (06 R88 to R91). `capacity` and `reserve` are the active values. -/
structure Rsc where
  plt : List Nat
  allocs : List LineNo
  capacity : Nat
  reserve : Nat
  conserveCap : Nat
  conserveMax : Nat
  autoConserve : Bool
  boost : Nat
  press : Nat
  waitLimit : Nat
  staged : Option (Nat × Nat)
  mode : PowerMode
  stagedMode : PowerMode
  hold : Bool
  queue : List RingWait
  deriving DecidableEq, Repr

/-- The generator states (08 Table 8-1). -/
inductive GenSt where
  | off | starting | running | tripped | lockedOut
  deriving DecidableEq, Repr

/-- The Generator Controller. Times in ms, but `idleStop`, `tripHold` and `tripWindow` in s as the header holds them;
`overload` is the level of the overload input. -/
structure Gen where
  state : GenSt
  startTimer : Option Timer
  idleTimer : Option Timer
  holdTimer : Option Timer
  history : List Nat
  startTime : Nat
  idleStop : Nat
  tripHold : Nat
  tripWindow : Nat
  overload : Bool
  deriving DecidableEq, Repr

/-! ## Orders, journal, memory port (10) -/

/-- The result codes, in the order of 10 Table 10-2. -/
inductive Result where
  | ok | badOrder | noLine | lineBusy | lineBlocked | tooLate | wrongClass | noSlot | planInUse
  deriving DecidableEq, Repr

/-- The Order Reader's copy of an order: the kind word and the five argument words (10 Table 10-8). -/
structure OrderCopy where
  kind : Word
  a1 : Word
  a2 : Word
  a3 : Word
  a4 : Word
  a5 : Word
  deriving DecidableEq, Repr

/-- What an order in hand waits on (10 R150 step 4). -/
inductive OrderWork where
  | invalidate | reload (p : PlanNo)
  deriving DecidableEq, Repr

/-- How far the writes to the cell in hand have gone: it was read POSTED, TAKEN has been written, or the result word has been
written and DONE is to follow (10 R150). -/
inductive CellStage where
  | found | taken | answered
  deriving DecidableEq, Repr

/-- The Order Reader (10 R149, R150). `stage` tells of the cell in hand; `read` holds the words read so far of the order in hand, or
of the plan that RELOAD_PLAN reads; `staging` is the plan copy that is staged as the result is written (05 R79). -/
structure Ord where
  timer : Option Timer
  inPass : Bool
  pos : CellNo
  cell : Option CellNo
  stage : CellStage
  read : List Word
  copy : Option OrderCopy
  work : Option OrderWork
  staging : Option (PlanNo × Plan)
  result : Option Result
  period : Nat
  deriving DecidableEq, Repr

inductive ParkReason where
  | dialToneTimeout | recordInvalid | cleared
  deriving DecidableEq, Repr

inductive AnswerMeans where
  | trip | loop | waiting
  deriving DecidableEq, Repr

/-- Why a ring request failed (10 Table 10-12): the wait expired, or the record or the party was refused. -/
inductive RingFail where
  | waitExpired | record | party
  deriving DecidableEq, Repr

inductive ShedReason where
  | capacity | trip
  deriving DecidableEq, Repr

/-- The causes of a GEN_STATE record (08 R135). -/
inductive GenCause where
  | startRequest | startDone | idleStop | overload | holdEnd | reset
  deriving DecidableEq, Repr

/-- The fault kinds (11 Table 11-2). -/
inductive FaultKind where
  | unstableTrip | recordInvalid | genTrip | planInvalid | genLockout | memoryTimeout | headerInvalid
  deriving DecidableEq, Repr

/-- The body of a journal record (10 Table 10-12). A HELD_SUMMARY in the queue carries the state field it was given at
resume; its kinds and count are those of the summary when it is written (10 R157, R158). -/
inductive Body where
  | seize
  | toneReady (delay : Nat) (bus : Tone)
  | digits (ds : List Digit) (flag : Option EndFlag) (overflow : Bool)
  | dialRestart (discarded : Nat)
  | abandon (st : LineSt) (discarded : Nat)
  | park (r : ParkReason)
  | ringStarted (party : Nat) (plan : PlanNo) (cls : LineClass) (phase k delay cyclesLeft : Nat)
  | answer (rung : Nat) (early : Bool) (means : AnswerMeans)
  | ringExpired (party : Nat) (plan : PlanNo) (rung : Nat)
  | ringFailed (why : RingFail) (party : Nat)
  | shed (r : ShedReason) (party : Nat) (plan : PlanNo) (rung carried : Nat)
  | flash (st : LineSt) (discarded : Nat)
  | clear (st : LineSt) (discarded : Nat)
  | genState (new old : GenSt) (cause : GenCause) (trips : Nat)
  | fault (k : FaultKind) (detail : Nat)
  | heldSummary (stateCode : Nat)
  | journalResumed (summaries : Nat)
  | restartDone (warm : Bool) (talking : Nat)
  deriving DecidableEq, Repr

/-- A journal record: its line (or none, for the shelf), its time-stamp and its body. -/
structure Rec where
  line : Option LineNo
  stamp : Word
  body : Body
  deriving DecidableEq, Repr

/-- A held summary (10 R157): the set of event kinds as the bits of its word, the count and the DIGITS_LOST flag. -/
structure Summary where
  kinds : Word
  count : Nat
  lost : Bool
  deriving DecidableEq, Repr

/-- Whether the journal has no page, has the header of its next page to read, or has a page open (10 R153). -/
inductive PageSt where
  | none | opening | opened
  deriving DecidableEq, Repr

/-- The stall state (10 R156). -/
inductive Stall where
  | none | page | queue
  deriving DecidableEq, Repr

/-- Whether the open page is to be closed (10 R155): not asked for, asked for while a record is being written, to be closed next, or
closed but for the write of CLOSED. -/
inductive Closing where
  | no | after | asked | begun
  deriving DecidableEq, Repr

/-- The Journal Writer (10 R153). `written` counts the accesses made for the record being written, or for the page being opened;
`startRecs` holds the records kept in STARTING until the journal is opened. -/
structure Jwr where
  index : Nat
  seq : Nat
  opened : Bool
  page : PageSt
  used : Nat
  written : Nat
  closing : Closing
  closeTimer : Option Timer
  stall : Stall
  retry : Nat
  queue : List Rec
  startRecs : List Rec
  summaries : Vector (Option Summary) 96
  shelf : Option Summary
  closeDelay : Nat
  deriving DecidableEq, Repr

/-- The Memory Port: the line served last (10 R159), the core-field reads requested (04 R71), the requests of class 2 in the
order made while the shelf is RUNNING or ISOLATED, the words read so far of the header, the timing sets or the plans in the start
procedure, and the access in progress (10 R160). The mirror-pending marks stand with the lines. -/
structure Mpt where
  last : LineNo
  coreReads : List LineNo
  reqs : List Access
  read : List Word
  busy : Option Access
  deriving DecidableEq, Repr

/-! ## Shelf Control (11) -/

inductive RunSt where
  | halted | starting | running | isolated | failed
  deriving DecidableEq, Repr

/-- The step of the start procedure that is in progress (11 R167): reading the header, the timing sets, the plans, the core
fields, opening page 0, or waiting for the first readings. -/
inductive StartStep where
  | none | header | timing | plans | core | page | readings
  deriving DecidableEq, Repr

/-- A fault in the fault record (11 §11.2); its severity follows from its kind (Table 11-2). -/
structure FaultRec where
  kind : FaultKind
  line : Option LineNo
  detail : Nat
  stamp : Word
  deriving DecidableEq, Repr

/-- The structural values of the shelf header (11 R167): equipped count, cycle length N, page count P, and the offsets of the
six areas. -/
structure Header where
  equipped : Nat
  n : Nat
  pages : Nat
  timing : Nat
  plans : Nat
  lines : Nat
  status : Nat
  cells : Nat
  journal : Nat
  deriving DecidableEq, Repr

/-- Shelf Control. Attention and the mask have JOURNAL, ORDER_DONE, STALL, GEN, FAULT in bits 0 to 4 (Table 10-13); `mains` is
the level of the mains-fail input. -/
structure Shc where
  run : RunSt
  start : StartStep
  warm : Bool
  attention : BitVec 5
  mask : BitVec 5
  sel : Bool
  areaBase : BitVec 15
  fault : Option FaultRec
  further : Nat
  ms : Word
  mains : Bool
  hdr : Header
  deriving DecidableEq, Repr

/-- Everything on the chip. -/
structure Chip where
  lines : Vector Line 96
  sets : Vector TimingSet 4
  sst : Sst
  ctb : Ctb
  rsc : Rsc
  gen : Gen
  ord : Ord
  jwr : Jwr
  mpt : Mpt
  shc : Shc
  deriving DecidableEq, Repr

/-- The shared RAM, as the bytes of its words: word `a` is the bytes `2a` (low half) and `2a + 1` (high half). Addresses rise
strictly and no byte listed is 0, which is what an unlisted byte reads as (log 5). -/
abbrev Memory := List Host.Cell

/-- The machine: the chip, the shared RAM, and the commands that wait, first in first out. -/
structure State where
  chip : Chip
  ram : Memory
  pending : List Instr
  deriving DecidableEq, Repr

/-- Why the machine stops. -/
inductive Fault where
  /-- A memory step would access a word above 32,767, which the shared RAM does not have (00 §0.5). Raised by the steps that
  access RAM. Safe: the structural check of R167 keeps every area inside the RAM. -/
  | outsideRam
  deriving DecidableEq, Repr

/-- Why a command has no meaning. -/
inductive Refusal where
  /-- The command with this mnemonic is not modelled. Raised by no arm of `exec`. Safe. -/
  | notModelled (mnemonic : String)
  deriving DecidableEq, Repr

/-! ## Reset -/

/-- A line after reset (01 R15, 02 R25, 03 R54, 05 R86, 07 R125, 10 R159). DESIGN CHOICE (log 25): `askClass`. -/
def Line.reset : Line where
  st := .unequipped
  equipped := false
  cls := .ordinary
  sig := .pulse
  tset := 0
  dialTone := none
  dialling := none
  guard := none
  park := none
  howler := none
  slot := none
  seizure := 0
  answered := false
  asking := false
  askClass := .ordinary
  sampling := .off
  hook := .on
  run := 0
  tentative := .on
  interval := 0
  threshold := .none
  tripRun := 0
  blank := 0
  tone := .none
  relay := false
  selector := none
  mark := false

/-- The timing set after reset: the lowest value of every range (02 R26, Table 2-2). -/
def TimingSet.lowest : TimingSet where
  debounce := 2
  pulseMin := 10
  pulseMax := 40
  interdigit := 150
  flashMin := 60
  flashMax := 200
  dialTone := 5
  dialling := 3
  releaseGuard := 100
  postRing := 0
  tripConfirm := 2
  burstBlank := 0
  parkDelay := 0
  howler := 5

/-- The fresh call context (04 Table 4-2). -/
def Ctx.fresh : Ctx where
  pulses := 0
  buffer := []
  overflow := false
  mark := none
  alloc := none
  tripDiscards := 0
  cyclesRung := 0
  burst := false

/-- A slot after reset (04 R72). DESIGN CHOICE (log 25): phase, copy and words. -/
def Slot.reset : Slot where
  status := .empty
  phase := .valid
  holder := none
  recLine := none
  copy := Vector.replicate 8 0
  words := 0
  lock := none
  refetch := false
  failed := false
  ctx := Ctx.fresh

/-- The Slot Store after reset: the LRU stack is 0, 1, 2, … 15 from the LRU end (04 R57, R72). -/
def Sst.reset : Sst where
  slots := Vector.replicate 16 Slot.reset
  lru := [0, 1, 2, 3, 4, 5, 6, 7, 8, 9, 10, 11, 12, 13, 14, 15]
  waitList := []

/-- The Timebase after reset (05 R86). -/
def Ctb.reset : Ctb where
  step := 0
  periods := 0
  active := Vector.replicate 8 none
  staged := Vector.replicate 8 none

/-- The Ring Scheduler after reset (06 R108). -/
def Rsc.reset : Rsc where
  plt := []
  allocs := []
  capacity := 0
  reserve := 0
  conserveCap := 0
  conserveMax := 0
  autoConserve := false
  boost := 0
  press := 0
  waitLimit := 0
  staged := none
  mode := .normal
  stagedMode := .normal
  hold := false
  queue := []

/-- The Generator Controller after reset (08 R136). DESIGN CHOICE (log 10): the level of the overload input. -/
def Gen.reset : Gen where
  state := .off
  startTimer := none
  idleTimer := none
  holdTimer := none
  history := []
  startTime := 0
  idleStop := 0
  tripHold := 0
  tripWindow := 0
  overload := false

/-- The Order Reader after reset (10 R149). DESIGN CHOICE (log 25): the period, and the stage, which means nothing
without a cell. -/
def Ord.reset : Ord where
  timer := none
  inPass := false
  pos := 0
  cell := none
  stage := .found
  read := []
  copy := none
  work := none
  staging := none
  result := none
  period := 0

/-- The Journal Writer after reset (10 R153). DESIGN CHOICE (log 25): words used, retry and the close delay. -/
def Jwr.reset : Jwr where
  index := 0
  seq := 0
  opened := false
  page := .none
  used := 0
  written := 0
  closing := .no
  closeTimer := none
  stall := .none
  retry := 0
  queue := []
  startRecs := []
  summaries := Vector.replicate 96 none
  shelf := none
  closeDelay := 0

/-- The Memory Port after reset: line 95 counts as served last, nothing is requested or in progress (10 R159, R162). -/
def Mpt.reset : Mpt where
  last := 95
  coreReads := []
  reqs := []
  read := []
  busy := none

/-- The header values after reset. DESIGN CHOICE (log 25): all 0. -/
def Header.reset : Header where
  equipped := 0
  n := 0
  pages := 0
  timing := 0
  plans := 0
  lines := 0
  status := 0
  cells := 0
  journal := 0

/-- Shelf Control after power-on reset (11 R172). DESIGN CHOICE (log 10): the level of the mains-fail input. -/
def Shc.reset : Shc where
  run := .halted
  start := .none
  warm := false
  attention := 0
  mask := 0
  sel := false
  areaBase := 0
  fault := none
  further := 0
  ms := 0
  mains := false
  hdr := Header.reset

/-- The chip after power-on reset. -/
def Chip.reset : Chip where
  lines := Vector.replicate 96 Line.reset
  sets := Vector.replicate 4 TimingSet.lowest
  sst := Sst.reset
  ctb := Ctb.reset
  rsc := Rsc.reset
  gen := Gen.reset
  ord := Ord.reset
  jwr := Jwr.reset
  mpt := Mpt.reset
  shc := Shc.reset

/-- The machine right after power-on reset: nothing in the RAM is listed and no command waits. -/
def State.reset : State where
  chip := Chip.reset
  ram := []
  pending := []

end Sys2Proof.Machine
end

