-- ==== Sys2Proof/Machine/Ops.lean ====
section
/-! DEFINITION. The operations that every block uses: the shared RAM by word, one line, one slot, the LRU stack, timers, and
the items of a line's status word with their mirror-pending mark (01 R14). -/

namespace Sys2Proof.Machine

/-- The outcome of a command. -/
abbrev Out := Host.Outcome State Fault Refusal

/-! ## The shared RAM -/

/-- The byte at an address; an unlisted byte reads as 0 (log 5). -/
def byteAt : Memory → Nat → Byte
  | [], _ => 0
  | (k, b) :: m, a => if k = a then b else byteAt m a

/-- The memory with one byte changed, in canonical form. -/
def setByte : Memory → Nat → Byte → Memory
  | [], a, b => if b = 0 then [] else [(a, b)]
  | (k, v) :: m, a, b =>
    if a < k then (if b = 0 then (k, v) :: m else (a, b) :: (k, v) :: m)
    else if a = k then (if b = 0 then m else (a, b) :: m)
    else (k, v) :: setByte m a b

/-- The canonical form: addresses strictly rising, no byte equal to what an unlisted address reads as. -/
abbrev Memory.wf (m : Memory) : Prop := m.Pairwise (fun p q => p.1 < q.1) ∧ ∀ p ∈ m, p.2 ≠ 0

/-- The word at a word address. -/
def readWord (m : Memory) (a : Nat) : Word := byteAt m (2 * a + 1) ++ byteAt m (2 * a)

/-- The memory with one word changed. -/
def writeWord (m : Memory) (a : Nat) (w : Word) : Memory :=
  setByte (setByte m (2 * a) (w.extractLsb' 0 8)) (2 * a + 1) (w.extractLsb' 8 8)

/-- The memory with consecutive words written from `a` on. -/
def writeWords : Memory → Nat → List Word → Memory
  | m, _, [] => m
  | m, a, w :: ws => writeWords (writeWord m a w) (a + 1) ws

/-- `n` consecutive words from `a` on. -/
def readWords (m : Memory) (a n : Nat) : List Word := (List.range n).map fun i => readWord m (a + i)

/-- The step `k` of a memory access to `n` words from `a` on, or the fault of an access outside the RAM. -/
def inRam (a n : Nat) (k : Out) : Out := if a + n ≤ Config.ramWords then k else .fault .outsideRam

/-! ## Fields of words -/

/-- The field of `len` bits from bit `lo` on, as a number. -/
def field (w : Word) (lo len : Nat) : Nat := (w.extractLsb' lo len).toNat

/-- One bit of a word. -/
def flag (w : Word) (i : Nat) : Bool := w.getLsbD i

/-- A number written into a word. -/
def word (n : Nat) : Word := BitVec.ofNat 16 n

/-- A value clamped to a range: below it the lowest, above it the highest. -/
def clamp (lo hi n : Nat) : Nat := max lo (min hi n)

/-! ## Timers -/

/-- A timer started with a duration in ms (01 R4). -/
def Timer.start (ms : Nat) : Timer := ⟨0, ms⟩

/-- A timer after one scan period; it stands at its duration until its expiry is taken (log 4). -/
def Timer.tick (t : Timer) : Timer := { t with elapsed := min t.duration (t.elapsed + Config.scanMs) }

/-- The timer runs and has reached its duration (02 R28). -/
def timerDue (t : Option Timer) : Bool :=
  match t with
  | some t => t.duration ≤ t.elapsed
  | none => false

/-- The ms a timer has still to run. -/
def Timer.remaining (t : Timer) : Nat := t.duration - t.elapsed

/-- A duration in ms as samples: divided by 2 and rounded up (02 R28). -/
def toSamples (ms : Nat) : Nat := (ms + 1) / 2

/-! ## Lines -/

/-- A function applied to every element of a vector, evaluated through its list. -/
def mapEach {α β : Type} {n : Nat} (f : α → β) (v : Vector α n) : Vector β n := ⟨⟨v.toList.map f⟩, by simp⟩

/-- The 96 lines in ascending number. -/
def allLines : List LineNo := List.finRange 96

/-- The 16 slots in ascending number. -/
def allSlots : List SlotNo := List.finRange 16

/-- One line. -/
def Chip.line (c : Chip) (x : LineNo) : Line := c.lines[x]

/-- The chip with one line changed. -/
def Chip.modLine (c : Chip) (x : LineNo) (f : Line → Line) : Chip :=
  { c with lines := c.lines.set x (f c.lines[x]) }

/-- The chip with every line changed. -/
def Chip.mapLines (c : Chip) (f : Line → Line) : Chip := { c with lines := mapEach f c.lines }

/-- The timing set that governs a line: the one its core field names at the moment of use (02 R28). -/
def Chip.timing (c : Chip) (x : LineNo) : TimingSet := c.sets[(c.line x).tset]

/-- The line holds a held summary (01 R4): its held-summary flag. -/
def Chip.heldFlag (c : Chip) (x : LineNo) : Bool := (c.jwr.summaries[x]).isSome

/-- The states in which the LCT judges breaks (02 R29). -/
def LineSt.judging : LineSt → Bool
  | .seizeWait | .dialTone | .dialling | .routing | .talk | .recall | .parked => true
  | _ => false

/-- The states in which digits may be in progress (03 R41, 09 R140). -/
def LineSt.collecting : LineSt → Bool
  | .dialling | .recall => true
  | _ => false

/-- The CLEAR threshold of a timing set: one sample more than flash max (02 R21). -/
def TimingSet.clearAt (t : TimingSet) : Nat := toSamples t.flashMax + 1

/-- The threshold of a line as it enters a state (02 R29, R32): in a judging state a break keeps its CLEAR threshold or has one
armed, a make keeps a DIGIT threshold only where digits are collected; any other state has none. -/
def entryThreshold (st : LineSt) (hook : Hook) (clearAt : Nat) (old : Threshold) : Threshold :=
  if st.judging then
    match hook, old with
    | .on, .clear n => .clear n
    | .on, _ => .clear clearAt
    | .off, .digit n => if st.collecting then .digit n else .none
    | .off, _ => .none
  else .none

/-- A line in a new state: the timers that do not belong to the state are stopped (01 R4), the answered mark stays only in TALK
(07 R119), the threshold follows R29, and the mark is set if the state changed (01 R14). -/
def Line.enter (l : Line) (clearAt : Nat) (st : LineSt) : Line :=
  { l with
    st := st
    mark := l.mark || l.st != st
    answered := l.answered && st == .talk
    dialTone := if st = .dialTone then l.dialTone else none
    dialling := if st = .dialling ∨ st = .recall then l.dialling else none
    guard := if st = .releaseGuard then l.guard else none
    park := if st = .parked then l.park else none
    howler := if st = .parked then l.howler else none
    threshold := entryThreshold st l.hook clearAt l.threshold }

/-- A line enters a state. -/
def setSt (x : LineNo) (st : LineSt) (c : Chip) : Chip := c.modLine x fun l => l.enter (c.timing x).clearAt st

/-- The Tone Switch connects a bus, in place of the one before (09 R145). -/
def setTone (x : LineNo) (t : Tone) (c : Chip) : Chip :=
  c.modLine x fun l => { l with tone := t, mark := l.mark || l.tone != t }

/-- The line's slot reference changes. -/
def setSlotRef (x : LineNo) (i : Option SlotNo) (c : Chip) : Chip :=
  c.modLine x fun l => { l with slot := i, mark := l.mark || l.slot != i }

/-- A line whose ring relay is moved: closing it sets the scanner's counts to 0, opening it ends the trip run and starts the
blank (02 R22, 05 R81). A relay already in its position is left. -/
def Line.moveRelay (l : Line) (blank : Nat) (closed : Bool) : Line :=
  if l.relay = closed then l
  else if closed then { l with relay := true, run := 0, tripRun := 0, blank := 0, mark := true }
  else { l with relay := false, tripRun := 0, blank := blank, mark := true }

/-- The Timebase moves a ring relay. -/
def setRelay (x : LineNo) (closed : Bool) (c : Chip) : Chip :=
  c.modLine x fun l => l.moveRelay (c.timing x).burstBlank closed

/-- The Timebase opens every ring relay on the shelf (08 R131, 11 R169). -/
def openRelays (c : Chip) : Chip :=
  { c with lines := mapEach (v := c.lines) fun l => l.moveRelay (c.sets[l.tset]).burstBlank false }

/-- The party selector of a line is driven with a code, or released (05 R84). -/
def setSelector (x : LineNo) (s : Option Selector) (c : Chip) : Chip := c.modLine x fun l => { l with selector := s }

/-- The LCT arms a threshold on the running state of a line (02 R21). -/
def setThreshold (x : LineNo) (t : Threshold) (c : Chip) : Chip := c.modLine x fun l => { l with threshold := t }

/-- Arms the DIGIT threshold at the interdigit min (02 R32). -/
def armDigit (x : LineNo) (c : Chip) : Chip := setThreshold x (.digit (toSamples (c.timing x).interdigit)) c

/-- Arms the CLEAR threshold (02 R29). -/
def armClear (x : LineNo) (c : Chip) : Chip := setThreshold x (.clear (c.timing x).clearAt) c

/-! ## Slots -/

/-- One slot. -/
def Chip.slot (c : Chip) (i : SlotNo) : Slot := c.sst.slots[i]

/-- The chip with one slot changed. -/
def Chip.modSlot (c : Chip) (i : SlotNo) (f : Slot → Slot) : Chip :=
  { c with sst := { c.sst with slots := c.sst.slots.set i (f c.sst.slots[i]) } }

/-- The call context of a line that holds a slot. -/
def Chip.ctx (c : Chip) (x : LineNo) : Option Ctx := (c.line x).slot.map fun i => (c.slot i).ctx

/-- The call context of a line's slot changed. -/
def modCtx (x : LineNo) (f : Ctx → Ctx) (c : Chip) : Chip :=
  match (c.line x).slot with
  | some i => c.modSlot i fun s => { s with ctx := f s.ctx }
  | none => c

/-- The allocation of a line (06 R89). -/
def Chip.alloc (c : Chip) (x : LineNo) : Option Alloc := (c.ctx x).bind (·.alloc)

/-- The line holds a slot whose record has been accepted: BOUND and VALID (09 Table 9-1). -/
def Chip.accepted (c : Chip) (x : LineNo) : Bool :=
  match (c.line x).slot with
  | some i => (c.slot i).phase == .valid
  | none => false

/-- The record copy a line uses. -/
def Chip.record (c : Chip) (x : LineNo) : Option (Vector Word 8) := (c.line x).slot.map fun i => (c.slot i).copy

/-- The chip with the LRU stack changed. -/
def Chip.setLru (c : Chip) (l : List SlotNo) : Chip := { c with sst := { c.sst with lru := l } }

/-- The slot moves to the MRU end (04 R57). -/
def toMru (i : SlotNo) (c : Chip) : Chip := c.setLru (c.sst.lru.filter (· ≠ i) ++ [i])

/-- The slot moves to the LRU end (04 R57). -/
def toLru (i : SlotNo) (c : Chip) : Chip := c.setLru (i :: c.sst.lru.filter (· ≠ i))

/-- The chip with the Slot Wait List changed. -/
def Chip.setWaitList (c : Chip) (l : List SlotWait) : Chip := { c with sst := { c.sst with waitList := l } }

/-- The line waits on the Slot Wait List. -/
def Chip.listed (c : Chip) (x : LineNo) : Bool := c.sst.waitList.any (·.line == x)

/-- The chip with the Memory Port changed. -/
def Chip.modMpt (c : Chip) (f : Mpt → Mpt) : Chip := { c with mpt := f c.mpt }

/-- A request of class 2 is made: it stands behind the others (10 R160). -/
def addRequest (a : Access) (c : Chip) : Chip := c.modMpt fun m => { m with reqs := m.reqs ++ [a] }

/-- A request of class 2 is withdrawn, ended or served. -/
def dropRequest (a : Access) (c : Chip) : Chip := c.modMpt fun m => { m with reqs := m.reqs.filter (· ≠ a) }

/-- An unlocked slot that is EMPTY or WARM (04 R58 step 3). -/
def Slot.free (s : Slot) : Bool := s.lock.isNone && s.status != .bound

/-- A slot that holds no record: EMPTY, with no marks and a cleared context; the lock stays (04 R62). -/
def Slot.emptied (s : Slot) : Slot :=
  { s with
    status := .empty
    holder := none
    recLine := none
    refetch := false
    failed := false
    words := 0
    ctx := Ctx.fresh }

/-- Slots BOUND, with or without a holder (04 R55). -/
def Chip.boundCount (c : Chip) : Nat := (allSlots.filter fun i => (c.slot i).status == .bound).length

/-- Slots locked (04 R55). -/
def Chip.lockedCount (c : Chip) : Nat := (allSlots.filter fun i => (c.slot i).lock.isSome).length

/-! ## Outcomes -/

/-- A command whose occurrence is not due leaves everything as it stands (log 1). -/
def stay (s : State) : Out := .next s

/-- The machine goes on with a new chip. -/
def goOn (s : State) (c : Chip) : Out := .next { s with chip := c }

end Sys2Proof.Machine
end

