-- ==== Sys2Proof/Machine/Flags.lean ====
section
/-! DEFINITION. The attention flags with the interrupt output, and the fault record (11 R164, R165). -/

namespace Sys2Proof.Machine

/-- The Attention register's flags by bit (10 Table 10-13). -/
def attnJournal : BitVec 5 := 1#5
def attnOrderDone : BitVec 5 := 2#5
def attnStall : BitVec 5 := 4#5
def attnGen : BitVec 5 := 8#5
def attnFault : BitVec 5 := 16#5

/-- A cause sets its attention flag (11 R164). -/
def setAttention (f : BitVec 5) (c : Chip) : Chip :=
  { c with shc := { c.shc with attention := c.shc.attention ||| f } }

/-- A write to Attention clears each flag written 1, but FAULT not while the fault record holds a fault (11 R164). -/
def clearAttention (w : BitVec 5) (c : Chip) : Chip :=
  let cleared := if c.shc.fault.isSome then w &&& ~~~attnFault else w
  { c with shc := { c.shc with attention := c.shc.attention &&& ~~~cleared } }

/-- The interrupt output: asserted while a flag is set whose mask bit is 1 (11 R164). -/
def Chip.interrupt (c : Chip) : Bool := c.shc.attention &&& c.shc.mask != 0

/-- A fault kind is MAJOR (11 Table 11-2). -/
def FaultKind.major : FaultKind → Bool
  | .genLockout | .memoryTimeout | .headerInvalid => true
  | .unstableTrip | .recordInvalid | .genTrip | .planInvalid => false

/-- The time-stamp of a record or a fault: the millisecond counter, and 0 before step 5 of a start procedure
(11 R167, R171). -/
def Chip.stamp (c : Chip) : Word :=
  if c.shc.run = .starting ∧ c.shc.start ≠ .readings then 0 else c.shc.ms

/-- The fault record and the count after a fault is offered (11 R165): an empty record captures it, a MAJOR fault replaces a
MINOR one, any other is counted up to 255. -/
def offered (held : Option FaultRec) (further : Nat) (f : FaultRec) : Option FaultRec × Nat :=
  match held with
  | none => (some f, further)
  | some g => if f.kind.major && !g.kind.major then (some f, further) else (some g, min 255 (further + 1))

/-- A fault is offered to the fault record and sets the FAULT flag (11 R165). -/
def offerFault (k : FaultKind) (line : Option LineNo) (detail : Nat) (c : Chip) : Chip :=
  let r := offered c.shc.fault c.shc.further ⟨k, line, detail, c.stamp⟩
  setAttention attnFault { c with shc := { c.shc with fault := r.1, further := r.2 } }

/-- FAULT_CLEAR empties the record and the count and leaves the FAULT flag (11 R165). -/
def clearFaults (c : Chip) : Chip := { c with shc := { c.shc with fault := none, further := 0 } }

end Sys2Proof.Machine
end

