-- ==== Sys2Proof/Machine/Journal.lean ====
section
/-! DEFINITION. Forming journal records: the write queue, the held summaries and the stall (10 R154, R156, R157), without the
pages, which are in Pages.lean. -/

namespace Sys2Proof.Machine

/-- The record kind number (10 Table 10-12). -/
def Body.kind : Body → Nat
  | .seize => 1
  | .toneReady _ _ => 2
  | .digits _ _ _ => 3
  | .dialRestart _ => 4
  | .abandon _ _ => 5
  | .park _ => 6
  | .ringStarted _ _ _ _ _ _ _ => 7
  | .answer _ _ _ => 8
  | .ringExpired _ _ _ => 9
  | .ringFailed _ _ => 10
  | .shed _ _ _ _ _ => 11
  | .flash _ _ => 12
  | .clear _ _ => 13
  | .genState _ _ _ _ => 14
  | .fault _ _ => 15
  | .heldSummary _ => 16
  | .journalResumed _ => 17
  | .restartDone _ _ => 18

/-- The bit of an event kind in a held summary: bit n - 1 for kinds 1 to 15, bit 15 for RESTART_DONE (10 Table 10-12). -/
def Body.kindBit (b : Body) : Word := if b.kind = 18 then 1#16 <<< 15 else 1#16 <<< (b.kind - 1)

/-- A DIGITS record. -/
def Body.isDigits : Body → Bool
  | .digits _ _ _ => true
  | _ => false

/-- A record of the resume sequence: JOURNAL_RESUMED or HELD_SUMMARY (10 R158). -/
def Body.isResume : Body → Bool
  | .heldSummary _ | .journalResumed _ => true
  | _ => false

/-- The empty summary. -/
def Summary.empty : Summary := ⟨0, 0, false⟩

/-- One event folded into a summary (10 R157): its kind joins, the count rises up to 255. -/
def Summary.add (s : Option Summary) (b : Body) : Summary :=
  let s := s.getD Summary.empty
  { s with kinds := s.kinds ||| b.kindBit, count := min 255 (s.count + 1) }

/-- The chip with the Journal Writer changed. -/
def Chip.modJwr (c : Chip) (f : Jwr → Jwr) : Chip := { c with jwr := f c.jwr }

/-- A record is folded into its line's summary, or into the shelf summary (10 R157). -/
def Jwr.fold (j : Jwr) (r : Rec) : Jwr :=
  match r.line with
  | some x => { j with summaries := j.summaries.set x (some (Summary.add j.summaries[x] r.body)) }
  | none => { j with shelf := some (Summary.add j.shelf r.body) }

/-- Records of the queue that count toward its 32: all but the resume records (10 R158). DESIGN CHOICE (log 34): the digit blocks formed
at resume are among those that count. -/
def Jwr.counted (j : Jwr) : Nat := (j.queue.filter fun r => !r.body.isResume).length

/-- The write queue is full (10 R154). -/
def Jwr.full (j : Jwr) : Bool := Config.queueLimit ≤ j.counted

/-- A stall begins: the STALL status and the STALL attention flag (10 R156). -/
def beginStall (k : Stall) (c : Chip) : Chip := setAttention attnStall (c.modJwr fun j => { j with stall := k })

/-- A record joins the tail of the write queue; it is folded while the journal is stalled or while its line holds a summary, and
one that finds the queue full begins a queue stall and is folded (10 R154, R156, R157). -/
def enqueue (r : Rec) (c : Chip) : Chip :=
  if c.jwr.stall ≠ .none then c.modJwr (·.fold r)
  else if (r.line.map c.heldFlag).getD false then c.modJwr (·.fold r)
  else if c.jwr.full then (beginStall .queue c).modJwr (·.fold r)
  else c.modJwr fun j => { j with queue := j.queue ++ [r] }

/-- An event forms its record (10 R154). In STARTING the record is kept until the journal is opened (01 R16); while the shelf is
ISOLATED or FAILED it is folded (R157, 11 R168); in HALTED nothing is written (R153). -/
def emit (line : Option LineNo) (b : Body) (c : Chip) : Chip :=
  let r : Rec := ⟨line, c.stamp, b⟩
  match c.shc.run with
  | .halted => c
  | .isolated | .failed => c.modJwr (·.fold r)
  | .running => enqueue r c
  | .starting =>
    if c.shc.start = .readings then enqueue r c
    else c.modJwr fun j => { j with startRecs := j.startRecs ++ [r] }

/-- A fault is raised: offered to the fault record and journalled (11 R165). -/
def raiseFault (k : FaultKind) (line : Option LineNo) (detail : Nat) (c : Chip) : Chip :=
  emit line (.fault k detail) (offerFault k line detail c)

/-- The Journal Writer is taking records: not stalled, and the shelf neither ISOLATED nor down (10 R154, 03 R43). -/
def Chip.taking (c : Chip) : Bool := c.jwr.stall == .none && (c.shc.run == .running || c.shc.run == .starting)

/-- A release has discarded digits while the journal takes no records: DIGITS_LOST in the line's summary, which is opened if need
be, without raising the count (04 R63, 10 R157). -/
def markLost (x : LineNo) (c : Chip) : Chip :=
  c.modJwr fun j =>
    { j with summaries := j.summaries.set x (some { (j.summaries[x]).getD Summary.empty with lost := true }) }

/-- At a page stall, and when the shelf becomes ISOLATED, the queued records are folded in order; DIGITS records stay, and the
resume records are dropped, a HELD_SUMMARY leaving its summary with the line (10 R156, R161, log 15). -/
def Jwr.foldQueue (j : Jwr) : Jwr :=
  let folded := (j.queue.filter fun r => !r.body.isDigits && !r.body.isResume).foldl Jwr.fold j
  { folded with queue := j.queue.filter (·.body.isDigits) }

/-- A page stall begins (10 R156). -/
def beginPageStall (c : Chip) : Chip :=
  (beginStall .page c).modJwr fun j => { j.foldQueue with retry := 0 }

end Sys2Proof.Machine
end

