-- ==== Sys2Proof/Machine/Formats.lean ====
section
/-! DEFINITION. The layouts of the shared RAM (10 §10.6): line records, timing sets, ring plans, the shelf header, status words,
page headers, journal records and result words. -/

namespace Sys2Proof.Machine

/-! ## Codes (Table 10-3) -/

def LineSt.code : LineSt → Nat
  | .unequipped => 0
  | .idle => 1
  | .blocked => 2
  | .seizeWait => 3
  | .dialTone => 4
  | .dialling => 5
  | .routing => 6
  | .ringWait => 7
  | .ringing => 8
  | .talk => 9
  | .recall => 10
  | .parked => 11
  | .releaseGuard => 12

def Tone.toCode : Tone → Nat
  | .none => 0
  | .dial => 1
  | .specialDial => 2
  | .progress => 3
  | .howler => 4

def GenSt.code : GenSt → Nat
  | .off => 0
  | .starting => 1
  | .running => 2
  | .tripped => 3
  | .lockedOut => 4

def RunSt.code : RunSt → Nat
  | .halted => 0
  | .starting => 1
  | .running => 2
  | .isolated => 3
  | .failed => 4

/-- The kind code of a fault beside its severity bit. -/
def FaultKind.code : FaultKind → Nat
  | .unstableTrip => 1
  | .recordInvalid => 2
  | .genTrip => 3
  | .planInvalid => 4
  | .genLockout => 1
  | .memoryTimeout => 2
  | .headerInvalid => 3

def lineCode (x : Option LineNo) : Nat := (x.map Fin.val).getD 127

def slotCode (i : Option SlotNo) : Nat := (i.map Fin.val).getD 31

def Result.code : Result → Nat
  | .ok => 0
  | .badOrder => 1
  | .noLine => 2
  | .lineBusy => 3
  | .lineBlocked => 4
  | .tooLate => 5
  | .wrongClass => 6
  | .noSlot => 7
  | .planInUse => 8

def GenCause.code : GenCause → Nat
  | .startRequest => 1
  | .startDone => 2
  | .idleStop => 3
  | .overload => 4
  | .holdEnd => 5
  | .reset => 6

def LineClass.code : LineClass → Nat
  | .ordinary => 0
  | .priority => 1

def Digit.code : Digit → Nat
  | .value n => n.val
  | .error => 15

def ParkReason.code : ParkReason → Nat
  | .dialToneTimeout => 1
  | .recordInvalid => 2
  | .cleared => 3

def AnswerMeans.code : AnswerMeans → Nat
  | .trip => 1
  | .loop => 2
  | .waiting => 3

/-- Reason and cause of a RING_FAILED record; a wait expiry has no cause, sent as 0 into the free packing (log 6). -/
def RingFail.codes : RingFail → Nat × Nat
  | .waitExpired => (1, 0)
  | .record => (2, 1)
  | .party => (2, 2)

def ShedReason.code : ShedReason → Nat
  | .capacity => 1
  | .trip => 2

/-! ## Line records (Table 10-5) -/

/-- The party arrangements; code 3 is invalid. -/
inductive Arrangement where
  | single | selective | coded | invalid
  deriving DecidableEq, Repr

/-- Equipped, of word 0. -/
def recEquipped (w : Word) : Bool := flag w 15

/-- Class, of word 0. -/
def recClass (w : Word) : LineClass := if flag w 14 then .priority else .ordinary

/-- Signalling kind, of word 0: code 3 is taken as BOTH (01 R1). -/
def recSig (w : Word) : Signalling :=
  match field w 12 2 with
  | 0 => .pulse
  | 1 => .tone
  | _ => .both

/-- Timing set, of word 0. -/
def recTset (w : Word) : SetNo := Fin.ofNat 4 (field w 10 2)

def recArrangement (copy : Vector Word 8) : Arrangement :=
  match field copy[0] 8 2 with
  | 0 => .single
  | 1 => .selective
  | 2 => .coded
  | _ => .invalid

def recPartyCount (copy : Vector Word 8) : Nat := field copy[0] 5 3

def recSpecialDial (copy : Vector Word 8) : Bool := flag copy[0] 1

def recRecallTone (copy : Vector Word 8) : Bool := flag copy[0] 0

def recBlockSize (copy : Vector Word 8) : Nat := field copy[1] 0 4

/-- The word of party `p`, 1 to 4. -/
def recParty (copy : Vector Word 8) (p : Nat) : Word := copy.toList.getD (1 + p) 0

def recPlan (copy : Vector Word 8) (p : Nat) : PlanNo := Fin.ofNat 8 (field (recParty copy p) 4 3)

def recLoad (copy : Vector Word 8) (p : Nat) : Nat := field (recParty copy p) 0 4

/-- Parties 1 to the party count. -/
def recParties (copy : Vector Word 8) : List Nat := (List.range (recPartyCount copy)).map (· + 1)

/-- The validity check of a record (01 R2); `present p` says that plan `p` is not ABSENT. -/
def recordValid (present : PlanNo → Bool) (copy : Vector Word 8) : Bool :=
  recArrangement copy != .invalid &&
    (1 ≤ recPartyCount copy && recPartyCount copy ≤ 4) &&
    (recArrangement copy != .single || recPartyCount copy == 1) &&
    (recParties copy).all (fun p => (1 ≤ recLoad copy p && recLoad copy p ≤ 8) && present (recPlan copy p)) &&
    (1 ≤ recBlockSize copy && recBlockSize copy ≤ 8)

/-- The load of a request for a party (06 R92). -/
def requestLoad (copy : Vector Word 8) (party : Nat) : Nat :=
  match recArrangement copy with
  | .single => recLoad copy 1
  | .selective => recLoad copy party
  | .coded | .invalid => ((recParties copy).map (recLoad copy)).sum

/-- The party-selector code of a request (05 Table 5-5). -/
def requestSelector (copy : Vector Word 8) (party : Nat) : Selector :=
  match recArrangement copy with
  | .single => .code 0
  | .selective => .code (Fin.ofNat 4 (party - 1))
  | .coded | .invalid => .bridged

/-! ## Timing sets (Table 10-6, 02 R26, R27) -/

/-- The four ordering repairs, each on the values left by the one before (02 R27). -/
def TimingSet.repair (t : TimingSet) : TimingSet :=
  let t := { t with pulseMax := max t.pulseMax t.pulseMin }
  let t := { t with flashMin := if t.flashMin ≤ t.pulseMax then t.pulseMax + 2 else t.flashMin }
  let t := { t with flashMax := max t.flashMax t.flashMin }
  { t with interdigit := if t.interdigit ≤ t.pulseMax then t.pulseMax + 2 else t.interdigit }

/-- A timing set as read from its 16 words: clamped to Table 2-2, then repaired. -/
def parseTiming (ws : List Word) : TimingSet :=
  let v (i : Nat) : Nat := (ws.getD i 0).toNat
  TimingSet.repair
    { debounce := clamp 2 15 (v 0)
      pulseMin := clamp 10 60 (v 1)
      pulseMax := clamp 40 150 (v 2)
      interdigit := clamp 150 600 (v 3)
      flashMin := clamp 60 400 (v 4)
      flashMax := clamp 200 1500 (v 5)
      dialTone := clamp 5 60 (v 6)
      dialling := clamp 3 30 (v 7)
      releaseGuard := clamp 100 2000 (v 8)
      postRing := clamp 0 1000 (v 9)
      tripConfirm := clamp 2 10 (v 10)
      burstBlank := clamp 0 10 (v 11)
      parkDelay := clamp 0 120 (v 12)
      howler := clamp 5 120 (v 13) }

/-! ## Ring plans (Table 10-7, 05 R75) -/

/-- What the words of a plan give. -/
inductive PlanRead where
  | absent | malformed | good (p : Plan)
  deriving DecidableEq, Repr

/-- The plan of ten words, checked against the cycle length (05 R75). -/
def parsePlan (n : Nat) (ws : List Word) : PlanRead :=
  let count := (ws.getD 0 0).toNat
  let segs := (List.range count).map fun i => (ws.getD (1 + i) 0).toNat
  if count = 0 then .absent
  else if (count == 2 || count == 4 || count == 6 || count == 8) && segs.all (fun d => 1 ≤ d && d ≤ 60) &&
      segs.sum == n then .good segs
  else .malformed

/-- The copy a plan read leaves: present only for a well-formed plan. -/
def PlanRead.copy : PlanRead → Option Plan
  | .good p => some p
  | .absent | .malformed => none

/-- Segments in turn, `on` telling whether the first of them is ON: the segment of plan step `j`. -/
def planOnFrom : Bool → Plan → Nat → Bool
  | _, [], _ => false
  | on, d :: ds, j => if j < d then on else planOnFrom (!on) ds (j - d)

/-- Plan step `j` is ON (05 R75). -/
def planOn (p : Plan) (j : Nat) : Bool := planOnFrom true p j

/-- The plan step of a line with offset `phase` at cycle step `s` (05 R75). -/
def planStep (n s phase : Nat) : Nat := (s + n - phase) % n

/-! ## The shelf header (Table 10-4, 11 R167) -/

/-- The seven areas as (first word, size): the header and the six areas at their offsets (11 R167 step 2). -/
def headerAreas (base : Nat) (h : Header) : List (Nat × Nat) :=
  [(base, 48), (base + h.timing, 64), (base + h.plans, 80), (base + h.lines, 768), (base + h.status, 96),
    (base + h.cells, 256), (base + h.journal, 64 * h.pages)]

/-- The structural values of a header. -/
def parseHeader (ws : List Word) : Header :=
  let v (i : Nat) : Nat := (ws.getD i 0).toNat
  { equipped := v 1
    n := v 2
    pages := v 16
    timing := v 18
    plans := v 19
    lines := v 20
    status := v 21
    cells := v 22
    journal := v 23 }

/-- Two areas share no word. -/
def areasApart (a b : Nat × Nat) : Bool := a.1 + a.2 ≤ b.1 || b.1 + b.2 ≤ a.1

/-- Every pair of a list of areas is apart. -/
def allApart : List (Nat × Nat) → Bool
  | [] => true
  | a :: as => as.all (areasApart a) && allApart as

/-- The structural check of the header (11 R167 step 2). -/
def headerValid (base : Nat) (ws : List Word) : Bool :=
  let h := parseHeader ws
  (ws.getD 0 0).toNat == 3 && (1 ≤ h.equipped && h.equipped ≤ 96) && (12 ≤ h.n && h.n ≤ 60) &&
    (2 ≤ h.pages && h.pages ≤ 16) && (headerAreas base h).all (fun a => a.1 + a.2 ≤ Config.ramWords) &&
    allApart (headerAreas base h)

/-! ## Status words and page headers (Tables 10-9, 10-10) -/

/-- The status word of a line (01 R14, Table 10-10); the hook field of an UNEQUIPPED line shows ON_HOOK. -/
def Line.statusWord (l : Line) : Word :=
  BitVec.ofNat 4 l.st.code ++ BitVec.ofBool (l.hook == .off && l.st != .unequipped) ++ BitVec.ofNat 3 l.tone.toCode ++
    BitVec.ofBool l.relay ++ (Config.unlisted 0).extractLsb' 5 2 ++ BitVec.ofNat 5 (slotCode l.slot)

/-- Page states (Table 10-9). -/
def pageFilling : BitVec 2 := 1#2
def pageClosed : BitVec 2 := 2#2

/-- The first word of a page header. -/
def pageWord0 (st : BitVec 2) (seq : Nat) : Word :=
  st ++ (Config.unlisted 1).extractLsb' 8 6 ++ BitVec.ofNat 8 seq

/-- The second word of a page header. -/
def pageWord1 (used : Nat) : Word := (Config.unlisted 2).extractLsb' 6 10 ++ BitVec.ofNat 6 used

/-- The page header reads EMPTY (Table 10-9). -/
def pageEmpty (w : Word) : Bool := field w 14 2 == 0

/-! ## Journal records (Tables 10-9, 10-10, 10-12) -/

/-- The digit in place `i` of a DIGITS record, or the unlisted bits where the count does not reach (log 7). -/
def digitNibble (ds : List Digit) (i : Nat) : BitVec 4 :=
  match ds[i]? with
  | some d => BitVec.ofNat 4 d.code
  | none => (Config.unlisted 4).extractLsb' 0 4

/-- The digit word that begins with digit `i`. -/
def digitWord (ds : List Digit) (i : Nat) : Word :=
  digitNibble ds i ++ digitNibble ds (i + 1) ++ digitNibble ds (i + 2) ++ digitNibble ds (i + 3)

/-- The digit words of a DIGITS record: as many as the count requires. -/
def digitWords (ds : List Digit) : List Word := (List.range ((ds.length + 3) / 4)).map fun k => digitWord ds (4 * k)

/-- Word 2 of a DIGITS record (Table 10-10). -/
def digitsWord2 (ds : List Digit) (f : Option EndFlag) (overflow : Bool) : Word :=
  (Config.unlisted 3).extractLsb' 8 8 ++ BitVec.ofBool overflow ++ BitVec.ofBool (f == some .error) ++
    BitVec.ofBool (f == some .timeout) ++ BitVec.ofBool (f == some .final) ++ BitVec.ofNat 4 ds.length

/-- The body words of a record. `s` is the summary that a HELD_SUMMARY record carries. Fields that the table joins by commas in
one word are packed as the free value gives (log 6). -/
def Body.words (s : Summary) : Body → List Word
  | .seize => []
  | .toneReady delay bus => [word delay, word bus.toCode]
  | .digits ds f ov => digitsWord2 ds f ov :: digitWords ds
  | .dialRestart n => [word n]
  | .abandon st n => [word st.code, word n]
  | .park r => [word r.code]
  | .ringStarted party plan cls phase k delay left =>
    [Config.packed 7 2 [party, plan.val, cls.code], Config.packed 7 3 [phase, k], word delay, word left]
  | .answer rung early means => [word rung, Config.packed 8 3 [early.toNat, means.code]]
  | .ringExpired party plan rung => [Config.packed 9 2 [party, plan.val], word rung]
  | .ringFailed why party => [Config.packed 10 2 [why.codes.1, why.codes.2, party]]
  | .shed r party plan rung carried => [Config.packed 11 2 [r.code, party, plan.val], word rung, word carried]
  | .flash st n => [word st.code, word n]
  | .clear st n => [word st.code, word n]
  | .genState new old cause trips => [Config.packed 14 2 [new.code, old.code], Config.packed 14 3 [cause.code, trips]]
  | .fault k detail => [Config.packed 15 2 [k.major.toNat, k.code, detail]]
  | .heldSummary code => [word code, s.kinds, Config.packed 16 4 [s.count, s.lost.toNat]]
  | .journalResumed n => [word n]
  | .restartDone warm n => [word warm.toNat, word n]

/-- The summary that a HELD_SUMMARY record carries: its line's, or the shelf's (10 R158). -/
def Jwr.summaryOf (j : Jwr) (line : Option LineNo) : Summary :=
  (match line with
    | some x => j.summaries[x]
    | none => j.shelf).getD Summary.empty

/-- The words of a record (Table 10-9): header word, time-stamp, body. -/
def Rec.words (j : Jwr) (r : Rec) : List Word :=
  let body := r.body.words (j.summaryOf r.line)
  (BitVec.ofNat 5 r.body.kind ++ BitVec.ofNat 3 (body.length + 1) ++ (Config.unlisted 5).extractLsb' 7 1 ++
    BitVec.ofNat 7 (lineCode r.line)) :: r.stamp :: body

/-- The number of words of a record (Table 10-12). -/
def Body.length : Body → Nat
  | .seize => 2
  | .toneReady _ _ | .abandon _ _ | .answer _ _ _ | .ringExpired _ _ _ | .flash _ _ | .clear _ _ | .genState _ _ _ _
  | .restartDone _ _ => 4
  | .digits ds _ _ => 3 + (ds.length + 3) / 4
  | .dialRestart _ | .park _ | .ringFailed _ _ | .fault _ _ | .journalResumed _ => 3
  | .ringStarted _ _ _ _ _ _ _ => 6
  | .shed _ _ _ _ _ | .heldSummary _ => 5

/-! ## Addresses -/

/-- The word address of the shelf header. -/
def Chip.base (c : Chip) : Nat := c.shc.areaBase.toNat

/-- The first word of a timing set. -/
def Chip.timingAddr (c : Chip) (k : SetNo) : Nat := c.base + c.shc.hdr.timing + 16 * k.val

/-- The first word of a ring plan. -/
def Chip.planAddr (c : Chip) (p : PlanNo) : Nat := c.base + c.shc.hdr.plans + 10 * p.val

/-- The first word of a line record (04 R60). -/
def Chip.recordAddr (c : Chip) (x : LineNo) : Nat := c.base + c.shc.hdr.lines + 8 * x.val

/-- The status word of a line. -/
def Chip.statusAddr (c : Chip) (x : LineNo) : Nat := c.base + c.shc.hdr.status + x.val

/-- The first word of an order cell. -/
def Chip.cellAddr (c : Chip) (k : CellNo) : Nat := c.base + c.shc.hdr.cells + 8 * k.val

/-- The first word of the page open or next to open (10 §10.3). -/
def Chip.pageAddr (c : Chip) : Nat := c.base + c.shc.hdr.journal + 64 * c.jwr.index

end Sys2Proof.Machine
end

