-- ==== Sys2Proof/Machine/Registers.lean ====
section
/-! DEFINITION. The register port as the exchange processor reads it (10 Table 10-13). Reads change nothing. -/

namespace Sys2Proof.Machine

/-- Control reads as the select bit and the mask last written (11 R163). -/
def Chip.readControl (c : Chip) : Word := 0#7 ++ c.shc.mask ++ BitVec.ofBool c.shc.sel ++ 0#3

/-- The severity held: 0 none, 1 minor, 2 major. -/
def Chip.severity (c : Chip) : Nat :=
  match c.shc.fault with
  | none => 0
  | some f => if f.kind.major then 2 else 1

/-- Status, by the select bit: run state, generator state, modes, STALL and severity; or the slot counts. -/
def Chip.readStatus (c : Chip) : Word :=
  if c.shc.sel then 0#7 ++ BitVec.ofNat 4 c.lockedCount ++ BitVec.ofNat 5 c.boundCount
  else
    0#5 ++ BitVec.ofNat 2 c.severity ++ BitVec.ofBool (c.jwr.stall != .none) ++
      BitVec.ofBool (c.rsc.stagedMode == .conserve) ++ BitVec.ofBool (c.rsc.mode == .conserve) ++
      BitVec.ofNat 3 c.gen.state.code ++ BitVec.ofNat 3 c.shc.run.code

/-- Attention. -/
def Chip.readAttention (c : Chip) : Word := 0#11 ++ c.shc.attention

/-- Area Base. -/
def Chip.readAreaBase (c : Chip) : Word := 0#1 ++ c.shc.areaBase

/-- Fault A: 0 while the record is empty (11 R165). -/
def Chip.readFaultA (c : Chip) : Word :=
  match c.shc.fault with
  | none => 0
  | some f =>
    BitVec.ofBool f.kind.major ++ BitVec.ofNat 3 f.kind.code ++ BitVec.ofNat 3 f.detail ++ 0#2 ++
      BitVec.ofNat 7 (lineCode f.line)

/-- Fault B, by the select bit: the time-stamp, or the further-faults count. -/
def Chip.readFaultB (c : Chip) : Word :=
  if c.shc.sel then word c.shc.further
  else
    match c.shc.fault with
    | none => 0
    | some f => f.stamp

/-- The generator-enable output (08 R126). -/
def Chip.genEnable (c : Chip) : Bool := c.gen.state == .starting || c.gen.state == .running

/-- The states of a ring plan (05 Table 5-2). -/
inductive PlanSt where
  | absent | pending | active | activeStaged
  deriving DecidableEq, Repr

/-- The state of a plan, by which of its copies are present. -/
def Chip.planSt (c : Chip) (p : PlanNo) : PlanSt :=
  match c.ctb.active[p], c.ctb.staged[p] with
  | none, none => .absent
  | none, some _ => .pending
  | some _, none => .active
  | some _, some _ => .activeStaged

end Sys2Proof.Machine
end

