-- ==== Sys2Proof/Machine/Ring.lean ====
section
/-! DEFINITION. Ringing: the Phase Load Table, admission and the walk (06), removal, shed and trip (06, 07), the generator
(08). -/

namespace Sys2Proof.Machine

def Chip.modRsc (c : Chip) (f : Rsc → Rsc) : Chip := { c with rsc := f c.rsc }

def Chip.modGen (c : Chip) (f : Gen → Gen) : Chip := { c with gen := f c.gen }

def Chip.modCtb (c : Chip) (f : Ctb → Ctb) : Chip := { c with ctb := f c.ctb }

/-! ## Budget (06 R91, R93) -/

/-- The active capacity C_a. -/
def Rsc.cap (r : Rsc) : Nat :=
  match r.mode with
  | .normal => r.capacity
  | .conserve => r.conserveCap

/-- The active reserve Res_a. -/
def Rsc.res (r : Rsc) : Nat := min r.reserve r.cap

/-- An entry is boosted (06 R100). -/
def Rsc.boosted (r : Rsc) (e : RingWait) : Bool := r.boost != 0 && r.boost ≤ e.age

/-- An entry is pressed (06 R99). -/
def Rsc.pressed (r : Rsc) (e : RingWait) : Bool := r.press != 0 && r.press ≤ e.age

/-- The limit an attempt is tested against (06 R93). -/
def Rsc.limit (r : Rsc) (e : RingWait) : Nat :=
  if e.cls = .priority then r.cap else if r.boosted e then r.cap else r.cap - r.res

/-! ## The Phase Load Table (06 R88) -/

/-- A plan at an offset is ON at cycle step `s`. -/
def onAt (n : Nat) (p : Plan) (phase s : Nat) : Bool := planOn p (planStep n s phase)

/-- The table with a load added at the steps where a plan at an offset is ON. -/
def pltAdd (n : Nat) (plt : List Nat) (p : Plan) (phase load : Nat) : List Nat :=
  (List.range n).map fun s => plt.getD s 0 + if onAt n p phase s then load else 0

/-- The table with the same load taken away. -/
def pltSub (n : Nat) (plt : List Nat) (p : Plan) (phase load : Nat) : List Nat :=
  (List.range n).map fun s => plt.getD s 0 - if onAt n p phase s then load else 0

/-- A candidate offset fits (06 R94). -/
def fits (n : Nat) (plt : List Nat) (p : Plan) (load limit phase : Nat) : Bool :=
  (List.range n).all fun s => !onAt n p phase s || plt.getD s 0 + load ≤ limit

/-- The least k from 1 to N whose offset (c + k) mod N fits (06 R94). -/
def findOffset (n : Nat) (plt : List Nat) (p : Plan) (load limit step : Nat) : Option Nat :=
  ((List.range n).map (· + 1)).find? fun k => fits n plt p load limit ((step + k) % n)

/-! ## The Ring Wait Queue (06 R96) -/

/-- An entry after the last of its class: as a RING order places it. -/
def queueTail (q : List RingWait) (e : RingWait) : List RingWait :=
  match e.cls with
  | .ordinary => q ++ [e]
  | .priority => q.filter (·.cls = .priority) ++ e :: q.filter (·.cls ≠ .priority)

/-- An entry at the head of its class: as a shed or a trip places it. -/
def queueHead (q : List RingWait) (e : RingWait) : List RingWait :=
  match e.cls with
  | .priority => e :: q
  | .ordinary => q.filter (·.cls = .priority) ++ e :: q.filter (·.cls ≠ .priority)

/-- The entry of a line. -/
def Chip.entry (c : Chip) (x : LineNo) : Option RingWait := c.rsc.queue.find? (·.line = x)

/-- The entry of a line leaves the queue. -/
def dropEntry (x : LineNo) (c : Chip) : Chip :=
  c.modRsc fun r => { r with queue := r.queue.filter (·.line ≠ x) }

/-- The entry of a line is changed in its place. -/
def modEntry (x : LineNo) (f : RingWait → RingWait) (c : Chip) : Chip :=
  c.modRsc fun r => { r with queue := r.queue.map fun e => if e.line = x then f e else e }

/-- A plan is not ABSENT (05 R76). -/
def Chip.planPresent (c : Chip) (p : PlanNo) : Bool := c.planSt p != .absent

/-- RELOAD_PLAN has read and checked a copy of a plan, which is staged as its result is written (05 R79). -/
def Chip.reloading (c : Chip) (p : PlanNo) : Bool := (c.ord.staging.map (·.1)) == some p

/-- Conditions 1 to 4 of eligibility (06 R97). DESIGN CHOICE (log 17): a plan of which a copy is held to be staged is not
rung on, so that no plan in use changes (05 R76). -/
def Chip.ready (c : Chip) (e : RingWait) : Bool :=
  !e.needsSlot && !e.fetching && e.notBefore.isNone &&
    match e.plan with
    | some p => c.planSt p == .active && !c.reloading p
    | none => false

/-- Demand exists (06 R97). -/
def Chip.demand (c : Chip) : Bool := c.rsc.queue.any c.ready

/-- An allocation names a plan (05 R78). -/
def Chip.planInUse (c : Chip) (p : PlanNo) : Bool :=
  c.rsc.allocs.any fun x => (c.alloc x).any fun a => a.plan = p

/-! ## Removal (06 R102, R103, R107) -/

/-- The load of an allocation leaves the table, the line leaves the allocation list and the allocation its context, the relay is
opened at once and the selector released (06 R102 steps 1 to 3). -/
def dropAlloc (x : LineNo) (a : Alloc) (c : Chip) : Chip :=
  let c := c.modRsc fun r =>
    { r with
      plt := pltSub c.shc.hdr.n r.plt ((c.ctb.active[a.plan]).getD []) a.phase a.load
      allocs := r.allocs.filter (· ≠ x) }
  setSelector x none (setRelay x false (modCtx x (fun k => { k with alloc := none }) c))

/-- A ringing line goes back to waiting by a shed or a trip: its allocation is removed, its entry stands at the head of its class
with the cycles left, and the LCT resets the first-burst flag and writes SHED (06 R103, R107, 07 R122). -/
def shedLine (why : ShedReason) (x : LineNo) (c : Chip) : Chip :=
  match c.alloc x with
  | none => c.modRsc fun r => { r with allocs := r.allocs.filter (· ≠ x) }
  | some a =>
    let rung := ((c.ctx x).map (·.cyclesRung)).getD 0
    let c := dropAlloc x a c
    let c := c.modRsc fun r =>
      { r with
        queue := queueHead r.queue
          { line := x
            party := a.party
            plan := some a.plan
            cycles := a.cyclesLeft
            cls := a.cls
            age := a.age
            notBefore := none
            needsSlot := false
            fetching := false
            wait := 0 } }
    let c := modCtx x (fun k => { k with burst := false }) c
    emit (some x) (.shed why a.party a.plan rung a.cyclesLeft) (setSt x .ringWait c)

/-! ## The generator (08) -/

/-- A change of generator state with its record; entry to TRIPPED or LOCKED_OUT sets the GEN flag (08 R135). -/
def setGen (st : GenSt) (cause : GenCause) (trips : Nat) (c : Chip) : Chip :=
  let old := c.gen.state
  let c := emit none (.genState st old cause trips) (c.modGen fun g => { g with state := st })
  if st = .tripped ∨ st = .lockedOut then setAttention attnGen c else c

/-- The trip history with the entries older than the window dropped (08 R132). -/
def Gen.recent (g : Gen) : List Nat := g.history.filter (· ≤ 1000 * g.tripWindow)

/-- The generator trips (08 R131, R132): timers stopped, every relay opened, the history brought up, TRIPPED or on the third trip
in the window LOCKED_OUT with the fault, every allocation shed from the newest. The walk that follows admits nothing, since the
generator is neither RUNNING nor OFF (06 R97), and is not written out. -/
def tripGen (c : Chip) : Chip :=
  let keep := c.gen.recent
  let c := openRelays (c.modGen fun g => { g with startTimer := none, idleTimer := none })
  let c :=
    if 2 ≤ keep.length then
      raiseFault .genLockout none 0
        (setGen .lockedOut .overload 3 (c.modGen fun g => { g with history := [] }))
    else
      raiseFault .genTrip none 0
        (setGen .tripped .overload (keep.length + 1)
          (c.modGen fun g =>
            { g with history := 0 :: keep, holdTimer := some (Timer.start (1000 * g.tripHold)) }))
  c.rsc.allocs.reverse.foldl (fun c x => shedLine .trip x c) c

/-- A start request (08 R128): in OFF the generator starts, and a standing overload trips it at once. -/
def startRequest (c : Chip) : Chip :=
  if c.gen.state = .off then
    let c := setGen .starting .startRequest 0
      (c.modGen fun g => { g with startTimer := some (Timer.start g.startTime) })
    if c.gen.overload then tripGen c else c
  else c

/-! ## Admission (06 R94, R95, R98, R99) -/

/-- The ms left of the step in progress (06 R95). While a boundary is due and not yet taken the last scan period counts
(log 14). -/
def Chip.stepRest (c : Chip) : Nat := Config.stepMs - Config.scanMs * min c.ctb.periods (Config.scansPerStep - 1)

/-- The cycles left of a new allocation: in CONSERVE mode a count of 0 or above the limit is the limit (06 R95). -/
def Rsc.clampCycles (r : Rsc) (cycles : Nat) : Nat :=
  if r.mode = .conserve ∧ (cycles = 0 ∨ r.conserveMax < cycles) then r.conserveMax else cycles

/-- The admission of a request that fits at candidate `k` (06 R95, 07 R114). -/
def admitRing (e : RingWait) (p : PlanNo) (segs : Plan) (copy : Vector Word 8) (k : Nat) (c : Chip) : Chip :=
  let n := c.shc.hdr.n
  let load := requestLoad copy e.party
  let phase := (c.ctb.step + k) % n
  let left := c.rsc.clampCycles e.cycles
  let sel := requestSelector copy e.party
  let delay := c.stepRest + (k - 1) * Config.stepMs
  let a : Alloc :=
    { party := e.party
      plan := p
      phase := phase
      load := load
      cls := e.cls
      age := e.age
      cyclesLeft := left
      selector := sel }
  let c := modCtx e.line (fun x => { x with alloc := some a }) c
  let c := c.modRsc fun r =>
    { r with
      plt := pltAdd n r.plt segs phase load
      allocs := r.allocs ++ [e.line]
      queue := r.queue.filter (·.line ≠ e.line) }
  let c := setSt e.line .ringing (setSelector e.line (some sel) c)
  emit (some e.line) (.ringStarted e.party p e.cls phase k delay left) c

/-- One admission attempt (06 R94): the chip with the request admitted, or none if no offset fits. -/
def tryAdmit (e : RingWait) (c : Chip) : Option Chip :=
  match e.plan, c.record e.line with
  | some p, some copy =>
    match c.ctb.active[p] with
    | some segs =>
      (findOffset c.shc.hdr.n c.rsc.plt segs (requestLoad copy e.party) (c.rsc.limit e) c.ctb.step).map
        fun k => admitRing e p segs copy k c
    | none => none
  | _, _ => none

/-- The walk over the entries of the queue as it stood when the walk began (06 R99). -/
def walkFrom : List RingWait → Chip → Chip
  | [], c => c
  | e :: es, c =>
    if c.ready e then
      match tryAdmit e c with
      | some c' => walkFrom es c'
      | none => if c.rsc.pressed e then c else walkFrom es c
    else walkFrom es c

/-- An admission walk (06 R97, R98): with the generator RUNNING the entries are tried; with it OFF demand makes a start request;
in any other state nothing is done. -/
def walk (c : Chip) : Chip :=
  match c.gen.state with
  | .running => walkFrom c.rsc.queue c
  | .off => if c.demand then startRequest c else c
  | .starting | .tripped | .lockedOut => c

/-- The removal of a line's allocation at the end of its ringing, with its walk; nothing for a line that has none (06 R102). -/
def removeAlloc (x : LineNo) (c : Chip) : Chip :=
  match c.alloc x with
  | some a => walk (dropAlloc x a c)
  | none => c

/-! ## The idle stop timer (08 R130) -/

/-- The generator is RUNNING and idle. -/
def Chip.genIdle (c : Chip) : Bool := c.gen.state == .running && c.rsc.allocs.isEmpty && !c.demand

/-- The idle stop timer after a command that took the chip from `c0` to `c`: started as the generator becomes idle, stopped as it
stops being idle (08 R130). DESIGN CHOICE (log 35): a generator that was idle without a timer, its idle stop being 0, gets none when a
WARM_RESTART brings another idle stop. -/
def settleIdle (c0 c : Chip) : Chip :=
  if c.genIdle then
    if c0.genIdle then c
    else
      c.modGen fun g =>
        { g with idleTimer := if g.idleStop = 0 then none else some (Timer.start (1000 * g.idleStop)) }
  else c.modGen fun g => { g with idleTimer := none }

end Sys2Proof.Machine
end

