-- ==== Sys2Proof/Machine/Slots.lean ====
section
/-! DEFINITION. Entries to the line states that belong to no call phase (01), and the Slot Store: requests, grants, fetches,
release and the grant of freed slots (04), with what the LCT does at a grant (03, 07, 09). -/

namespace Sys2Proof.Machine

/-! ## Entries to states -/

/-- A line enters UNEQUIPPED (01 R6): no tone, no sampling, no selector, timers stopped, a held slot request withdrawn. -/
def enterUnequipped (x : LineNo) (c : Chip) : Chip :=
  (setSelector x none (setTone x .none (setSt x .unequipped c))).modLine x fun l =>
    { l with sampling := .off, asking := false }

/-- A line that would enter IDLE: UNEQUIPPED if its equipped field reads "no" (01 R6, R8). -/
def enterIdle (x : LineNo) (c : Chip) : Chip :=
  if (c.line x).equipped then setTone x .none (setSt x .idle c) else enterUnequipped x c

/-- A line enters RELEASE_GUARD with a guard of `ms`; with a guard of 0 it goes at once to IDLE (01 R9). -/
def enterGuard (x : LineNo) (ms : Nat) (c : Chip) : Chip :=
  if ms = 0 then enterIdle x c
  else
    (setTone x .none (setSt x .releaseGuard c)).modLine x fun l => { l with guard := some (Timer.start ms) }

/-- RELEASE_GUARD with the release guard of the line's timing set. -/
def enterReleaseGuard (x : LineNo) (c : Chip) : Chip := enterGuard x (c.timing x).releaseGuard c

/-- RELEASE_GUARD with the post-ring guard of the line's timing set. -/
def enterPostRingGuard (x : LineNo) (c : Chip) : Chip := enterGuard x (c.timing x).postRing c

/-- A line enters PARKED (03 R51): tone NONE and the park timer started, where the delay is not 0; a PARK record where the cause
writes one. -/
def enterParked (x : LineNo) (why : Option ParkReason) (c : Chip) : Chip :=
  let delay := 1000 * (c.timing x).parkDelay
  let c := (setTone x .none (setSt x .parked c)).modLine x fun l =>
    { l with park := if delay = 0 then none else some (Timer.start delay), howler := none }
  match why with
  | some r => emit (some x) (.park r) c
  | none => c

/-- A line enters TALK (09 R137), with the answered mark or without (07 R119). -/
def enterTalk (x : LineNo) (answered : Bool) (c : Chip) : Chip :=
  (setTone x .none (setSt x .talk c)).modLine x fun l => { l with answered := answered }

/-! ## Digits given up -/

/-- The number of buffered digits of a line (03 R50). -/
def Chip.buffered (c : Chip) (x : LineNo) : Nat := ((c.ctx x).map (·.buffer.length)).getD 0

/-! ## Binding and giving up a slot -/

/-- How a slot is granted (04 R59). -/
inductive GrantKind where
  | hit | running | miss
  deriving DecidableEq, Repr

/-- A slot bound to a line (04 R59): fresh context, record-failed cleared; a miss drops the copy and requests a fetch. -/
def Slot.bind (s : Slot) (x : LineNo) (k : GrantKind) : Slot :=
  { s with
    status := .bound
    holder := some x
    recLine := some x
    ctx := Ctx.fresh
    failed := false
    phase := match k with
      | .hit => .valid
      | .running | .miss => .fetching
    refetch := match k with
      | .miss => false
      | .hit | .running => s.refetch
    words := match k with
      | .miss => 0
      | .hit | .running => s.words }

/-- The kind of the grant of a slot to a line: a BOUND slot is still being fetched for it, a WARM copy of its record is a hit, any
other slot is a miss (04 R58, R64). -/
def Slot.grantKind (s : Slot) (x : LineNo) : GrantKind :=
  match s.status with
  | .bound => .running
  | .warm => if s.recLine = some x then .hit else .miss
  | .empty => .miss

/-- The slot is bound to the line and moves to the MRU end, the line's slot reference names it, and a miss requests the fetch
(04 R59, R60). -/
def bindSlot (i : SlotNo) (x : LineNo) (c : Chip) : Chip :=
  let k := (c.slot i).grantKind x
  let c := setSlotRef x (some i) (toMru i (c.modSlot i fun s => s.bind x k))
  match k with
  | .miss => addRequest (.fetch i) c
  | .hit | .running => c

/-- Release of a VALID slot by its line, up to the freeing (04 R63). A slot that becomes WARM keeps its record line, which is the
releasing line (R55). -/
def dropValid (x : LineNo) (i : SlotNo) (c : Chip) : Chip :=
  let s := c.slot i
  let lost := !s.ctx.buffer.isEmpty || s.ctx.mark.isSome
  let c := if lost && !c.taking then markLost x c else c
  let c := setSlotRef x none c
  if s.refetch || s.failed then toLru i (c.modSlot i Slot.emptied)
  else
    toMru i (c.modSlot i fun s =>
      { s with
        status := .warm
        holder := none
        ctx := Ctx.fresh })

/-- A line leaves a slot whose fetch is in progress (04 R61): a begun fetch runs on without a holder, a waiting one is withdrawn. -/
def dropFetching (x : LineNo) (i : SlotNo) (c : Chip) : Chip :=
  let begun := (c.slot i).words ≠ 0
  let c := setSlotRef x none c
  if begun then c.modSlot i fun s => { s with holder := none }
  else dropRequest (.fetch i) (toLru i (c.modSlot i Slot.emptied))

/-- A line gives up whatever its slot request has come to: a VALID slot is released (04 R63), a slot being fetched is left (R61), a
place on the Slot Wait List or a request held in STARTING is withdrawn (R66, 01 R16). The answer also names the slot to be looked
at for R64. -/
def dropSlot (x : LineNo) (c : Chip) : Chip × Option SlotNo :=
  match (c.line x).slot with
  | some i =>
    match (c.slot i).phase with
    | .valid => (dropValid x i c, some i)
    | .fetching => (dropFetching x i c, some i)
  | none =>
    ((c.setWaitList (c.sst.waitList.filter (·.line ≠ x))).modLine x fun l => { l with asking := false }, none)

/-! ## The record at a grant or at fetch completion -/

/-- The dial tone of a line's record copy (03 R37). -/
def Chip.dialBus (c : Chip) (x : LineNo) : Tone :=
  if (c.record x).any recSpecialDial then .specialDial else .dial

/-- Dial tone is connected and the dial-tone timer started as the line enters DIAL_TONE (03 R37, R49). -/
def giveDialTone (x : LineNo) (c : Chip) : Chip :=
  (setTone x (c.dialBus x) (setSt x .dialTone c)).modLine x fun l =>
    { l with dialTone := some (Timer.start (1000 * (c.timing x).dialTone)) }

/-- A valid record at seizure (03 R37): dial tone and TONE_READY with the seizure elapsed count. -/
def applyDialTone (x : LineNo) (c : Chip) : Chip :=
  emit (some x) (.toneReady (c.line x).seizure (c.dialBus x)) (giveDialTone x c)

/-- The dialling timer is started (03 R38, 09 R139). -/
def startDialling (x : LineNo) (c : Chip) : Chip :=
  c.modLine x fun l => { l with dialling := some (Timer.start (1000 * (c.timing x).dialling)) }

/-- The slot's record-failed mark is set (04 R63). -/
def markFailed (x : LineNo) (c : Chip) : Chip :=
  match (c.line x).slot with
  | some i => c.modSlot i fun s => { s with failed := true }
  | none => c

/-- An invalid record at seizure (03 R36): fault, slot released EMPTY, line parked. -/
def refuseSeizure (x : LineNo) (c : Chip) : Chip × Option SlotNo :=
  let (c, freed) := dropSlot x (raiseFault .recordInvalid (some x) 0 (markFailed x c))
  (enterParked x (some .recordInvalid) c, freed)

/-- A called line's record accepted (07 R112): marks clear, plan resolved, admission walk. DESIGN CHOICE (log 41): the walk is made
whether or not the entry then meets the other conditions of 06 R97. -/
def acceptRing (x : LineNo) (copy : Vector Word 8) (c : Chip) : Chip :=
  let party (e : RingWait) : Nat := if recArrangement copy = .single then 1 else e.party
  walk (modEntry x
    (fun e =>
      { e with needsSlot := false, fetching := false, plan := some (e.plan.getD (recPlan copy (party e))) }) c)

/-- A called line's record refused (07 R113). -/
def refuseRing (x : LineNo) (why : RingFail) (party : Nat) (c : Chip) : Chip × Option SlotNo :=
  let c := if why = .record then markFailed x c else c
  let c := emit (some x) (.ringFailed why party) (raiseFault .recordInvalid (some x) 0 c)
  let (c, freed) := dropSlot x (dropEntry x c)
  (enterIdle x c, freed)

/-- A recall's record accepted (09 R139). -/
def acceptRecall (x : LineNo) (copy : Vector Word 8) (c : Chip) : Chip :=
  startDialling x (if recRecallTone copy then setTone x .dial c else c)

/-- A recall's record refused (09 R139): the line stays in RECALL without a slot. -/
def refuseRecall (x : LineNo) (c : Chip) : Chip × Option SlotNo :=
  dropSlot x (raiseFault .recordInvalid (some x) 0 (markFailed x c))

/-- The LCT takes a line's record by the line's state (01 R2): at a grant with a valid copy, or at the completion of its fetch. The
answer also names a slot the line gave up. -/
def takeRecord (x : LineNo) (c : Chip) : Chip × Option SlotNo :=
  match c.record x with
  | none => (c, none)
  | some copy =>
    let valid := recordValid c.planPresent copy
    match (c.line x).st with
    | .seizeWait => if valid then (applyDialTone x c, none) else refuseSeizure x c
    | .ringWait =>
      match c.entry x with
      | none => (c, none)
      | some e =>
        if !valid then refuseRing x .record e.party c
        else if recPartyCount copy < e.party then refuseRing x .party e.party c
        else (acceptRing x copy c, none)
    | .recall => if valid then (acceptRecall x copy c, none) else refuseRecall x c
    | _ => (c, none)

/-- What the LCT does with a grant (04 R59): a called line's entry no longer needs a slot, and a grant with a valid copy has its
record taken at once. -/
def takeGrant (i : SlotNo) (x : LineNo) (c : Chip) : Chip × Option SlotNo :=
  let fetching := (c.slot i).phase == .fetching
  let c := modEntry x (fun e => { e with needsSlot := false, fetching := fetching }) c
  if fetching then (c, none) else takeRecord x c

/-! ## Freed slots and requests -/

/-- A slot that is unlocked and not BOUND is granted to the head of the Slot Wait List (04 R64). A grant may end in a slot given up
again, which goes to the next entry; `fuel` bounds the entries (log 21). -/
def settleFreed : Nat → SlotNo → Chip → Chip
  | 0, _, c => c
  | fuel + 1, i, c =>
    match c.sst.waitList with
    | [] => c
    | e :: rest =>
      if (c.slot i).free then
        let r := takeGrant i e.line (bindSlot i e.line (c.setWaitList rest))
        match r.2 with
        | some j => settleFreed fuel j r.1
        | none => r.1
      else c

/-- The freed slot, if any, is granted on (04 R64). -/
def grantFreed (r : Chip × Option SlotNo) : Chip :=
  match r.2 with
  | some i => settleFreed r.1.sst.waitList.length i r.1
  | none => r.1

/-- A line gives up its slot or its request, and a freed slot is granted on (04 R61, R63, R64, R66). -/
def releaseSlot (x : LineNo) (c : Chip) : Chip := grantFreed (dropSlot x c)

/-- The slot that a request of line x takes (04 R58 steps 1 to 3). -/
def Chip.chooseSlot (c : Chip) (x : LineNo) : Option SlotNo :=
  let own (i : SlotNo) : Bool :=
    (c.slot i).lock == some x && ((c.slot i).status != .bound || (c.slot i).holder.isNone)
  let copy (i : SlotNo) : Bool :=
    (c.slot i).lock.isNone && (c.slot i).recLine == some x &&
      ((c.slot i).status == .warm || ((c.slot i).status == .bound && (c.slot i).holder.isNone))
  match allSlots.find? own with
  | some i => some i
  | none =>
    match allSlots.find? copy with
    | some i => some i
    | none => c.sst.lru.find? fun i => (c.slot i).free

/-- An entry after the last of its class (04 R65). -/
def waitTail (l : List SlotWait) (e : SlotWait) : List SlotWait :=
  match e.cls with
  | .ordinary => l ++ [e]
  | .priority => l.filter (·.cls = .priority) ++ e :: l.filter (·.cls ≠ .priority)

/-- A line asks for a slot (04 R58). In STARTING the request is held (01 R16). -/
def requestSlot (x : LineNo) (p : Purpose) (cls : LineClass) (c : Chip) : Chip :=
  let c := c.modLine x fun l => { l with askClass := cls }
  if c.shc.run = .starting then c.modLine x fun l => { l with asking := true }
  else
    match c.chooseSlot x with
    | some i => grantFreed (takeGrant i x (bindSlot i x c))
    | none => c.setWaitList (waitTail c.sst.waitList ⟨x, p, cls⟩)

/-- The purpose of a line's slot request, by its state (04 §4.3). -/
def LineSt.purpose : LineSt → Purpose
  | .ringWait => .terminate
  | .recall => .recall
  | _ => .originate

/-! ## Seizure -/

/-- A line is seized (03 R34): SEIZE record, SEIZE_WAIT, tone NONE, elapsed count 0, slot request. In STARTING the record waits for
RUNNING (01 R16). -/
def seize (x : LineNo) (c : Chip) : Chip :=
  let c := if c.shc.run = .starting then c else emit (some x) .seize c
  let c := (setTone x .none (setSt x .seizeWait c)).modLine x fun l => { l with seizure := 0 }
  requestSlot x .originate (c.line x).cls c

end Sys2Proof.Machine
end

