-- ==== Sys2Proof/Machine/Digits.lean ====
section
/-! DEFINITION. Pulses, digits and the digit buffer: DIGITS records, blocks, terminal flushes and the resume of the journal
(03 R41 to R47, 09 R140, 10 R158). -/

namespace Sys2Proof.Machine

/-- The digit block size of a line's record copy. -/
def Chip.blockSize (c : Chip) (x : LineNo) : Nat := ((c.record x).map recBlockSize).getD 0

/-- The LCT writes a DIGITS record, if the Journal Writer takes records: the answer says whether it was written. One that finds the
queue full begins the queue stall and leaves its digits in the buffer (03 R43, 10 R154, log 16). A record written carries
OVERFLOW if it is pending, and clears it (03 R42, R44). -/
def writeDigits (x : LineNo) (ds : List Digit) (f : Option EndFlag) (c : Chip) : Chip × Bool :=
  if !c.taking then (c, false)
  else if c.jwr.full then (beginStall .queue c, false)
  else
    let ov := ((c.ctx x).map (·.overflow)).getD false
    let c := c.modJwr fun j => { j with queue := j.queue ++ [⟨some x, c.stamp, .digits ds f ov⟩] }
    (modCtx x (fun k => { k with overflow := false }) c, true)

/-- The records of a terminal flush of `ds` with block size `b` (03 R44): blocks while more than `b` remain, then the rest with the
flag. The answer is what could not be written; `fuel` bounds the records. -/
def flushRecords (x : LineNo) (f : EndFlag) (b : Nat) : Nat → List Digit → Chip → Chip × Option (List Digit)
  | 0, ds, c => (c, some ds)
  | fuel + 1, ds, c =>
    if b < ds.length ∧ b ≠ 0 then
      let r := writeDigits x (ds.take b) none c
      if r.2 then flushRecords x f b fuel (ds.drop b) r.1 else (r.1, some ds)
    else
      let r := writeDigits x ds (some f) c
      (r.1, if r.2 then none else some ds)

/-- A terminal flush of the first `pos` buffered digits with flag `f` (03 R44). What the journal does not take stays in the buffer
under a terminal mark (R43). -/
def flushUpTo (x : LineNo) (f : EndFlag) (pos : Nat) (c : Chip) : Chip :=
  match c.ctx x with
  | none => c
  | some k =>
    let rest := k.buffer.drop pos
    match flushRecords x f (c.blockSize x) (Config.bufferLimit + 1) (k.buffer.take pos) c with
    | (c, none) => modCtx x (fun k => { k with buffer := rest, mark := none }) c
    | (c, some held) => modCtx x (fun k => { k with buffer := held ++ rest, mark := some (f, held.length) }) c

/-- A terminal flush of every buffered digit (03 R44). -/
def terminalFlush (x : LineNo) (f : EndFlag) (c : Chip) : Chip := flushUpTo x f (((c.ctx x).map (·.buffer.length)).getD 0) c

/-- The digit in progress is discarded (03 R41). -/
def dropPulses (x : LineNo) (c : Chip) : Chip := modCtx x (fun k => { k with pulses := 0 }) c

/-- The buffer is emptied: digits, digit in progress, overflow and terminal mark discarded without report (03 §3.4). -/
def emptyBuffer (x : LineNo) (c : Chip) : Chip :=
  modCtx x (fun k => { k with buffer := [], pulses := 0, overflow := false, mark := none }) c

/-- The value of a digit of `n` pulses (03 R41). -/
def digitOf (n : Nat) : Digit := if 10 < n then .error else .value (Fin.ofNat 10 n)

/-- A value placed in the buffer, or dropped with overflow pending when the buffer holds 20 (03 R42). -/
def Ctx.place (k : Ctx) (d : Digit) : Ctx :=
  if k.buffer.length < Config.bufferLimit then { k with buffer := k.buffer ++ [d] } else { k with overflow := true }

/-- A block that is due is written, and its digits leave the buffer (03 R42). -/
def writeDueBlock (x : LineNo) (c : Chip) : Chip :=
  match c.ctx x with
  | none => c
  | some k =>
    if k.mark.isNone ∧ k.buffer.length = c.blockSize x then
      let r := writeDigits x k.buffer none c
      if r.2 then modCtx x (fun k => { k with buffer := [] }) r.1 else r.1
    else c

/-- A line enters ROUTING (03 R48). -/
def enterRouting (x : LineNo) (c : Chip) : Chip := setTone x .none (setSt x .routing c)

/-- The dialling timer is stopped. -/
def stopDialling (x : LineNo) (c : Chip) : Chip := c.modLine x fun l => { l with dialling := none }

/-- The digit in progress of a collecting line completes (03 R41, R42, R47, 09 R140). -/
def completeDigit (x : LineNo) (c : Chip) : Chip :=
  match c.ctx x with
  | none => c
  | some k =>
    let d := digitOf k.pulses
    let c := modCtx x (fun k => { k with pulses := 0 }.place d) c
    if d = .error then
      let c := terminalFlush x .error (stopDialling x c)
      if (c.line x).st = .dialling then enterRouting x c else c
    else startDialling x (writeDueBlock x c)

/-- A line collects digits: DIALLING, or RECALL with its record accepted (03 §3.4, 09 R140). -/
def Chip.collects (c : Chip) (x : LineNo) : Bool :=
  (c.line x).st == .dialling && (c.line x).slot.isSome || (c.line x).st == .recall && c.accepted x

/-- A DIGIT expiry (03 R41): in a state that collects digits the digit completes. -/
def digitExpired (x : LineNo) (c : Chip) : Chip := if c.collects x then completeDigit x c else c

/-- A pulse is counted, up to 15 (03 R41), and the DIGIT threshold armed on the make that follows (02 R32). -/
def countPulse (x : LineNo) (c : Chip) : Chip :=
  armDigit x (modCtx x (fun k => { k with pulses := min 15 (k.pulses + 1) }) c)

/-- Blocks of the block size written for as long as the buffer holds them (03 R43); `fuel` bounds them. -/
def writeHeldBlocks (x : LineNo) : Nat → Chip → Chip
  | 0, c => c
  | fuel + 1, c =>
    match c.ctx x with
    | none => c
    | some k =>
      let b := c.blockSize x
      if b ≠ 0 ∧ b ≤ k.buffer.length then
        let r := writeDigits x (k.buffer.take b) none c
        if r.2 then writeHeldBlocks x fuel (modCtx x (fun k => { k with buffer := k.buffer.drop b }) r.1) else r.1
      else c

/-- The digits that a line's buffer held through a stall (03 R43): the terminal flush of a pending mark, then the blocks. -/
def resumeDigits (x : LineNo) (c : Chip) : Chip :=
  match c.ctx x with
  | none => c
  | some k =>
    let c := match k.mark with
      | some (f, pos) => flushUpTo x f pos c
      | none => c
    match c.ctx x with
    | some k => if k.mark.isNone then writeHeldBlocks x Config.bufferLimit c else c
    | none => c

/-- The HELD_SUMMARY records of a resume: the lines in ascending number, then the shelf (10 R158). -/
def Chip.resumeRecords (c : Chip) : List Rec :=
  ((allLines.filter c.heldFlag).map fun x => (⟨some x, c.stamp, .heldSummary (c.line x).st.code⟩ : Rec)) ++
    if c.jwr.shelf.isSome then [⟨none, c.stamp, .heldSummary c.gen.state.code⟩] else []

/-- The stall ends by resume (10 R158): JOURNAL_RESUMED and the summaries stand at the head of the queue, the retained DIGITS records
follow, then the digit blocks of every line that holds a slot. -/
def resume (c : Chip) : Chip :=
  let rs := c.resumeRecords
  let c := c.modJwr fun j =>
    { j with stall := .none, queue := ⟨none, c.stamp, .journalResumed rs.length⟩ :: (rs ++ j.queue) }
  allLines.foldl (fun c x => if (c.line x).slot.isSome then resumeDigits x c else c) c

end Sys2Proof.Machine
end

