-- ==== Sys2Proof/Machine/Hook.lean ====
section
/-! DEFINITION. What the LCT does with the scanner's deliveries: recognised hook transitions, CLEAR and DIGIT expiries, trip
confirmations, first debounced states; and the sample itself (02, 03, 07, 09). -/

namespace Sys2Proof.Machine

/-! ## Answer -/

/-- A ringing line is answered (07 R116): ANSWER, removal with its walk, slot release, TALK. -/
def answer (x : LineNo) (means : AnswerMeans) (c : Chip) : Chip :=
  let k := (c.ctx x).getD Ctx.fresh
  let c := removeAlloc x (emit (some x) (.answer k.cyclesRung (!k.burst) means) c)
  enterTalk x true (releaseSlot x c)

/-- An early answer in RING_WAIT (07 R117). -/
def earlyAnswer (x : LineNo) (c : Chip) : Chip :=
  let k := (c.ctx x).getD Ctx.fresh
  let c := dropEntry x (emit (some x) (.answer k.cyclesRung true .waiting) c)
  enterTalk x true (releaseSlot x c)

/-! ## Judging breaks (02 R29, R30) -/

/-- Where the duration of a break lies (02 R29). Above flash max it lies in no window (log 19). -/
inductive Window where
  | short | pulse | long | flash | beyond
  deriving DecidableEq, Repr

/-- The window of a break of `d` samples, both edges of each window inclusive (02 R28, R29). DEDUCED (log 42): a break that rounding has
put on an edge of both is in the pulse window. -/
def TimingSet.window (t : TimingSet) (d : Nat) : Window :=
  if d < toSamples t.pulseMin then .short
  else if d ≤ toSamples t.pulseMax then .pulse
  else if d < toSamples t.flashMin then .long
  else if d ≤ toSamples t.flashMax then .flash
  else .beyond

/-- A hit or an ignored break (02 R31): the DIGIT threshold is armed afresh where a digit is in progress. -/
def hit (x : LineNo) (c : Chip) : Chip :=
  if c.collects x && ((c.ctx x).map (·.pulses)).getD 0 != 0 then armDigit x c else c

/-- The first pulse of a line in DIAL_TONE (03 R38). -/
def firstPulse (x : LineNo) (c : Chip) : Chip :=
  countPulse x (startDialling x (setTone x .none (setSt x .dialling c)))

/-- A pulse in RECALL (09 R140): the tone DIAL is switched off, PROGRESS stays. -/
def recallPulse (x : LineNo) (c : Chip) : Chip :=
  countPulse x (if (c.line x).tone = .dial then setTone x .none c else c)

/-- A flash in DIALLING restarts dialling (03 R49). -/
def dialRestart (x : LineNo) (c : Chip) : Chip :=
  let n := c.buffered x
  giveDialTone x (emit (some x) (.dialRestart n) (stopDialling x (emptyBuffer x c)))

/-- A flash in ROUTING is reported and changes nothing else (09 R143). -/
def routingFlash (x : LineNo) (c : Chip) : Chip := emit (some x) (.flash .routing 0) c

/-- A flash in TALK (09 R138). -/
def talkFlash (x : LineNo) (c : Chip) : Chip :=
  let c := setSt x .recall (emit (some x) (.flash .talk 0) c)
  requestSlot x .recall (c.line x).cls c

/-- A flash in RECALL (09 R141), by the condition of the recall. -/
def secondFlash (x : LineNo) (c : Chip) : Chip :=
  if c.accepted x then
    let n := c.buffered x
    let c := emit (some x) (.flash .recall n) (emptyBuffer x c)
    startDialling x (setTone x (if (c.record x).any recRecallTone then .dial else .none) c)
  else
    let c := emit (some x) (.flash .recall 0) c
    if (c.line x).slot.isSome || c.listed x || (c.line x).asking then c
    else requestSlot x .recall (c.line x).cls c

/-- A break of `d` samples judged at the off-hook that ends it, by the line's state (02 Table 2-3). -/
def judgeBreak (x : LineNo) (d : Nat) (c : Chip) : Chip :=
  let w := (c.timing x).window d
  let pulses := (c.line x).sig ≠ .tone
  match (c.line x).st, w with
  | .dialTone, .pulse => if pulses then firstPulse x c else hit x c
  | .dialling, .pulse => if pulses then countPulse x c else hit x c
  | .dialling, .flash => dialRestart x c
  | .routing, .flash => routingFlash x c
  | .talk, .flash => talkFlash x c
  | .recall, .pulse => if pulses ∧ c.accepted x then recallPulse x c else hit x c
  | .recall, .flash => secondFlash x c
  | _, _ => hit x c

/-- A recognised off-hook that ends an on-hook state of `d` samples, by the line's state. -/
def offHook (x : LineNo) (d : Nat) (c : Chip) : Chip :=
  match (c.line x).st with
  | .idle => seize x c
  | .ringWait => earlyAnswer x c
  | .ringing => answer x .loop c
  | .seizeWait | .dialTone | .dialling | .routing | .talk | .recall | .parked => judgeBreak x d c
  | .unequipped | .blocked | .releaseGuard => c

/-- A recognised on-hook: the CLEAR threshold is armed in the judging states (02 R29). -/
def onHook (x : LineNo) (c : Chip) : Chip := if (c.line x).st.judging then armClear x c else c

/-! ## Expiries -/

/-- Abandonment (03 R50). In STARTING a line in SEIZE_WAIT writes no record (01 R16). -/
def abandon (x : LineNo) (c : Chip) : Chip :=
  let st := (c.line x).st
  let n := if st = .dialling ∨ st = .routing then c.buffered x else 0
  let c := setTone x .none c
  let c := if c.shc.run = .starting ∧ st = .seizeWait then c else emit (some x) (.abandon st n) c
  enterReleaseGuard x (releaseSlot x c)

/-- A subscriber clear in TALK or RECALL (09 R142). -/
def subscriberClear (x : LineNo) (c : Chip) : Chip :=
  let st := (c.line x).st
  let n := if st = .recall then c.buffered x else 0
  let c := emit (some x) (.clear st n) (setTone x .none c)
  enterReleaseGuard x (releaseSlot x c)

/-- The end of a park (03 R53). -/
def parkEnd (x : LineNo) (c : Chip) : Chip := enterReleaseGuard x c

/-- A CLEAR expiry, by the line's state (02 Table 2-3). -/
def clearExpired (x : LineNo) (c : Chip) : Chip :=
  match (c.line x).st with
  | .seizeWait | .dialTone | .dialling | .routing => abandon x c
  | .talk | .recall => subscriberClear x c
  | .parked => parkEnd x c
  | .unequipped | .idle | .blocked | .ringWait | .ringing | .releaseGuard => c

/-- The line's threshold is due at a sample (02 R17 step 2, R21). -/
def Line.thresholdDue (l : Line) : Bool :=
  match l.threshold with
  | .none => false
  | .clear n => n ≤ l.interval
  | .digit n => n ≤ l.interval

/-- The expiry of the threshold of a line is delivered, the threshold returned to none (02 R17 step 2). -/
def deliverExpiry (x : LineNo) (c : Chip) : Chip :=
  let t := (c.line x).threshold
  if (c.line x).thresholdDue then
    let c := setThreshold x .none c
    match t with
    | .clear _ => clearExpired x c
    | .digit _ => digitExpired x c
    | .none => c
  else c

/-! ## Trip sense (02 R23, R24) -/

/-- A discarded trip run (02 R24): the third in a ring request raises UNSTABLE_TRIP. -/
def discardTrip (x : LineNo) (c : Chip) : Chip :=
  let n := ((c.ctx x).map (·.tripDiscards)).getD 0
  let c := modCtx x (fun k => { k with tripDiscards := min 255 (k.tripDiscards + 1) }) (c.modLine x fun l => { l with tripRun := 0 })
  if (c.line x).slot.isSome ∧ n + 1 = 3 then raiseFault .unstableTrip (some x) 0 c else c

/-- A confirmed trip (02 R23): the line is OFF_HOOK and answered. -/
def confirmTrip (x : LineNo) (c : Chip) : Chip :=
  let c := c.modLine x fun l =>
    { l with
      hook := .off
      interval := if l.hook = .off then l.interval else 0
      tripRun := 0
      run := 0
      threshold := .none
      mark := true }
  if (c.line x).st = .ringing then answer x .trip c else c

/-- A trip-sense reading with the relay closed (02 R23, R24). A run that a lowered trip confirm count has overtaken is neither
discarded nor confirmed by a reading that shows no trip (DEDUCED, log 33). -/
def tripSense (x : LineNo) (trip : Bool) (c : Chip) : Chip :=
  let l := c.line x
  if trip then
    if (c.timing x).tripConfirm ≤ l.tripRun + 1 then confirmTrip x c
    else c.modLine x fun l => { l with tripRun := l.tripRun + 1 }
  else if 0 < l.tripRun ∧ l.tripRun < (c.timing x).tripConfirm then discardTrip x c
  else c

/-! ## Loop sense (02 R18, R20) -/

/-- The hook state that a loop-sense reading shows. -/
def readingOf (loop : Bool) : Hook := if loop then .off else .on

/-- A hook transition is recognised (02 R18) and delivered to the LCT. -/
def recognise (x : LineNo) (h : Hook) (c : Chip) : Chip :=
  let d := (c.line x).interval
  let c := c.modLine x fun l =>
    { l with
      hook := h
      run := 0
      interval := 0
      threshold := .none
      mark := true }
  match h with
  | .off => offHook x d c
  | .on => onHook x c

/-- A loop-sense reading applied to the debounce (02 R18). -/
def loopSense (x : LineNo) (loop : Bool) (c : Chip) : Chip :=
  let l := c.line x
  if readingOf loop = l.hook then c.modLine x fun l => { l with run := 0 }
  else if (c.timing x).debounce ≤ l.run + 1 then recognise x (readingOf loop) c
  else c.modLine x fun l => { l with run := l.run + 1 }

/-- The count of a first reading after a reading (02 R20). -/
def Line.firstCount (l : Line) (h : Hook) : Nat := if l.run ≠ 0 ∧ l.tentative = h then l.run + 1 else 1

/-- The first debounced state of a line is found and the counts return to 0 (02 R20): an on-hook line enters IDLE, an off-hook line
PARKED without a record (01 R7). -/
def firstState (x : LineNo) (h : Hook) (c : Chip) : Chip :=
  let c := c.modLine x fun l =>
    { l with
      hook := h
      tentative := h
      run := 0
      tripRun := 0
      blank := 0
      interval := 0
      sampling := .on
      mark := true }
  if (c.line x).st = .unequipped ∧ (c.line x).equipped then
    match h with
    | .on => enterIdle x c
    | .off => enterParked x none c
  else c

/-- A loop-sense reading of a first reading (02 R20). -/
def firstSense (x : LineNo) (loop : Bool) (c : Chip) : Chip :=
  let h := readingOf loop
  let n := (c.line x).firstCount h
  if (c.timing x).debounce ≤ n then firstState x h c
  else c.modLine x fun l => { l with tentative := h, run := n }

/-! ## One sample (02 R17) -/

/-- Step 1: the interval timer advances unless it stands at 65,535. -/
def advance (x : LineNo) (c : Chip) : Chip := c.modLine x fun l => { l with interval := min 65535 (l.interval + 1) }

/-- Steps 3 and 4: with the relay closed trip sense is applied; with it open a blank is counted down, or loop sense is applied. -/
def senseLine (x : LineNo) (loop trip : Bool) (c : Chip) : Chip :=
  let l := c.line x
  if l.sampling ≠ .on then c
  else if l.relay then tripSense x trip c
  else if 0 < l.blank then c.modLine x fun l => { l with blank := l.blank - 1 }
  else loopSense x loop c

/-- One sample of a line (02 R17): the expiry is delivered before the recognition of the same sample. -/
def sample (x : LineNo) (loop trip : Bool) (c : Chip) : Chip :=
  match (c.line x).sampling with
  | .off => c
  | .first => firstSense x loop c
  | .on => senseLine x loop trip (deliverExpiry x (advance x c))

/-! ## Which occurrence a sample brings (log 2) -/

/-- The line as it stands when step 3 of a sample begins. -/
def Chip.sensed (c : Chip) (x : LineNo) : Line := (deliverExpiry x (advance x c)).line x

/-- The sample brings the expiry of a CLEAR threshold. -/
def Chip.clearFalls (c : Chip) (x : LineNo) : Bool :=
  let l := (advance x c).line x
  l.sampling == .on && l.thresholdDue &&
    match l.threshold with
    | .clear _ => true
    | _ => false

/-- The sample brings the expiry of a DIGIT threshold. -/
def Chip.digitFalls (c : Chip) (x : LineNo) : Bool :=
  let l := (advance x c).line x
  l.sampling == .on && l.thresholdDue &&
    match l.threshold with
    | .digit _ => true
    | _ => false

/-- The sample brings a trip confirmation. -/
def Chip.tripFalls (c : Chip) (x : LineNo) (trip : Bool) : Bool :=
  let l := c.sensed x
  l.sampling == .on && l.relay && trip && (c.timing x).tripConfirm ≤ l.tripRun + 1

/-- The sample brings the recognition of a hook transition. -/
def Chip.hookFalls (c : Chip) (x : LineNo) (loop : Bool) : Bool :=
  let l := c.sensed x
  l.sampling == .on && !l.relay && l.blank == 0 && readingOf loop != l.hook && (c.timing x).debounce ≤ l.run + 1

/-- The sample ends a first reading. -/
def Chip.firstFalls (c : Chip) (x : LineNo) (loop : Bool) : Bool :=
  let l := c.line x
  l.sampling == .first && (c.timing x).debounce ≤ l.firstCount (readingOf loop)

end Sys2Proof.Machine
end

