-- ==== Sys2Proof/Machine/Cycle.lean ====
section
/-! DEFINITION. The step boundary: plan activation, the Ring Scheduler's wrap work, relays and plan-wrap counts (05 R80 to R87,
06 R106, R107), and ring expiry (07 R120). -/

namespace Sys2Proof.Machine

/-- Ring expiry as the LCT takes it (07 R120): RING_EXPIRED, removal with its walk, slot release, post-ring guard. -/
def ringExpired (x : LineNo) (c : Chip) : Chip :=
  match c.alloc x with
  | none => c
  | some a =>
    let rung := ((c.ctx x).map (·.cyclesRung)).getD 0
    let c := removeAlloc x (emit (some x) (.ringExpired a.party a.plan rung) c)
    enterPostRingGuard x (releaseSlot x c)

/-- Staged plans become active (05 R80). -/
def activatePlans (c : Chip) : Chip :=
  c.modCtb fun t =>
    { t with
      active := Vector.ofFn fun p : PlanNo => (t.staged[p]).or t.active[p]
      staged := Vector.replicate 8 none }

/-- A staged pair and the staged mode take effect (06 R106 step 1). -/
def applyBudget (c : Chip) : Chip :=
  c.modRsc fun r =>
    { r with
      capacity := (r.staged.map (·.1)).getD r.capacity
      reserve := (r.staged.map (·.2)).getD r.reserve
      staged := none
      mode := r.stagedMode }

/-- Some counter exceeds the active capacity (06 R107). -/
def Chip.overCap (c : Chip) : Bool := c.rsc.plt.any fun v => c.rsc.cap < v

/-- The effective class of a line's allocation. -/
def Chip.allocClass (c : Chip) (x : LineNo) : LineClass := ((c.alloc x).map (·.cls)).getD .ordinary

/-- The allocation to shed: the most recent ORDINARY one, or else the most recent (06 R107). -/
def Chip.shedChoice (c : Chip) : Option LineNo :=
  match c.rsc.allocs.reverse.find? fun x => c.allocClass x = .ordinary with
  | some x => some x
  | none => c.rsc.allocs.getLast?

/-- Shedding until every counter is within the capacity (06 R107); `fuel` bounds the rounds by the allocations. -/
def shedOver : Nat → Chip → Chip
  | 0, c => c
  | fuel + 1, c =>
    if c.overCap then
      match c.shedChoice with
      | some x => shedOver fuel (shedLine .capacity x c)
      | none => c
    else c

/-- Every waiting entry gains one age, up to 15 (06 R100). -/
def ageEntries (c : Chip) : Chip :=
  c.modRsc fun r => { r with queue := r.queue.map fun e => { e with age := min 15 (e.age + 1) } }

/-- The work of the cycle wrap before the per-line work (05 R87 steps 1 and 2). The answer also gives the allocations made before
this boundary that remain. -/
def wrapWork (c : Chip) : Chip × List LineNo :=
  let c := applyBudget (activatePlans c)
  let c := shedOver c.rsc.allocs.length c
  (walk (ageEntries c), c.rsc.allocs)

/-- The step that the next boundary begins (05 R74). -/
def Chip.nextStep (c : Chip) : Nat := if c.shc.hdr.n ≤ c.ctb.step + 1 then 0 else c.ctb.step + 1

/-- The counter advances, and at the cycle wrap the wrap work is done; the answer gives the chip and the allocations that receive
their per-line work (05 R82, R87). -/
def beginStep (c : Chip) : Chip × List LineNo :=
  let next := c.nextStep
  let c := c.modCtb fun t => { t with step := next, periods := 0 }
  if next = 0 then wrapWork c else (c, c.rsc.allocs)

/-- The plan-wrap count of this boundary would end the ringing of a line (05 R83). -/
def Chip.countEnds (c : Chip) (x : LineNo) : Bool :=
  match c.alloc x with
  | some a => a.phase == c.ctb.step && ((c.ctx x).map (·.burst)).getD false && a.cyclesLeft == 1
  | none => false

/-- The plan-wrap count (05 R83): cycles rung rises up to 255, cycles left falls if it is above 0. -/
def Ctx.countCycle (k : Ctx) : Ctx :=
  { k with
    cyclesRung := min 255 (k.cyclesRung + 1)
    alloc := k.alloc.map fun a => { a with cyclesLeft := a.cyclesLeft - 1 } }

/-- The work of a boundary for one line (05 R82). -/
def boundaryLine (x : LineNo) (c : Chip) : Chip :=
  match c.alloc x, c.ctx x with
  | some a, some k =>
    let s := c.ctb.step
    let wraps : Bool := a.phase == s
    let on := onAt c.shc.hdr.n ((c.ctb.active[a.plan]).getD []) a.phase s
    if k.burst then
      if wraps then
        let ends := c.countEnds x
        let c := modCtx x Ctx.countCycle c
        if ends then ringExpired x c else setRelay x on c
      else setRelay x on c
    else if wraps then setRelay x true (modCtx x (fun k => { k with burst := true }) c)
    else c
  | _, _ => c

/-- A step boundary (05 R82, R87). The lines are taken in ascending number (log 12). -/
def boundary (c : Chip) : Chip :=
  let r := beginStep c
  (allLines.filter (· ∈ r.2)).foldl (fun c x => boundaryLine x c) r.1

/-- A step boundary is due: the counter runs and 50 scan periods have passed (05 R74). -/
def Chip.boundaryDue (c : Chip) : Bool :=
  (c.shc.run == .running || c.shc.run == .isolated) && Config.scansPerStep ≤ c.ctb.periods

/-- The boundary now due brings the ring expiry of a line (log 2). -/
def Chip.ringEnds (c : Chip) (x : LineNo) : Bool :=
  let r := beginStep c
  (r.2.contains x) && r.1.countEnds x

/-- One scan period passes for a queue entry (06 R101, 07 R111); the wait timer is compared with 120 s at most. -/
def RingWait.tick (e : RingWait) : RingWait :=
  { e with
    notBefore := e.notBefore.map (· - Config.scanMs)
    wait := min 120000 (e.wait + Config.scanMs) }

/-- One scan period passes for a line's timers and its seizure elapsed count (02 R28, 03 R34). -/
def Line.tick (l : Line) : Line :=
  { l with
    dialTone := l.dialTone.map Timer.tick
    dialling := l.dialling.map Timer.tick
    guard := l.guard.map Timer.tick
    park := l.park.map Timer.tick
    howler := l.howler.map Timer.tick
    seizure := if l.st = .seizeWait then min 65535 (l.seizure + Config.scanMs) else l.seizure }

/-- One scan period passes for the generator's timers and its history (08 R127, R132). -/
def Gen.tick (g : Gen) : Gen :=
  { g with
    startTimer := g.startTimer.map Timer.tick
    idleTimer := g.idleTimer.map Timer.tick
    holdTimer := g.holdTimer.map Timer.tick
    history := g.history.map fun e => if e ≤ 300000 then e + Config.scanMs else e }

/-- The millisecond counter runs: from step 5 of a start procedure on (11 R171). -/
def Chip.msRuns (c : Chip) : Bool :=
  c.shc.run == .running || c.shc.run == .isolated || (c.shc.run == .starting && c.shc.start == .readings)

/-- One scan period of 2 ms passes (log 4). The millisecond counter goes from 65,534 to 0 (11 R171). DESIGN CHOICE (log 36): the trip
history advances in every run state, FAILED among them. -/
def tickChip (c : Chip) : Chip :=
  { c with
    lines := mapEach Line.tick c.lines
    gen := c.gen.tick
    rsc := { c.rsc with queue := c.rsc.queue.map RingWait.tick }
    ctb :=
      { c.ctb with
        periods :=
          if c.shc.run = .running ∨ c.shc.run = .isolated then min Config.scansPerStep (c.ctb.periods + 1)
          else c.ctb.periods }
    ord := { c.ord with timer := c.ord.timer.map Timer.tick }
    jwr :=
      { c.jwr with
        closeTimer := c.jwr.closeTimer.map Timer.tick
        retry := if c.jwr.stall = .page then min 10 (c.jwr.retry + Config.scanMs) else c.jwr.retry }
    shc := { c.shc with ms := if c.msRuns then c.shc.ms + 2 else c.shc.ms } }

end Sys2Proof.Machine
end

