-- ==== Sys2Proof/Machine/Port.lean ====
section
/-! DEFINITION. The Memory Port's arbiter: which accesses are wanted, which is in progress (10 R160, R162), and how a command
leaves the machine: the idle stop timer and the access in progress settled. -/

namespace Sys2Proof.Machine

/-- The Journal Writer may go to the RAM: RUNNING, or STARTING from its step on (11 R167 step 4). -/
def Chip.journalOpen (c : Chip) : Bool :=
  c.shc.run == .running || (c.shc.run == .starting && (c.shc.start == .page || c.shc.start == .readings))

/-- The header of the stalled page may be read again: 10 ms have passed (10 R156). -/
def Chip.retryDue (c : Chip) : Bool := c.jwr.stall == .page && 10 ≤ c.jwr.retry

/-- Class 1: a page to be opened or closed, or a record to be written. -/
def Chip.journalWants (c : Chip) : Bool :=
  c.journalOpen &&
    match c.jwr.page with
    | .none => false
    | .opening => c.jwr.stall != .page || c.retryDue || c.jwr.written != 0
    | .opened => c.jwr.closing != .no || !c.jwr.queue.isEmpty

/-- Class 2: the read of the start procedure that is due, or the first of the requests made. -/
def Chip.readWants (c : Chip) : Option Access :=
  match c.shc.run, c.shc.start with
  | .running, _ => c.mpt.reqs.head?
  | .starting, .header | .starting, .timing | .starting, .plans => some .start
  | .starting, .core => if c.mpt.coreReads.isEmpty then none else some .core
  | _, _ => none

/-- Class 3: a cell's state word to be read, TAKEN to be written, the order in hand to be read, or its result and DONE to be written
(10 R149, R150). -/
def Chip.orderWants (c : Chip) : Bool :=
  c.shc.run == .running &&
    match c.ord.cell with
    | none => c.ord.inPass && c.ord.work.isNone
    | some _ => c.ord.stage != .taken || c.ord.result.isSome || (c.ord.work.isNone && c.ord.copy.isNone)

/-- Class 4: a mirror-pending mark to be served (10 R159). -/
def Chip.mirrorWants (c : Chip) : Bool := c.shc.run == .running && allLines.any fun x => (c.line x).mark

/-- The access the arbiter takes next: from the first non-empty class (10 R160). -/
def Chip.nextAccess (c : Chip) : Option Access :=
  if c.journalWants then some .journal
  else
    match c.readWants with
    | some a => some a
    | none => if c.orderWants then some .order else if c.mirrorWants then some .mirror else none

/-- An access is still wanted. -/
def Chip.wants (c : Chip) : Access → Bool
  | .journal => c.journalWants
  | .order => c.orderWants
  | .mirror => c.mirrorWants
  | a => c.readWants == some a

/-- The access in progress goes on while it is wanted; when it has ended the arbiter takes the next (10 R160). DESIGN CHOICE (log 38): the
first access of a fetch that is withdrawn while it is in progress ends at once, or serves the next fetch into the same slot where that
heads the requests of its class. -/
def arbitrate (c : Chip) : Chip :=
  match c.mpt.busy with
  | some a => if c.wants a then c else c.modMpt fun m => { m with busy := c.nextAccess }
  | none => c.modMpt fun m => { m with busy := c.nextAccess }

/-- The access in progress completes. -/
def release (c : Chip) : Chip := c.modMpt fun m => { m with busy := none }

/-- An access is in progress. -/
def Chip.serves (c : Chip) (a : Access) : Bool := c.mpt.busy == some a

/-- A command took the chip from `c0` to `c`: the idle stop timer (08 R130) and the access in progress (10 R160) follow. -/
def settle (c0 c : Chip) : Chip := arbitrate (settleIdle c0 c)

/-- The machine goes on after a command. -/
def finish (s : State) (c : Chip) : Out := goOn s (settle s.chip c)

/-- The accesses of one row of the table (10 R160): one, and up to `more` further ones as long as the row is under way. An access that
the arbiter does not serve changes nothing. -/
def accesses (underWay : Chip → Bool) (one : State → Out) : Nat → State → Out
  | 0, s => one s
  | more + 1, s =>
    match one s with
    | .next t => if underWay t.chip then accesses underWay one more t else .next t
    | .fault f => .fault f
    | .refused r => .refused r

/-- The machine goes on after a command that wrote the RAM. -/
def finishRam (s : State) (r : Chip × Memory) : Out := .next { s with chip := settle s.chip r.1, ram := r.2 }

end Sys2Proof.Machine
end

