-- ==== Sys2Proof/Machine/Events.lean ====
section
/-! DEFINITION. The events of the ringing cycle, the Ring Wait Queue and the generator (05 R82, 06 R101, 07 R111, R120, 08 R129,
R130, R133). -/

namespace Sys2Proof.Machine

/-- STEP_BOUNDARY (05 R82, R87). -/
def execStepBoundary (s : State) : Out := if s.chip.boundaryDue then finish s (boundary s.chip) else stay s

/-- RING_EXPIRY (07 R120): the boundary that brings it (log 2). -/
def execRingExpiry (x : LineNo) (s : State) : Out :=
  if s.chip.boundaryDue ∧ s.chip.ringEnds x then finish s (boundary s.chip) else stay s

/-- The wait timer of an entry has reached a nonzero admission wait limit (06 R101). -/
def Chip.waitOver (c : Chip) (e : RingWait) : Bool := c.rsc.waitLimit != 0 && 1000 * c.rsc.waitLimit ≤ e.wait

/-- An entry expires (06 R101). -/
def waitExpired (x : LineNo) (e : RingWait) (c : Chip) : Chip :=
  enterIdle x (releaseSlot x (dropEntry x (emit (some x) (.ringFailed .waitExpired e.party) c)))

/-- WAIT_EXPIRY (06 R101). -/
def execWaitExpiry (x : LineNo) (s : State) : Out :=
  match s.chip.entry x with
  | some e => if s.chip.waitOver e then finish s (waitExpired x e s.chip) else stay s
  | none => stay s

/-- The not-before of an entry becomes none, a trigger for a walk (07 R111, 06 R98). DESIGN CHOICE (log 41): the walk is made whether or
not the entry then meets the other conditions of 06 R97. -/
def notBeforeOver (x : LineNo) (c : Chip) : Chip := walk (modEntry x (fun e => { e with notBefore := none }) c)

/-- NOT_BEFORE_EXPIRY (07 R111). -/
def execNotBeforeExpiry (x : LineNo) (s : State) : Out :=
  match s.chip.entry x with
  | some e => if e.notBefore = some 0 then finish s (notBeforeOver x s.chip) else stay s
  | none => stay s

/-- The generator enters RUNNING (08 R129). -/
def genStarted (c : Chip) : Chip := walk (setGen .running .startDone 0 (c.modGen fun g => { g with startTimer := none }))

/-- The generator rests (08 R130). -/
def genRests (c : Chip) : Chip := setGen .off .idleStop 0 (c.modGen fun g => { g with idleTimer := none })

/-- The trip hold ends (08 R133). -/
def holdOver (c : Chip) : Chip :=
  let c := setGen .off .holdEnd 0 (c.modGen fun g => { g with holdTimer := none })
  if c.demand then startRequest c else c

/-- GEN_START_DONE (08 R129). -/
def execGenStartDone (s : State) : Out :=
  if s.chip.gen.state = .starting ∧ timerDue s.chip.gen.startTimer then finish s (genStarted s.chip) else stay s

/-- IDLE_STOP (08 R130). -/
def execIdleStop (s : State) : Out :=
  if s.chip.genIdle ∧ timerDue s.chip.gen.idleTimer then finish s (genRests s.chip) else stay s

/-- HOLD_END (08 R133). -/
def execHoldEnd (s : State) : Out :=
  if s.chip.gen.state = .tripped ∧ timerDue s.chip.gen.holdTimer then finish s (holdOver s.chip) else stay s

end Sys2Proof.Machine
end

