-- ==== Sys2Proof/Machine/LineTimers.lean ====
section
/-! DEFINITION. The expiries of the line timers (01 R4, R10, 03 R40, R45, R52, 09 R140). An expiry is taken when the line is in the
timer's state and the timer has reached its duration (log 4). -/

namespace Sys2Proof.Machine

/-- The DIGIT threshold of a line is returned to none (03 R45). -/
def dropDigit (x : LineNo) (c : Chip) : Chip :=
  match (c.line x).threshold with
  | .digit _ => setThreshold x .none c
  | .none | .clear _ => c

/-- The dial-tone timeout (03 R40). -/
def dialToneExpired (x : LineNo) (c : Chip) : Chip :=
  enterParked x (some .dialToneTimeout) (releaseSlot x (setTone x .none c))

/-- The dialling timeout in DIALLING (03 R45). -/
def diallingExpired (x : LineNo) (c : Chip) : Chip :=
  enterRouting x (terminalFlush x .timeout (dropDigit x (stopDialling x (dropPulses x c))))

/-- The dialling timeout in RECALL (09 R140). -/
def recallExpired (x : LineNo) (c : Chip) : Chip :=
  let c := terminalFlush x .timeout (dropDigit x (stopDialling x (dropPulses x c)))
  if (c.line x).tone = .dial then setTone x .none c else c

/-- The end of a guard (01 R10). -/
def guardEnds (x : LineNo) (c : Chip) : Chip :=
  let l := c.line x
  if !l.equipped then enterUnequipped x c
  else
    match l.hook with
    | .on => enterIdle x c
    | .off => seize x c

/-- The park timer's expiry: howler (03 R52). -/
def parkExpired (x : LineNo) (c : Chip) : Chip :=
  (setTone x .howler c).modLine x fun l =>
    { l with park := none, howler := some (Timer.start (1000 * (c.timing x).howler)) }

/-- The howler timer's expiry: silence (03 R52). -/
def howlerExpired (x : LineNo) (c : Chip) : Chip := (setTone x .none c).modLine x fun l => { l with howler := none }

/-- DIAL_TONE_TIMEOUT (03 R40). -/
def execDialToneTimeout (x : LineNo) (s : State) : Out :=
  let l := s.chip.line x
  if l.st = .dialTone ∧ timerDue l.dialTone then finish s (dialToneExpired x s.chip) else stay s

/-- DIALLING_TIMEOUT (03 R45, 09 R140). -/
def execDiallingTimeout (x : LineNo) (s : State) : Out :=
  let l := s.chip.line x
  if timerDue l.dialling then
    match l.st with
    | .dialling => finish s (diallingExpired x s.chip)
    | .recall => finish s (recallExpired x s.chip)
    | _ => stay s
  else stay s

/-- GUARD_EXPIRY (01 R10). -/
def execGuardExpiry (x : LineNo) (s : State) : Out :=
  let l := s.chip.line x
  if l.st = .releaseGuard ∧ timerDue l.guard then finish s (guardEnds x s.chip) else stay s

/-- PARK_TIMER_EXPIRY (03 R52). -/
def execParkTimerExpiry (x : LineNo) (s : State) : Out :=
  let l := s.chip.line x
  if l.st = .parked ∧ timerDue l.park then finish s (parkExpired x s.chip) else stay s

/-- HOWLER_TIMER_EXPIRY (03 R52). -/
def execHowlerTimerExpiry (x : LineNo) (s : State) : Out :=
  let l := s.chip.line x
  if l.st = .parked ∧ timerDue l.howler then finish s (howlerExpired x s.chip) else stay s

end Sys2Proof.Machine
end

