-- ==== Sys2Proof/Machine/Operands.lean ====
section
/-! DEFINITION. Orders as operands: their kinds, the ranges of their argument words (10 Table 10-11) and common validation
(10 R151). -/

namespace Sys2Proof.Machine

/-- The seventeen order kinds (10 Table 10-11). -/
inductive OrderKind where
  | ring | stopRing | digitSeen | enddial | connect | tone | clear | block | unblock | lockSlot | unlockSlot | freeLocks
  | invalidate | reloadPlan | setCapacity | powerMode | genReset
  deriving DecidableEq, Repr

/-- The kind that a kind word names, if any. -/
def orderKind (w : Word) : Option OrderKind :=
  match w.toNat with
  | 1 => some .ring
  | 2 => some .stopRing
  | 3 => some .digitSeen
  | 4 => some .enddial
  | 5 => some .connect
  | 6 => some .tone
  | 7 => some .clear
  | 8 => some .block
  | 9 => some .unblock
  | 10 => some .lockSlot
  | 11 => some .unlockSlot
  | 12 => some .freeLocks
  | 13 => some .invalidate
  | 14 => some .reloadPlan
  | 15 => some .setCapacity
  | 16 => some .powerMode
  | 17 => some .genReset
  | _ => none

/-- The argument of INVALIDATE that means all lines. -/
def allLinesArg : Nat := 255

/-- A line argument lies in its range. -/
def lineInRange (w : Word) : Bool := w.toNat ≤ 95

/-- Every argument word that the kind uses lies in its range (10 Table 10-11). -/
def argsInRange (k : OrderKind) (o : OrderCopy) : Bool :=
  match k with
  | .ring =>
    lineInRange o.a1 && (1 ≤ o.a2.toNat && o.a2.toNat ≤ 4) && o.a3.toNat ≤ 8 && o.a4.toNat ≤ 255 && o.a5.toNat ≤ 1
  | .stopRing | .digitSeen | .enddial | .connect | .clear | .block | .unblock | .lockSlot | .unlockSlot =>
    lineInRange o.a1
  | .tone => lineInRange o.a1 && (o.a2.toNat == 0 || o.a2.toNat == 3)
  | .freeLocks | .genReset => true
  | .invalidate => lineInRange o.a1 || o.a1.toNat == allLinesArg
  | .reloadPlan => o.a1.toNat ≤ 7
  | .setCapacity => (1 ≤ o.a1.toNat && o.a1.toNat ≤ 255) && o.a2.toNat ≤ 255
  | .powerMode => o.a1.toNat ≤ 1

/-- The line number that an order names, if it names a line. -/
def orderLine (k : OrderKind) (o : OrderCopy) : Option Nat :=
  match k with
  | .freeLocks | .genReset | .reloadPlan | .setCapacity | .powerMode => none
  | .invalidate => if o.a1.toNat = allLinesArg then none else some o.a1.toNat
  | .ring | .stopRing | .digitSeen | .enddial | .connect | .tone | .clear | .block | .unblock | .lockSlot
  | .unlockSlot => some o.a1.toNat

/-- The kinds taken for an UNEQUIPPED line below the equipped count (10 R151 test 4). -/
def takenUnequipped : OrderKind → Bool
  | .invalidate | .lockSlot | .unlockSlot => true
  | _ => false

/-- The line position that a line number in range names. -/
def lineOf (w : Word) : LineNo := Fin.ofNat 96 w.toNat

/-- Common validation (10 R151): the refusal of the first test that fails, or the kind of an order that passes. -/
def validate (o : OrderCopy) (c : Chip) : Except Result OrderKind :=
  match orderKind o.kind with
  | none => .error .badOrder
  | some k =>
    if !argsInRange k o then .error .badOrder
    else
      match orderLine k o with
      | none => .ok k
      | some n =>
        if c.shc.hdr.equipped ≤ n then .error .noLine
        else if !takenUnequipped k && (c.line (lineOf o.a1)).st == .unequipped then .error .noLine
        else .ok k

end Sys2Proof.Machine
end

