-- ==== Sys2Proof/Machine/Orders.lean ====
section
/-! DEFINITION. What each order does in the block that owns it, and an order taken: copied, validated and handed over (10 R150
steps 2 to 4). -/

namespace Sys2Proof.Machine

/-! ## Ringing (07) -/

/-- A line enters RING_WAIT by a RING order: queue entry, status word, slot request (07 R110). -/
def startRing (x : LineNo) (party : Nat) (plan : Option PlanNo) (cycles : Nat) (cls : LineClass) (notBefore : Option Nat)
    (c : Chip) : Chip :=
  let c := c.modRsc fun r =>
    { r with
      queue := queueTail r.queue
        { line := x
          party := party
          plan := plan
          cycles := cycles
          cls := cls
          age := 0
          notBefore := notBefore
          needsSlot := true
          fetching := false
          wait := 0 } }
  requestSlot x .terminate cls (setSt x .ringWait c)

/-- The effective class of a ring request (07 R109). -/
def effectiveClass (own : LineClass) (priority : Bool) : LineClass := if priority then .priority else own

/-- The time a guard has still to run; none where it has run out (07 R110, R111). -/
def guardLeft (t : Option Timer) : Option Nat :=
  match t with
  | some t => if t.remaining = 0 then none else some t.remaining
  | none => none

/-- RING (07 R110). -/
def orderRing (x : LineNo) (party : Nat) (plan : Option PlanNo) (cycles : Nat) (priority : Bool) (c : Chip) :
    Chip × Result :=
  let l := c.line x
  let cls := effectiveClass l.cls priority
  match l.st with
  | .idle => (startRing x party plan cycles cls none c, .ok)
  | .releaseGuard =>
    if !l.equipped then (c, .noLine)
    else if l.hook = .off then (c, .lineBusy)
    else (startRing x party plan cycles cls (guardLeft l.guard) c, .ok)
  | .blocked => (c, .lineBlocked)
  | .unequipped => (c, .noLine)
  | .seizeWait | .dialTone | .dialling | .routing | .ringWait | .ringing | .talk | .recall | .parked => (c, .lineBusy)

/-- STOP_RING (07 R118). -/
def orderStopRing (x : LineNo) (c : Chip) : Chip × Result :=
  match (c.line x).st with
  | .ringing => (enterPostRingGuard x (releaseSlot x (removeAlloc x c)), .ok)
  | .ringWait => (enterIdle x (releaseSlot x (dropEntry x c)), .ok)
  | .talk => (c, if (c.line x).answered then .tooLate else .lineBusy)
  | _ => (c, .lineBusy)

/-! ## Dialling (03) -/

/-- DIGIT_SEEN (03 R39). -/
def orderDigitSeen (x : LineNo) (c : Chip) : Chip × Result :=
  if (c.line x).sig = .pulse then (c, .wrongClass)
  else if (c.line x).st = .dialTone then (startDialling x (setTone x .none (setSt x .dialling c)), .ok)
  else (c, .lineBusy)

/-- ENDDIAL (03 R46). -/
def orderEnddial (x : LineNo) (c : Chip) : Chip × Result :=
  match (c.line x).st with
  | .dialTone | .dialling => (enterRouting x (terminalFlush x .final (stopDialling x (dropPulses x c))), .ok)
  | _ => (c, .lineBusy)

/-! ## Connected lines (09) -/

/-- Digits or a terminal mark are held in the buffer of a line. -/
def Chip.holdsDigits (c : Chip) (x : LineNo) : Bool :=
  ((c.ctx x).map fun k => !k.buffer.isEmpty || k.mark.isSome).getD false

/-- CONNECT (09 R144). -/
def orderConnect (x : LineNo) (c : Chip) : Chip × Result :=
  match (c.line x).st with
  | .routing =>
    let c := if c.holdsDigits x then terminalFlush x .final c else c
    (enterTalk x false (releaseSlot x (setTone x .none c)), .ok)
  | .recall =>
    let c := if c.accepted x then terminalFlush x .final (stopDialling x (dropPulses x c)) else c
    (enterTalk x false (releaseSlot x (setTone x .none c)), .ok)
  | _ => (c, .lineBusy)

/-- TONE (09 R145). -/
def orderTone (x : LineNo) (t : Tone) (c : Chip) : Chip × Result :=
  match (c.line x).st with
  | .routing | .recall => (setTone x t c, .ok)
  | _ => (c, .lineBusy)

/-- CLEAR (09 R146). -/
def orderClear (x : LineNo) (c : Chip) : Chip × Result :=
  let parked := enterParked x (some .cleared) (releaseSlot x (setTone x .none c))
  match (c.line x).st with
  | .dialTone | .dialling | .routing | .talk | .recall =>
    match (c.line x).hook with
    | .on => (enterReleaseGuard x (releaseSlot x (setTone x .none c)), .ok)
    | .off => (parked, .ok)
  | .seizeWait => (parked, .ok)
  | .idle | .releaseGuard | .parked | .blocked => (c, .ok)
  | .ringWait | .ringing => (c, .lineBusy)
  | .unequipped => (c, .noLine)

/-! ## Blocking (01) -/

/-- BLOCK (01 R11). -/
def orderBlock (x : LineNo) (c : Chip) : Chip × Result :=
  match (c.line x).st with
  | .idle | .parked | .releaseGuard => (setTone x .none (setSt x .blocked c), .ok)
  | .blocked => (c, .ok)
  | .unequipped => (c, .noLine)
  | .seizeWait | .dialTone | .dialling | .routing | .ringWait | .ringing | .talk | .recall => (c, .lineBusy)

/-- UNBLOCK (01 R13). -/
def orderUnblock (x : LineNo) (c : Chip) : Chip × Result :=
  let l := c.line x
  match l.st with
  | .blocked =>
    if !l.equipped then (enterUnequipped x c, .ok)
    else
      match l.hook with
      | .on => (enterIdle x c, .ok)
      | .off => (enterParked x none c, .ok)
  | .unequipped => (c, .noLine)
  | _ => (c, .ok)

/-! ## Locks (04) -/

/-- The slot locked to a line. -/
def Chip.lockedTo (c : Chip) (x : LineNo) : Option SlotNo := allSlots.find? fun i => (c.slot i).lock == some x

/-- An unlocked slot that is BOUND or WARM with a line's record (04 R67 step 3). -/
def Chip.ownCopy (c : Chip) (x : LineNo) : Option SlotNo :=
  allSlots.find? fun i =>
    (c.slot i).lock.isNone && (c.slot i).recLine == some x && ((c.slot i).status == .bound || (c.slot i).status == .warm)

/-- The lock of a slot is set. -/
def setLock (i : SlotNo) (x : Option LineNo) (c : Chip) : Chip := c.modSlot i fun s => { s with lock := x }

/-- LOCK_SLOT (04 R67). -/
def orderLockSlot (x : LineNo) (c : Chip) : Chip × Result :=
  match c.lockedTo x with
  | some _ => (c, .ok)
  | none =>
    if Config.lockLimit ≤ c.lockedCount then (c, .noSlot)
    else
      match c.ownCopy x with
      | some i => (toMru i (setLock i (some x) c), .ok)
      | none =>
        match c.sst.lru.find? fun i => (c.slot i).free with
        | some i => (toMru i (setLock i (some x) (c.modSlot i Slot.emptied)), .ok)
        | none => (c, .noSlot)

/-- UNLOCK_SLOT (04 R68). -/
def orderUnlockSlot (x : LineNo) (c : Chip) : Chip × Result :=
  match c.lockedTo x with
  | some i => (grantFreed (toMru i (setLock i none c), some i), .ok)
  | none => (c, .ok)

/-- FREE_LOCKS (04 R69): the freed slots are granted from the LRU end. -/
def orderFreeLocks (c : Chip) : Chip × Result :=
  let freed := c.sst.lru.filter fun i => (c.slot i).lock.isSome && (c.slot i).status != .bound
  let c := { c with sst := { c.sst with slots := mapEach (v := c.sst.slots) fun s => { s with lock := none } } }
  (freed.foldl (fun c i => grantFreed (c, some i)) c, .ok)

/-! ## Invalidation (04) -/

/-- A slot holds the record of a line that `p` names, or is locked to one. -/
def Slot.concerns (s : Slot) (p : LineNo → Bool) : Bool := s.recLine.any p || s.lock.any p

/-- The effect of INVALIDATE on one slot (04 R70). -/
def Slot.invalidated (s : Slot) : Slot :=
  match s.status with
  | .empty => s
  | .warm => s.emptied
  | .bound => { s with refetch := true }

/-- The slot effects of INVALIDATE for the lines that `p` names: the emptied slots go to the LRU end in their order
(04 R70, R71). -/
def invalidateSlots (p : LineNo → Bool) (c : Chip) : Chip :=
  let gone (i : SlotNo) : Bool := (c.slot i).concerns p && (c.slot i).status == .warm
  let lru := c.sst.lru.filter gone ++ c.sst.lru.filter fun i => !gone i
  { c with
    sst :=
      { c.sst with
        slots := mapEach (v := c.sst.slots) fun s => if s.concerns p then s.invalidated else s
        lru := lru } }

/-- The lines below the equipped count, in ascending number. -/
def Chip.linesBelow (c : Chip) : List LineNo := allLines.filter fun x => x.val < c.shc.hdr.equipped

/-- Core-field reads are requested, and the order waits on them (04 R70, R71). -/
def awaitCoreReads (xs : List LineNo) (c : Chip) : Chip :=
  addRequest .core
    { c with mpt := { c.mpt with coreReads := xs }, ord := { c.ord with work := some .invalidate } }

/-- INVALIDATE of one line (04 R70). -/
def orderInvalidate (x : LineNo) (c : Chip) : Chip := awaitCoreReads [x] (invalidateSlots (· == x) c)

/-- INVALIDATE of all lines (04 R71). -/
def orderInvalidateAll (c : Chip) : Chip :=
  awaitCoreReads c.linesBelow (invalidateSlots (fun x => decide (x.val < c.shc.hdr.equipped)) c)

/-! ## Plans, budget, generator (05, 06, 08) -/

/-- RELOAD_PLAN at take (05 R78): refused while the plan is in use, else its read is requested. -/
def orderReloadPlan (p : PlanNo) (c : Chip) : Chip × Option Result :=
  if c.planInUse p then (c, some .planInUse)
  else (addRequest .reload { c with ord := { c.ord with work := some (.reload p) } }, none)

/-- SET_CAPACITY (06 R104). -/
def orderSetCapacity (capacity reserve : Nat) (c : Chip) : Chip × Result :=
  (c.modRsc fun r => { r with staged := some (capacity, min reserve capacity) }, .ok)

/-- POWER_MODE (06 R105). -/
def orderPowerMode (m : PowerMode) (c : Chip) : Chip × Result :=
  (c.modRsc fun r => { r with hold := m == .conserve, stagedMode := m }, .ok)

/-- GEN_RESET (08 R134). -/
def orderGenReset (c : Chip) : Chip × Result :=
  if c.gen.state = .lockedOut then
    let c := setGen .off .reset 0 c
    (if c.demand then startRequest c else c, .ok)
  else (c, .lineBusy)

/-! ## An order taken (10 R150) -/

/-- The result of the order in hand. -/
def setResult (r : Result) (c : Chip) : Chip := { c with ord := { c.ord with result := some r } }

/-- A completed order's effect with its result. -/
def withResult (r : Chip × Result) : Chip := setResult r.2 r.1

/-- The plan argument of RING: 8 means from record. -/
def planArg (w : Word) : Option PlanNo := if w.toNat = 8 then none else some (Fin.ofNat 8 w.toNat)

/-- The bus argument of TONE. -/
def toneArg (w : Word) : Tone := if w.toNat = 3 then .progress else .none

/-- The mode argument of POWER_MODE. -/
def modeArg (w : Word) : PowerMode := if w.toNat = 1 then .conserve else .normal

/-- An order that has passed common validation, handed to the block that owns it (10 R150 step 4). -/
def handOver (k : OrderKind) (o : OrderCopy) (c : Chip) : Chip :=
  let x := lineOf o.a1
  match k with
  | .ring => withResult (orderRing x o.a2.toNat (planArg o.a3) o.a4.toNat (o.a5.toNat == 1) c)
  | .stopRing => withResult (orderStopRing x c)
  | .digitSeen => withResult (orderDigitSeen x c)
  | .enddial => withResult (orderEnddial x c)
  | .connect => withResult (orderConnect x c)
  | .tone => withResult (orderTone x (toneArg o.a2) c)
  | .clear => withResult (orderClear x c)
  | .block => withResult (orderBlock x c)
  | .unblock => withResult (orderUnblock x c)
  | .lockSlot => withResult (orderLockSlot x c)
  | .unlockSlot => withResult (orderUnlockSlot x c)
  | .freeLocks => withResult (orderFreeLocks c)
  | .invalidate => if o.a1.toNat = allLinesArg then orderInvalidateAll c else orderInvalidate x c
  | .reloadPlan =>
    let r := orderReloadPlan (Fin.ofNat 8 o.a1.toNat) c
    match r.2 with
    | some v => setResult v r.1
    | none => r.1
  | .setCapacity => withResult (orderSetCapacity o.a1.toNat o.a2.toNat c)
  | .powerMode => withResult (orderPowerMode (modeArg o.a1) c)
  | .genReset => withResult (orderGenReset c)

/-- The Order Reader holds the copy of an order, with no result and no work yet. -/
def copyOrder (o : OrderCopy) (c : Chip) : Chip :=
  { c with ord := { c.ord with read := [], copy := some o, work := none, result := none } }

/-- An order is taken: copied, validated, and handed to its block or refused (10 R150 steps 2 to 4). -/
def takeOrder (o : OrderCopy) (c : Chip) : Chip :=
  let c := copyOrder o c
  match validate o c with
  | .error r => setResult r c
  | .ok k => handOver k o c

/-- The Order Reader can take an order: the shelf is RUNNING, no order waits on its work, and the cell in hand, if any, reads TAKEN
and has no result yet (10 R149, R150). -/
def Chip.orderReady (c : Chip) : Bool :=
  c.shc.run == .running && c.ord.work.isNone &&
    (c.ord.cell.isNone || (c.ord.stage == .taken && c.ord.result.isNone))

/-- An order command: the order of that kind with these argument words is taken (log 3). -/
def orderCommand (kind : Nat) (a1 a2 a3 a4 a5 : Word) (s : State) : Out :=
  if s.chip.orderReady then finish s (takeOrder ⟨word kind, a1, a2, a3, a4, a5⟩ s.chip) else stay s

end Sys2Proof.Machine
end

