-- ==== Sys2Proof/Machine/OrderCommands.lean ====
section
/-! DEFINITION. The order commands: each is the order of its kind, taken with its argument words (10 R150, log 3). -/

namespace Sys2Proof.Machine

/-- RING (07 R109, R110). -/
def execRing (line party plan cycles priority : Word) (s : State) : Out :=
  orderCommand 1 line party plan cycles priority s

/-- STOP_RING (07 R118). -/
def execStopRing (line : Word) (s : State) : Out := orderCommand 2 line 0 0 0 0 s

/-- DIGIT_SEEN (03 R39). -/
def execDigitSeen (line : Word) (s : State) : Out := orderCommand 3 line 0 0 0 0 s

/-- ENDDIAL (03 R46). -/
def execEnddial (line : Word) (s : State) : Out := orderCommand 4 line 0 0 0 0 s

/-- CONNECT (09 R144). -/
def execConnect (line : Word) (s : State) : Out := orderCommand 5 line 0 0 0 0 s

/-- TONE (09 R145). -/
def execTone (line bus : Word) (s : State) : Out := orderCommand 6 line bus 0 0 0 s

/-- CLEAR (09 R146). -/
def execClear (line : Word) (s : State) : Out := orderCommand 7 line 0 0 0 0 s

/-- BLOCK (01 R11). -/
def execBlock (line : Word) (s : State) : Out := orderCommand 8 line 0 0 0 0 s

/-- UNBLOCK (01 R13). -/
def execUnblock (line : Word) (s : State) : Out := orderCommand 9 line 0 0 0 0 s

/-- LOCK_SLOT (04 R67). -/
def execLockSlot (line : Word) (s : State) : Out := orderCommand 10 line 0 0 0 0 s

/-- UNLOCK_SLOT (04 R68). -/
def execUnlockSlot (line : Word) (s : State) : Out := orderCommand 11 line 0 0 0 0 s

/-- FREE_LOCKS (04 R69). -/
def execFreeLocks (s : State) : Out := orderCommand 12 0 0 0 0 0 s

/-- INVALIDATE (04 R70). -/
def execInvalidate (line : Word) (s : State) : Out := orderCommand 13 line 0 0 0 0 s

/-- INVALIDATE ALL (04 R71). -/
def execInvalidateAll (s : State) : Out := orderCommand 13 (word allLinesArg) 0 0 0 0 s

/-- RELOAD_PLAN (05 R78). -/
def execReloadPlan (plan : Word) (s : State) : Out := orderCommand 14 plan 0 0 0 0 s

/-- SET_CAPACITY (06 R104). -/
def execSetCapacity (capacity reserve : Word) (s : State) : Out := orderCommand 15 capacity reserve 0 0 0 s

/-- POWER_MODE (06 R105). -/
def execPowerMode (mode : Word) (s : State) : Out := orderCommand 16 mode 0 0 0 0 s

/-- GEN_RESET (08 R134). -/
def execGenReset (s : State) : Out := orderCommand 17 0 0 0 0 0 s

end Sys2Proof.Machine
end

