-- ==== Sys2Proof/Machine/Scanner.lean ====
section
/-! DEFINITION. The scanner's commands (02 R17 to R32): a sample of a line, and the samples that bring a recognition, an expiry, a
trip confirmation or a first debounced state (log 2). -/

namespace Sys2Proof.Machine

/-- A sample that is taken only when it brings an occurrence. -/
def sampleIf (due : Bool) (x : LineNo) (loop trip : Bool) (s : State) : Out :=
  if due then finish s (sample x loop trip s.chip) else stay s

/-- LINE_SAMPLE (02 R17). -/
def execLineSample (x : LineNo) (loop trip : Bool) (s : State) : Out := finish s (sample x loop trip s.chip)

/-- HOOK_TRANSITION (02 R18). -/
def execHookTransition (x : LineNo) (loop trip : Bool) (s : State) : Out := sampleIf (s.chip.hookFalls x loop) x loop trip s

/-- FIRST_DEBOUNCED_STATE (02 R20). -/
def execFirstDebouncedState (x : LineNo) (loop trip : Bool) (s : State) : Out :=
  sampleIf (s.chip.firstFalls x loop) x loop trip s

/-- TRIP_CONFIRM (02 R23). -/
def execTripConfirm (x : LineNo) (loop trip : Bool) (s : State) : Out := sampleIf (s.chip.tripFalls x trip) x loop trip s

/-- CLEAR_EXPIRY (02 R29). -/
def execClearExpiry (x : LineNo) (loop trip : Bool) (s : State) : Out := sampleIf (s.chip.clearFalls x) x loop trip s

/-- DIGIT_EXPIRY (02 R32). -/
def execDigitExpiry (x : LineNo) (loop trip : Bool) (s : State) : Out := sampleIf (s.chip.digitFalls x) x loop trip s

end Sys2Proof.Machine
end

