-- ==== Sys2Proof/Machine/Pages.lean ====
section
/-! DEFINITION. The journal's pages: opening, closing, the head record, stall and resume (10 R153 to R156, R158), and the step
of the start procedure that opens the journal (11 R167 steps 4 to 6). -/

namespace Sys2Proof.Machine

/-- Words of a page after its header (10 §10.3). -/
def pageRoom : Nat := 62

/-- The words used have been written into the second header word of a page that is being closed (10 R155). -/
def beginClose (c : Chip) (m : Memory) : Chip × Memory :=
  (c.modJwr fun j => { j with closing := .begun }, writeWord m (c.pageAddr + 1) (pageWord1 c.jwr.used))

/-- CLOSED has been written into the first header word: the timer is stopped, the index advanced, JOURNAL set, and the header of the
next page is to be read (10 R155). -/
def endClose (c : Chip) (m : Memory) : Chip × Memory :=
  let j := c.jwr
  let next := if c.shc.hdr.pages ≤ j.index + 1 then 0 else j.index + 1
  (setAttention attnJournal
      (c.modJwr fun j => { j with page := .opening, closing := .no, closeTimer := none, index := next }),
    writeWord m c.pageAddr (pageWord0 pageClosed j.seq))

/-- The sequence number of the page to be opened: 0 for the first since START or WARM_RESTART (10 R153). -/
def Jwr.nextSeq (j : Jwr) : Nat := if j.opened then (j.seq + 1) % 256 else 0

/-- The header of the page to be opened has been read EMPTY, and is to be written (10 R153). -/
def foundEmpty (c : Chip) : Chip := c.modJwr fun j => { j with written := 1 }

/-- FILLING and the sequence number have been written into the first header word (10 R153). -/
def beginPage (c : Chip) (m : Memory) : Chip × Memory :=
  (c.modJwr fun j => { j with written := 2 }, writeWord m c.pageAddr (pageWord0 pageFilling c.jwr.nextSeq))

/-- 0 has been written into the second header word, and the page is open (10 R153). -/
def openPage (c : Chip) (m : Memory) : Chip × Memory :=
  (c.modJwr fun j => { j with page := .opened, seq := j.nextSeq, used := 0, written := 0, opened := true },
    writeWord m (c.pageAddr + 1) 0)

/-- The summary of a HELD_SUMMARY record that has been written is gone, with its held-summary flag (10 R158). -/
def Jwr.dropSummary (j : Jwr) (r : Rec) : Jwr :=
  match r.body, r.line with
  | .heldSummary _, some x => { j with summaries := j.summaries.set x none }
  | .heldSummary _, none => { j with shelf := none }
  | _, _ => j

/-- The head record has been written (10 R154); a close that waited for it comes next (10 R155). -/
def Jwr.wrote (j : Jwr) (r : Rec) : Jwr :=
  { j.dropSummary r with
    queue := j.queue.tail
    used := j.used + r.body.length
    written := 0
    closing := if j.closing = .after then .asked else j.closing
    closeTimer := if j.used = 0 then some (Timer.start j.closeDelay) else j.closeTimer }

/-- A queue stall ends by resume when the write queue has emptied (10 R156). -/
def endQueueStall (c : Chip) : Chip := if c.jwr.stall = .queue ∧ c.jwr.queue = [] then resume c else c

/-- A record fits in the unused words of the open page (10 R154). -/
def Jwr.fits (j : Jwr) (r : Rec) : Bool := j.used + r.body.length ≤ pageRoom

/-- One access of the writing of the head record: its next word, behind the words used, or after the last the new words used into the
second header word (10 R154). -/
def recordAccess (r : Rec) (c : Chip) (m : Memory) : Chip × Memory :=
  let j := c.jwr
  if j.written < r.body.length then
    (c.modJwr fun j => { j with written := j.written + 1 },
      writeWord m (c.pageAddr + 2 + j.used + j.written) ((r.words j).getD j.written 0))
  else
    (endQueueStall (c.modJwr (·.wrote r)), writeWord m (c.pageAddr + 1) (pageWord1 (j.used + r.body.length)))

/-- One access to the open page (10 R154, R155): of a close that has begun or is next; else of the head record, or of the close
that comes before it where it does not fit. -/
def pageAccess (c : Chip) (m : Memory) : Chip × Memory :=
  match c.jwr.closing, c.jwr.queue with
  | .begun, _ => endClose c m
  | .asked, _ => beginClose c m
  | .after, r :: _ | .no, r :: _ => if c.jwr.fits r then recordAccess r c m else beginClose c m
  | .after, [] | .no, [] => (c, m)

/-- The writing of a record, the opening or the closing of a page is under way. -/
def Chip.pageUnderWay (c : Chip) : Bool := c.jwr.written != 0 || c.jwr.closing == .begun

/-- The modes at step 5 of a start procedure (06 R108): CONSERVE if a warm restart kept the hold, or if auto-conserve is set and the
mains-fail input is asserted. -/
def Chip.startMode (c : Chip) : PowerMode :=
  if (c.shc.warm && c.rsc.hold) || (c.rsc.autoConserve && c.shc.mains) then .conserve else .normal

/-- A line begins its first reading (02 R20). -/
def Line.beginFirst (l : Line) : Line := { l with sampling := .first, run := 0 }

/-- The lines that a cold start brings into supervision begin their first readings (11 R167 step 6). -/
def beginReadings (c : Chip) : Chip :=
  c.mapLines fun l => if l.equipped && l.st == .unequipped then l.beginFirst else l

/-- Step 4 of the start procedure has its header: the records kept in STARTING join the queue, and steps 5 and 6 begin
(11 R167, R170). -/
def afterPage (c : Chip) : Chip :=
  let c := { c with shc := { c.shc with start := .readings, ms := 0 } }
  let c := c.modRsc fun r => { r with mode := c.startMode, stagedMode := c.startMode }
  if c.shc.warm then c else beginReadings c

/-- The records kept in STARTING stand in the write queue (11 R170). -/
def takeStartRecs (c : Chip) : Chip := c.modJwr fun j => { j with queue := j.startRecs ++ j.queue, startRecs := [] }

/-- One access of the opening of a page that is not stalled (10 R153, R156): its header is read, and either a page stall begins or
the two header words are written. -/
def openAccess (c : Chip) (m : Memory) : Chip × Memory :=
  match c.jwr.written with
  | 0 => if pageEmpty (readWord m c.pageAddr) then (foundEmpty c, m) else (beginPageStall c, m)
  | 1 => beginPage c m
  | _ => openPage c m

/-- One access of the retry of a stalled page (10 R156): its header is read again, and where it reads EMPTY the page is opened and the
stall ends by resume. -/
def retryAccess (c : Chip) (m : Memory) : Chip × Memory :=
  match c.jwr.written with
  | 0 =>
    if pageEmpty (readWord m c.pageAddr) then (foundEmpty c, m) else (c.modJwr fun j => { j with retry := 0 }, m)
  | 1 => beginPage c m
  | _ =>
    let r := openPage c m
    (resume r.1, r.2)

/-- The first page of a start procedure is being opened (11 R167 step 4). -/
def Chip.firstPage (c : Chip) : Bool := c.shc.run == .starting && c.shc.start == .page

/-- One access of the opening of the first page: at its end, open or stalled, the records kept in STARTING stand in the queue and the
next steps begin (11 R167, R170). -/
def firstAccess (c : Chip) (m : Memory) : Chip × Memory :=
  match c.jwr.written with
  | 0 =>
    if pageEmpty (readWord m c.pageAddr) then (foundEmpty c, m)
    else (afterPage (beginPageStall (takeStartRecs c)), m)
  | 1 => beginPage c m
  | _ =>
    let r := openPage (takeStartRecs c) m
    (afterPage r.1, r.2)

/-- A page is open that holds a record, so that it may be closed (10 R155). -/
def Chip.pageHeld (c : Chip) : Bool := c.jwr.page == .opened && 0 < c.jwr.used

/-! ## The commands -/

/-- One access of JOURNAL_WRITE. -/
def journalAccess (s : State) : Out :=
  let c := s.chip
  if c.serves .journal ∧ c.jwr.page = .opened ∧ (c.jwr.closing ≠ .no ∨ c.jwr.queue ≠ []) then
    inRam c.pageAddr 64 (finishRam s (pageAccess (release c) s.ram))
  else stay s

/-- JOURNAL_WRITE (10 R154, R155). -/
def execJournalWrite (s : State) (more : Nat := 0) : Out := accesses Chip.pageUnderWay journalAccess more s

/-- The head record of the open page is the access in progress, so that a close waits for it (10 R155). -/
def Chip.recordInProgress (c : Chip) : Bool :=
  c.serves .journal &&
    match c.jwr.queue with
    | r :: _ => c.jwr.fits r
    | [] => false

/-- A page that holds a record is to be closed (10 R155); a close already asked for stands. -/
def askClose (c : Chip) : Chip :=
  if c.pageHeld ∧ c.jwr.closing = .no then
    c.modJwr fun j => { j with closing := if c.recordInProgress then .after else .asked }
  else c

/-- The machine goes on with the page asked to be closed. Where no access was in progress the arbiter takes the close at once, and the
step makes the first `more` of its two writes; every other write is made by JOURNAL_WRITE, as the arbiter serves it (10 R155, R160,
log 9). -/
def closeOut (s : State) (c : Chip) (more : Nat) : Out :=
  let t : State := { s with chip := settle s.chip (askClose c) }
  match more with
  | 0 => .next t
  | k + 1 =>
    if s.chip.mpt.busy = none ∧ t.chip.jwr.closing = .asked then accesses Chip.pageUnderWay journalAccess k t else .next t

/-- PAGE_CLOSE_TIMER_EXPIRY (10 R155). -/
def execPageCloseTimerExpiry (s : State) (more : Nat := 0) : Out :=
  let c := s.chip
  if c.journalOpen ∧ c.pageHeld ∧ timerDue c.jwr.closeTimer then closeOut s c more else stay s

/-- One access of PAGE_OPEN. -/
def pageOpenAccess (s : State) : Out :=
  let c := s.chip
  if c.serves .journal ∧ c.jwr.page = .opening ∧ c.jwr.stall ≠ .page then
    inRam c.pageAddr 64
      (finishRam s (if c.firstPage then firstAccess (release c) s.ram else openAccess (release c) s.ram))
  else stay s

/-- PAGE_OPEN (10 R153, 11 R167 step 4). -/
def execPageOpen (s : State) (more : Nat := 0) : Out := accesses Chip.pageUnderWay pageOpenAccess more s

/-- One access of PAGE_STALL_RETRY. -/
def stallRetryAccess (s : State) : Out :=
  let c := s.chip
  if c.serves .journal ∧ c.jwr.page = .opening ∧ c.jwr.stall = .page ∧ (c.retryDue ∨ c.jwr.written ≠ 0) then
    inRam c.pageAddr 64 (finishRam s (retryAccess (release c) s.ram))
  else stay s

/-- PAGE_STALL_RETRY (10 R156). -/
def execPageStallRetry (s : State) (more : Nat := 0) : Out := accesses Chip.pageUnderWay stallRetryAccess more s

end Sys2Proof.Machine
end

