-- ==== Sys2Proof/Machine/Access.lean ====
section
/-! DEFINITION. The other accesses to the RAM: the order cells (10 R148 to R150), the record fetch and the core-field read
(04 R60 to R62, 01 R3), the plan read of RELOAD_PLAN (05 R79), the mirror (10 R159), and an access that fails (10 R161,
11 R168). -/

namespace Sys2Proof.Machine

/-- The chip with the Order Reader changed. -/
def Chip.modOrd (c : Chip) (f : Ord → Ord) : Chip := { c with ord := f c.ord }

/-- The chip with Shelf Control changed. -/
def Chip.modShc (c : Chip) (f : Shc → Shc) : Chip := { c with shc := f c.shc }

/-! ## Order cells -/

/-- Cell states (10 Table 10-8). -/
def cellPosted : Nat := 1
def cellTaken : Word := 2#16
def cellDone : Word := 3#16

/-- A pass begins at cell 0 with the pass timer started (10 R149). -/
def Ord.beginPass (o : Ord) : Ord := { o with inPass := true, pos := 0, timer := some (Timer.start o.period) }

/-- The pass goes on to the next cell, or ends after cell 31; where the pass timer has expired by then, the next pass begins as this one
ends (10 R149). -/
def Ord.advance (o : Ord) : Ord :=
  if o.pos = 31 then if timerDue o.timer then o.beginPass else { o with inPass := false, pos := 0 }
  else { o with pos := o.pos + 1 }

/-- ORDER_PASS (10 R149): the pass timer has expired and no pass is in progress. -/
def execOrderPass (s : State) : Out :=
  let c := s.chip
  if c.shc.run = .running ∧ c.ord.inPass = false ∧ timerDue c.ord.timer then finish s (c.modOrd Ord.beginPass) else stay s

/-- The cell at the pass position has been read POSTED and is in hand (10 R148). -/
def Ord.hold (o : Ord) : Ord :=
  { o with cell := some o.pos, stage := .found, read := [], copy := none, result := none, staging := none }

/-- One access of ORDER_CELL_VISIT: the state word of the cell at the pass position is read, or TAKEN is written to the cell found
POSTED (10 R148, R150 step 1). -/
def visitAccess (s : State) : Out :=
  let c := s.chip
  match c.ord.cell with
  | none =>
    if c.serves .order then
      let a := c.cellAddr c.ord.pos
      inRam a 8
        (finish s
          ((release c).modOrd (if (readWord s.ram a).toNat = cellPosted then Ord.hold else Ord.advance)))
    else stay s
  | some k =>
    if c.serves .order ∧ c.ord.stage = .found then
      inRam (c.cellAddr k) 8
        (finishRam s
          ((release c).modOrd fun o => { o with stage := .taken }, writeWord s.ram (c.cellAddr k) cellTaken))
    else stay s

/-- TAKEN is still to be written to the cell in hand. -/
def Chip.visitUnderWay (c : Chip) : Bool := c.ord.cell.isSome && c.ord.stage == .found

/-- ORDER_CELL_VISIT (10 R148, R150 step 1). -/
def execOrderCellVisit (s : State) (more : Nat := 0) : Out := accesses Chip.visitUnderWay visitAccess more s

/-- The word of the cell that is read number `k` of the order: the kind word and the five argument words (10 Table 10-8). -/
def orderOffset (k : Nat) : Nat := if k < 5 then k + 1 else 7

/-- The order of six words read. -/
def orderOfWords (ws : List Word) : OrderCopy where
  kind := ws.getD 0 0
  a1 := ws.getD 1 0
  a2 := ws.getD 2 0
  a3 := ws.getD 3 0
  a4 := ws.getD 4 0
  a5 := ws.getD 5 0

/-- The order that a cell holds. -/
def cellOrder (m : Memory) (a : Nat) : OrderCopy :=
  orderOfWords ((List.range 6).map fun k => readWord m (a + orderOffset k))

/-- One access of ORDER_TAKEN: a word of the order is read, and with the last the order is taken (10 R150 steps 2 to 4). -/
def takenAccess (s : State) : Out :=
  let c := s.chip
  match c.ord.cell with
  | none => stay s
  | some k =>
    if c.serves .order ∧ c.ord.stage = .taken ∧ c.ord.result = none ∧ c.ord.work = none ∧ c.ord.copy = none then
      let ws := c.ord.read ++ [readWord s.ram (c.cellAddr k + orderOffset c.ord.read.length)]
      inRam (c.cellAddr k) 8
        (finish s
          (if ws.length < 6 then (release c).modOrd fun o => { o with read := ws }
          else takeOrder (orderOfWords ws) (release c)))
    else stay s

/-- Words of the order in hand have been read, and not all. -/
def Chip.orderUnderWay (c : Chip) : Bool := !c.ord.read.isEmpty

/-- ORDER_TAKEN (10 R150 steps 2 to 4). -/
def execOrderTaken (s : State) (more : Nat := 0) : Out := accesses Chip.orderUnderWay takenAccess more s

/-- The order in hand is finished with (10 R150). -/
def Ord.finished (o : Ord) : Ord :=
  ({ o with cell := none, stage := .found, read := [], copy := none, work := none, staging := none, result := none } : Ord).advance

/-- A plan copy becomes the staged copy of its plan (05 R79). -/
def stagePlan (p : PlanNo) (segs : Plan) (c : Chip) : Chip :=
  c.modCtb fun t => { t with staged := t.staged.set p (some segs) }

/-- The result has been written: the plan that RELOAD_PLAN has read is staged (05 R79). -/
def resultWritten (c : Chip) : Chip :=
  let o := c.ord
  let c := c.modOrd fun o => { o with stage := .answered, staging := none }
  match o.staging with
  | some (p, segs) => stagePlan p segs c
  | none => c

/-- One access of ORDER_DONE: the result word is written, or DONE to the state word after it (10 R150 step 5). -/
def doneAccess (s : State) : Out :=
  let c := s.chip
  match c.ord.cell, c.ord.result with
  | some k, some r =>
    if c.serves .order ∧ c.ord.stage ≠ .found then
      inRam (c.cellAddr k) 8
        (finishRam s
          (if c.ord.stage = .answered then
            (setAttention attnOrderDone ((release c).modOrd Ord.finished), writeWord s.ram (c.cellAddr k) cellDone)
          else (resultWritten (release c), writeWord s.ram (c.cellAddr k + 6) (word r.code))))
    else stay s
  | _, _ => stay s

/-- The result of the order in hand has been written, and DONE not. -/
def Chip.doneUnderWay (c : Chip) : Bool := c.ord.cell.isSome && c.ord.stage == .answered

/-- ORDER_DONE (10 R150 step 5). -/
def execOrderDone (s : State) (more : Nat := 0) : Out := accesses Chip.doneUnderWay doneAccess more s

/-- The order in hand is abandoned, and the pass ends (10 R149, R152). -/
def Ord.abandoned (o : Ord) : Ord := { Ord.reset with period := o.period }

/-! ## Record fetches (04 R60, R61) -/

/-- A slot is being fetched: BOUND in phase FETCHING. -/
def Slot.fetching (s : Slot) : Bool := s.status == .bound && s.phase == .fetching

/-- The word number `k` of a fetch enters the copy of its slot. -/
def Slot.putWord (s : Slot) (k : Fin 8) (w : Word) : Slot := { s with copy := s.copy.set k w, words := k.val + 1 }

/-- One word of the fetch into a slot is read. -/
def readFetchWord (i : SlotNo) (x : LineNo) (k : Fin 8) (m : Memory) (c : Chip) : Chip :=
  dropRequest (.fetch i) (c.modSlot i fun s => s.putWord k (readWord m (c.recordAddr x + k.val)))

/-- FETCH_WORD_READ (04 R60): one of the first seven words; the next is requested. -/
def execFetchWordRead (i : SlotNo) (s : State) : Out :=
  let c := s.chip
  match (c.slot i).recLine with
  | none => stay s
  | some x =>
    if h : (c.slot i).words < 7 then
      if c.serves (.fetch i) ∧ (c.slot i).fetching then
        inRam (c.recordAddr x) 8
          (finish s (addRequest (.fetch i) (readFetchWord i x ⟨(c.slot i).words, by omega⟩ s.ram (release c))))
      else stay s
    else stay s

/-- A fetch without a holder is complete (04 R61). -/
def abandonedFetch (i : SlotNo) (c : Chip) : Chip :=
  let s := c.slot i
  let c :=
    if s.refetch then toLru i (c.modSlot i Slot.emptied)
    else toMru i (c.modSlot i fun s => { s with status := .warm, ctx := Ctx.fresh })
  grantFreed (c, some i)

/-- A fetch is complete (04 R60, R61). -/
def fetchDone (i : SlotNo) (c : Chip) : Chip :=
  match (c.slot i).holder with
  | some x => grantFreed (takeRecord x (c.modSlot i fun s => { s with phase := .valid }))
  | none => abandonedFetch i c

/-- FETCH_COMPLETE (04 R60): the eighth word. -/
def execFetchComplete (i : SlotNo) (s : State) : Out :=
  let c := s.chip
  match (c.slot i).recLine with
  | none => stay s
  | some x =>
    if c.serves (.fetch i) ∧ (c.slot i).fetching ∧ (c.slot i).words = 7 then
      inRam (c.recordAddr x) 8 (finish s (fetchDone i (readFetchWord i x 7 s.ram (release c))))
    else stay s

/-! ## Core-field reads (01 R1, R3, R7) -/

/-- The core fields of word 0 of a record (01 R1). -/
def Line.takeCore (l : Line) (w : Word) : Line :=
  { l with equipped := recEquipped w, cls := recClass w, sig := recSig w, tset := recTset w }

/-- The new core fields take effect (01 R3, R6, R7). In STARTING the IDLE row waits for RUNNING (01 R16), and a cold start begins the
first readings at its step 6 (11 R167). -/
def coreEffect (x : LineNo) (w : Word) (c : Chip) : Chip :=
  let c := c.modLine x (·.takeCore w)
  let l := c.line x
  let starting : Bool := c.shc.run == .starting
  match l.st, l.equipped with
  | .idle, false => if starting then c else enterUnequipped x c
  | .unequipped, false => c.modLine x fun l => { l with sampling := .off }
  | .unequipped, true =>
    if l.sampling = .off ∧ (!starting || c.shc.warm) then c.modLine x Line.beginFirst else c
  | _, _ => c

/-- The core-field reads that were requested are all made: INVALIDATE has its result, or the start procedure goes on to open the
journal (04 R70, 11 R167). -/
def coreReadsDone (c : Chip) : Chip :=
  if c.shc.run = .starting then (c.modShc fun s => { s with start := .page }).modJwr fun j => { j with page := .opening }
  else setResult .ok (c.modOrd fun o => { o with work := none })

/-- A core-field read is complete: the next is requested, or all are made. -/
def nextCoreRead (rest : List LineNo) (c : Chip) : Chip :=
  let c := dropRequest .core (c.modMpt fun m => { m with coreReads := rest })
  if rest = [] then coreReadsDone c else if c.shc.run = .starting then c else addRequest .core c

/-- CORE_FIELD_READ_COMPLETE (01 R3). -/
def execCoreFieldReadComplete (s : State) : Out :=
  let c := s.chip
  match c.mpt.coreReads with
  | [] => stay s
  | x :: rest =>
    if c.serves .core then
      inRam (c.recordAddr x) 8
        (finish s (nextCoreRead rest (coreEffect x (readWord s.ram (c.recordAddr x)) (release c))))
    else stay s

/-! ## The plan read of RELOAD_PLAN (05 R79) -/

/-- The words read are checked, and the order refused or its plan copy kept until the result is written, in which time no line is
admitted on the plan (log 17); an order that was taken from no cell has its result as soon as it is given (05 R79, log 3). -/
def reloadDone (p : PlanNo) (ws : List Word) (c : Chip) : Chip :=
  let c := dropRequest .reload (c.modOrd fun o => { o with work := none, read := [] })
  match parsePlan c.shc.hdr.n ws with
  | .absent | .malformed => setResult .badOrder c
  | .good segs =>
    if c.planInUse p then setResult .planInUse c
    else if c.ord.cell = none then stagePlan p segs (setResult .ok c)
    else (setResult .ok c).modOrd fun o => { o with staging := some (p, segs) }

/-- One access of RELOAD_PLAN_READ_COMPLETE: a word of the plan is read, and the next requested or the read complete. DESIGN CHOICE
(log 40): word 9, which Table 10-7 marks "not read", has its access as the others and is not looked at. -/
def reloadAccess (s : State) : Out :=
  let c := s.chip
  match c.ord.work with
  | some (.reload p) =>
    if c.serves .reload then
      let ws := c.ord.read ++ [readWord s.ram (c.planAddr p + c.ord.read.length)]
      inRam (c.planAddr p) 10
        (finish s
          (if ws.length < 10 then
            addRequest .reload (dropRequest .reload ((release c).modOrd fun o => { o with read := ws }))
          else reloadDone p ws (release c)))
    else stay s
  | _ => stay s

/-- Words of a plan have been read, and not all. -/
def Chip.reloadUnderWay (c : Chip) : Bool := !c.ord.read.isEmpty

/-- RELOAD_PLAN_READ_COMPLETE (05 R79). -/
def execReloadPlanReadComplete (s : State) (more : Nat := 0) : Out := accesses Chip.reloadUnderWay reloadAccess more s

/-! ## The mirror (10 R159) -/

/-- The next marked line above the last served, wrapping. -/
def Chip.nextMarked (c : Chip) : Option LineNo :=
  match allLines.find? fun x => decide (c.mpt.last < x) && (c.line x).mark with
  | some x => some x
  | none => allLines.find? fun x => (c.line x).mark

/-- The mark of a line is cleared as it is served. -/
def serveMark (x : LineNo) (c : Chip) : Chip :=
  (c.modLine x fun l => { l with mark := false }).modMpt fun m => { m with last := x }

/-- MIRROR_WRITE (10 R159). -/
def execMirrorWrite (s : State) : Out :=
  let c := s.chip
  match c.nextMarked with
  | none => stay s
  | some x =>
    if c.serves .mirror then
      inRam (c.statusAddr x) 1
        (finishRam s (serveMark x (release c), writeWord s.ram (c.statusAddr x) (c.line x).statusWord))
    else stay s

/-! ## An access fails (10 R161, R162, 04 R62, 11 R168) -/

/-- The FAULT record of a failure is folded into the shelf summary (10 R161, 11 R168). -/
def foldFault (k : FaultKind) (c : Chip) : Chip := c.modJwr (·.fold ⟨none, c.stamp, .fault k 0⟩)

/-- A line of a shelf whose start procedure fails (11 R168): UNEQUIPPED, with what R6 gives for it. -/
def Line.failed (l : Line) (blank clearAt : Nat) : Line :=
  { (l.moveRelay blank false).enter clearAt .unequipped with
    tone := .none
    slot := none
    asking := false
    sampling := .off
    selector := none
    mark := true }

/-- A start procedure fails (11 R168): the fault, FAILED, every line UNEQUIPPED, the Ring Scheduler as STOP leaves it but for the
conserve hold (06 R108), the generator OFF with its history kept (08 R136), the cycle counter at 0, every access ended (log 32). DESIGN
CHOICE (log 37): the records kept in STARTING that have not joined the write queue are left where they are. DESIGN CHOICE (log 39): before
the plan read the active and the staged plan copies stand as they are. -/
def failStart (k : FaultKind) (c : Chip) : Chip :=
  let c := foldFault k (offerFault k none 0 c)
  let c := c.modJwr Jwr.foldQueue
  { c with
    lines := mapEach (v := c.lines) fun l => l.failed (c.sets[l.tset]).burstBlank (c.sets[l.tset]).clearAt
    sst := { c.sst with waitList := [] }
    ctb := { c.ctb with step := 0, periods := 0 }
    rsc := { Rsc.reset with hold := c.rsc.hold }
    gen := { c.gen with state := .off, startTimer := none, idleTimer := none, holdTimer := none }
    ord := c.ord.abandoned
    mpt := { c.mpt with coreReads := [], reqs := [], read := [], busy := none }
    shc := { c.shc with run := .failed, start := .none } }

/-- The shelf becomes ISOLATED (10 R161, R162): the fault, the queued records folded, a page access ended with the page as far as
written, the order abandoned, the core-field and plan reads ended, the fetches held. -/
def isolate (c : Chip) : Chip :=
  let c := offerFault .memoryTimeout none 0 c
  let c := (foldFault .memoryTimeout c).modJwr fun j => { j.foldQueue with written := 0, closing := .no }
  let held (a : Access) : Bool :=
    match a with
    | .fetch _ => true
    | _ => false
  { c with
    ord := c.ord.abandoned
    mpt := { c.mpt with coreReads := [], reqs := c.mpt.reqs.filter held, busy := none }
    shc := { c.shc with run := .isolated } }

/-- A line whose fetch failed asks again at once (04 R62, 07 R112). -/
def askAgain (x : LineNo) (c : Chip) : Chip :=
  let c := modEntry x (fun e => { e with needsSlot := true, fetching := false }) (setSlotRef x none c)
  requestSlot x (c.line x).st.purpose (c.line x).askClass c

/-- The record fetch into a slot has failed (04 R62). -/
def failFetch (i : SlotNo) (c : Chip) : Chip :=
  let holder := (c.slot i).holder
  let c := dropRequest (.fetch i) (toLru i (c.modSlot i Slot.emptied))
  match holder with
  | some x => askAgain x c
  | none => grantFreed (c, some i)

/-- Plans read before an access of the plan read failed keep their new states; the others are ABSENT (05 R77, log 23). -/
def keepPlansBelow (k : Nat) (read : PlanNo → PlanRead) (c : Chip) : Chip :=
  c.modCtb fun t =>
    { t with
      active := Vector.ofFn fun p : PlanNo => if p.val < k then (read p).copy else none
      staged := Vector.replicate 8 none }

/-- The PLAN_INVALID faults of a plan read, offered in ascending plan number; their records stand ahead of the others kept in
STARTING (05 R77, 11 R170). -/
def planFaults (ps : List PlanNo) (c : Chip) : Chip :=
  let c := ps.foldl (fun c p => offerFault .planInvalid none p.val c) c
  c.modJwr fun j => { j with startRecs := (ps.map fun p => (⟨none, 0, .fault .planInvalid p.val⟩ : Rec)) ++ j.startRecs }

/-- What the words of the plan area give for a plan. -/
def planOf (n : Nat) (ws : List Word) (p : PlanNo) : PlanRead := parsePlan n ((ws.drop (10 * p.val)).take 10)

/-- The plans below `k` that the words read give as malformed. -/
def badPlans (k : Nat) (read : PlanNo → PlanRead) : List PlanNo :=
  (List.finRange 8).filter fun p => decide (p.val < k) && read p == .malformed

/-- The plans read before an access of the plan read failed (05 R77). -/
def plansBefore (c : Chip) : Chip :=
  if c.shc.start = .plans then
    let read := planOf c.shc.hdr.n c.mpt.read
    let k := c.mpt.read.length / 10
    planFaults (badPlans k read) (keepPlansBelow k read c)
  else c

/-- The outcome of the failed access for its requester, the shelf having become ISOLATED (10 R161). -/
def afterTimeout (a : Access) (c : Chip) : Chip :=
  match a with
  | .fetch i => failFetch i c
  | .mirror =>
    match c.nextMarked with
    | some x => c.modMpt fun m => { m with last := x }
    | none => c
  | .journal | .core | .reload | .start | .order => c

/-- MEMORY_TIMEOUT (10 R161, 11 R168). -/
def execMemoryTimeout (a : Access) (s : State) : Out :=
  let c := s.chip
  if c.serves a then
    match c.shc.run with
    | .starting => finish s (failStart .memoryTimeout (plansBefore c))
    | .running => finish s (afterTimeout a (isolate c))
    | .halted | .isolated | .failed => stay s
  else stay s

end Sys2Proof.Machine
end

