-- ==== Sys2Proof/Machine/Control.lean ====
section
/-! DEFINITION. Shelf Control: resets, the shelf commands of the Control register (11 R163, R166, R169, R170, R172), the other
register writes and the input pins (11 R164, R171, 08 R131). -/

namespace Sys2Proof.Machine

/-! ## Resets (11 R172) -/

/-- The chip after power-on reset; the input pins keep their levels (log 10). -/
def powerOn (c : Chip) : Chip :=
  { Chip.reset with
    gen := { Gen.reset with overload := c.gen.overload }
    shc := { Shc.reset with mains := c.shc.mains } }

/-- The chip after the RESET input: the fault record and the count are kept, and FAULT stands if a fault is held. -/
def resetInput (c : Chip) : Chip :=
  (powerOn c).modShc fun s =>
    { s with
      fault := c.shc.fault
      further := c.shc.further
      attention := if c.shc.fault.isSome then attnFault else 0 }

/-! ## The shelf commands (11 R166) -/

/-- The start procedure begins (11 R167 step 1, 10 R153). -/
def startProcedure (c : Chip) : Chip :=
  { c with
    jwr := { Jwr.reset with closeDelay := c.jwr.closeDelay }
    shc := { c.shc with run := .starting, start := .header, warm := false } }

/-- STOP (11 R169): every block in its STOP state; Shelf Control keeps its registers, the fault record and the counter, the LSC its
timing sets (02 R26), and the marks stand as they are (10 R159). -/
def stopAll (c : Chip) : Chip :=
  { c with
    lines := mapEach (v := c.lines) fun l => { Line.reset with mark := l.mark }
    sst := Sst.reset
    ctb := Ctb.reset
    rsc := Rsc.reset
    gen := { Gen.reset with overload := c.gen.overload }
    ord := Ord.reset
    jwr := Jwr.reset
    mpt := Mpt.reset
    shc := { c.shc with run := .halted, start := .none, warm := false } }

/-- START by run state (11 Table 11-1). -/
def startCommand (c : Chip) : Chip :=
  match c.shc.run with
  | .halted => startProcedure c
  | .starting | .running | .isolated | .failed => c

/-- STOP by run state. -/
def stopCommand (c : Chip) : Chip :=
  match c.shc.run with
  | .halted => c
  | .starting | .running | .isolated | .failed => stopAll c

/-- COLD_RESTART by run state: STOP and at once the start procedure. -/
def coldRestartCommand (c : Chip) : Chip :=
  match c.shc.run with
  | .halted => startProcedure c
  | .starting | .running | .isolated => startProcedure (stopAll c)
  | .failed => c

/-- A line at the moment WARM_RESTART is taken, its slot gone and its relay open (01 Table 1-4). -/
def warmLine (x : LineNo) (c : Chip) : Chip :=
  let l := c.line x
  match l.st with
  | .ringWait | .ringing => enterPostRingGuard x c
  | .seizeWait | .dialTone | .dialling | .routing | .recall =>
    match l.hook with
    | .on => enterReleaseGuard x c
    | .off =>
      (setTone x .none (setSt x .seizeWait c)).modLine x fun l =>
        { l with asking := true, askClass := l.cls, seizure := 0 }
  | .unequipped | .idle | .blocked | .talk | .parked | .releaseGuard => c

/-- The slots emptied with their locks kept and the stack in its order, the list emptied, every slot reference none (04 R73). -/
def emptySlots (c : Chip) : Chip :=
  { c with
    sst := { c.sst with slots := mapEach Slot.emptied c.sst.slots, waitList := [] }
    lines := mapEach (v := c.lines) fun l => { l with slot := none, asking := false, mark := l.mark || l.slot.isSome } }

/-- The allocations and the queue emptied, with every relay open and every selector released (06 R108, 05 R86). -/
def emptyRinging (c : Chip) : Chip :=
  let c := openRelays c
  { c with
    lines := mapEach (v := c.lines) fun l => { l with selector := none }
    rsc := { c.rsc with plt := List.replicate c.rsc.plt.length 0, allocs := [], queue := [] }
    ctb := { c.ctb with step := 0, periods := 0 } }

/-- WARM_RESTART as it is taken (11 R170). DESIGN CHOICE (log 39): the plan copies stand until the plan read replaces them. -/
def warmRestart (c : Chip) : Chip :=
  let c := emptyRinging (emptySlots c)
  let c :=
    { c with
      ord := c.ord.abandoned
      jwr := { Jwr.reset with closeDelay := c.jwr.closeDelay }
      mpt := { c.mpt with coreReads := [], reqs := [], read := [], busy := none }
      shc := { c.shc with run := .starting, start := .header, warm := true } }
  allLines.foldl (fun c x => warmLine x c) c

/-- WARM_RESTART by run state. -/
def warmRestartCommand (c : Chip) : Chip :=
  match c.shc.run with
  | .running | .isolated => warmRestart c
  | .halted | .starting | .failed => c

/-- FLUSH in RUNNING asks for the open page to be closed if it holds a record (10 R155); in every other run state it is ignored. -/
def flushOut (s : State) (c : Chip) (more : Nat) : Out := if c.shc.run = .running then closeOut s c more else finish s c

/-- Every write to Control stores the select bit and the mask (11 R163). -/
def storeControl (sel : Bool) (mask : BitVec 5) (c : Chip) : Chip := c.modShc fun s => { s with sel := sel, mask := mask }

/-- POWER_ON_RESET (11 R172). -/
def execPowerOnReset (s : State) : Out := finish s (powerOn s.chip)

/-- RESET_INPUT (11 R172). -/
def execResetInput (s : State) : Out := finish s (resetInput s.chip)

/-- START (11 R166, R167). -/
def execStart (sel : Bool) (mask : BitVec 5) (s : State) : Out := finish s (startCommand (storeControl sel mask s.chip))

/-- STOP (11 R166, R169). -/
def execStop (sel : Bool) (mask : BitVec 5) (s : State) : Out := finish s (stopCommand (storeControl sel mask s.chip))

/-- COLD_RESTART (11 R166, R169). -/
def execColdRestart (sel : Bool) (mask : BitVec 5) (s : State) : Out :=
  finish s (coldRestartCommand (storeControl sel mask s.chip))

/-- WARM_RESTART (11 R166, R170). -/
def execWarmRestart (sel : Bool) (mask : BitVec 5) (s : State) : Out :=
  finish s (warmRestartCommand (storeControl sel mask s.chip))

/-- FLUSH (11 R166, 10 R155). -/
def execFlush (sel : Bool) (mask : BitVec 5) (s : State) (more : Nat := 0) : Out :=
  flushOut s (storeControl sel mask s.chip) more

/-- FAULT_CLEAR (11 R165). -/
def execFaultClear (sel : Bool) (mask : BitVec 5) (s : State) : Out :=
  finish s (clearFaults (storeControl sel mask s.chip))

/-- The command field of a write to Control (10 Table 10-13). -/
def commandField (w : Word) : Nat := field w 0 3

/-- The select bit of a write to Control. -/
def selectField (w : Word) : Bool := flag w 3

/-- The enable mask of a write to Control. -/
def maskField (w : Word) : BitVec 5 := w.extractLsb' 4 5

/-- CONTROL_REGISTER_WRITE (11 R163): the select bit and the mask are stored, then the command is acted on; `more` is
FLUSH's. Command 7 does nothing (log 8). -/
def execControlRegisterWrite (w : Word) (s : State) (more : Nat := 0) : Out :=
  let c := storeControl (selectField w) (maskField w) s.chip
  match commandField w with
  | 1 => finish s (startCommand c)
  | 2 => finish s (stopCommand c)
  | 3 => finish s (coldRestartCommand c)
  | 4 => finish s (warmRestartCommand c)
  | 5 => flushOut s c more
  | 6 => finish s (clearFaults c)
  | _ => finish s c

/-! ## The other registers and the pins -/

/-- AREA_BASE_WRITE (11 R163): stored while HALTED. -/
def execAreaBaseWrite (w : Word) (s : State) : Out :=
  match s.chip.shc.run with
  | .halted => finish s (s.chip.modShc fun r => { r with areaBase := w.extractLsb' 0 15 })
  | .starting | .running | .isolated | .failed => stay s

/-- ATTENTION_WRITE (11 R164). -/
def execAttentionWrite (w : Word) (s : State) : Out := finish s (clearAttention (w.extractLsb' 0 5) s.chip)

/-- The run states in which mains-fail changes are handed on (11 R171). -/
def Chip.handsMains (c : Chip) : Bool := c.shc.run == .running || c.shc.run == .isolated

/-- MAINS_FAIL_ASSERTED (06 R105, 11 R171). -/
def execMainsFailAsserted (s : State) : Out :=
  let c := s.chip.modShc fun r => { r with mains := true }
  finish s
    (if c.handsMains ∧ c.rsc.autoConserve then c.modRsc fun r => { r with stagedMode := .conserve } else c)

/-- MAINS_FAIL_RELEASED (06 R105, 11 R171). -/
def execMainsFailReleased (s : State) : Out :=
  let c := s.chip.modShc fun r => { r with mains := false }
  finish s
    (if c.handsMains ∧ c.rsc.autoConserve ∧ c.rsc.hold = false then c.modRsc fun r => { r with stagedMode := .normal }
    else c)

/-- OVERLOAD_ASSERTED (08 R131): a trip in STARTING and RUNNING, ignored in the other generator states; `standing` is the level the
input keeps (log 10). -/
def execOverloadAsserted (standing : Bool) (s : State) : Out :=
  let c := s.chip.modGen fun g => { g with overload := standing }
  match c.gen.state with
  | .starting | .running => finish s (tripGen c)
  | .off | .tripped | .lockedOut => finish s c

end Sys2Proof.Machine
end

