-- ==== Sys2Proof/Machine/Startup.lean ====
section
/-! DEFINITION. The start procedure's reads and its end (11 R167, R168, R170, 02 R26, 05 R77, 06 R90, 08 R127). -/

namespace Sys2Proof.Machine

/-- The Ring Scheduler's values of the header, clamped and repaired, with N counters at 0 and no staged pair (06 R90, R108). -/
def Rsc.take (r : Rsc) (v : Nat → Nat) (n : Nat) : Rsc :=
  let capacity := clamp 1 255 (v 3)
  let boost := clamp 0 15 (v 8)
  let press := clamp 0 15 (v 9)
  { r with
    plt := List.replicate n 0
    capacity := capacity
    reserve := clamp 0 capacity (v 4)
    conserveCap := clamp 1 255 (v 5)
    conserveMax := clamp 1 255 (v 6)
    autoConserve := v 7 % 2 == 1
    boost := boost
    press := if press ≠ 0 ∧ boost ≠ 0 then max press boost else press
    waitLimit := clamp 0 120 (v 10)
    staged := none }

/-- The Generator Controller's values of the header, clamped (08 R127). -/
def Gen.take (g : Gen) (v : Nat → Nat) : Gen :=
  { g with
    startTime := 100 * clamp 1 20 (v 11)
    idleStop := clamp 0 600 (v 12)
    tripHold := clamp 1 30 (v 13)
    tripWindow := clamp 10 300 (v 14) }

/-- The tuning values of a valid header are taken, and the timing sets are to be read (11 R167 step 3). -/
def takeHeader (ws : List Word) (c : Chip) : Chip :=
  let v (i : Nat) : Nat := (ws.getD i 0).toNat
  { c with
    rsc := c.rsc.take v (parseHeader ws).n
    gen := c.gen.take v
    ord := { c.ord with period := clamp 2 40 (v 15) }
    jwr := { c.jwr with closeDelay := clamp 1 100 (v 17) }
    shc := { c.shc with hdr := parseHeader ws, start := .timing } }

/-- The start procedure's read at step `st` of `n` words from `a` on makes one access: a word is read, and with the last `all` takes the
words (11 R167). -/
def startAccess (st : StartStep) (a n : Nat) (all : List Word → Chip → Chip) (s : State) : Out :=
  let c := s.chip
  if c.serves .start ∧ c.shc.start = st then
    let ws := c.mpt.read ++ [readWord s.ram (a + c.mpt.read.length)]
    finish s
      (if ws.length < n then (release c).modMpt fun m => { m with read := ws }
      else all ws ((release c).modMpt fun m => { m with read := [] }))
  else stay s

/-- The same for an area that the header names. -/
def areaAccess (st : StartStep) (a n : Nat) (all : List Word → Chip → Chip) (s : State) : Out :=
  if s.chip.serves .start ∧ s.chip.shc.start = st then inRam a n (startAccess st a n all s) else stay s

/-- Words of the read in progress have been read, and not all. -/
def Chip.readUnderWay (c : Chip) : Bool := !c.mpt.read.isEmpty

/-- The header has been read: it is taken, or the start procedure fails (11 R167 step 2, R168). -/
def headerDone (ws : List Word) (c : Chip) : Chip :=
  if headerValid c.base ws then takeHeader ws c else failStart .headerInvalid c

/-- HEADER_READ_COMPLETE (11 R167 step 2, R168). A header that does not lie wholly in the RAM fails the structural check. -/
def execHeaderReadComplete (s : State) (more : Nat := 0) : Out :=
  accesses Chip.readUnderWay (fun s => startAccess .header s.chip.base 48 headerDone s) more s

/-- The four timing sets replace the copies (02 R26, R27), and the plans are to be read. -/
def takeTiming (ws : List Word) (c : Chip) : Chip :=
  { c with
    sets := Vector.ofFn fun k : SetNo => parseTiming ((ws.drop (16 * k.val)).take 16)
    shc := { c.shc with start := .plans } }

/-- TIMING_SET_READ_COMPLETE (02 R26, R27). -/
def execTimingSetReadComplete (s : State) (more : Nat := 0) : Out :=
  accesses Chip.readUnderWay (fun s => areaAccess .timing (s.chip.timingAddr 0) 64 takeTiming s) more s

/-- The plans take their states together, and the core fields are to be read (05 R77, 01 R1). -/
def takePlans (ws : List Word) (c : Chip) : Chip :=
  let read := planOf c.shc.hdr.n ws
  let c := planFaults (badPlans 8 read) (keepPlansBelow 8 read c)
  { c with
    mpt := { c.mpt with coreReads := c.linesBelow }
    shc := { c.shc with start := .core } }

/-- PLAN_READ_COMPLETE (05 R77). -/
def execPlanReadComplete (s : State) (more : Nat := 0) : Out :=
  accesses Chip.readUnderWay (fun s => areaAccess .plans (s.chip.planAddr 0) 80 takePlans s) more s

/-- Every supervised line has found its first debounced state; a warm restart does not wait for them (11 R167, R170 step 6). -/
def Chip.readingsDone (c : Chip) : Bool := c.shc.warm || allLines.all fun x => (c.line x).sampling != .first

/-- A line at the moment the shelf becomes RUNNING: UNEQUIPPED at or above the equipped count, or in IDLE without equipment
(01 Table 1-4, R16). -/
def runLine (x : LineNo) (c : Chip) : Chip :=
  let l := c.line x
  if c.shc.hdr.equipped ≤ x.val then enterUnequipped x c
  else if l.st = .idle ∧ l.equipped = false then enterUnequipped x c
  else c

/-- The cycle starts at step 0, the first pass begins, every mark is set (11 R167 step 7). -/
def beginRunning (c : Chip) : Chip :=
  { c with
    lines := mapEach (v := c.lines) fun l => { l with mark := true }
    ctb := { c.ctb with step := 0, periods := 0 }
    ord := c.ord.beginPass
    mpt := { c.mpt with last := 95 }
    shc := { c.shc with run := .running, start := .none } }

/-- Lines in TALK. -/
def Chip.talking (c : Chip) : Nat := (allLines.filter fun x => (c.line x).st == .talk).length

/-- The SEIZE record of a line in SEIZE_WAIT, its seizure counted from this moment (01 R16, 03 R34). -/
def seizeAtRun (x : LineNo) (c : Chip) : Chip :=
  if (c.line x).st = .seizeWait then (emit (some x) .seize c).modLine x fun l => { l with seizure := 0 } else c

/-- A slot request held in STARTING is made, with its own purpose and the class of the core fields (04 R73, 01 R3). -/
def askAtRun (x : LineNo) (c : Chip) : Chip :=
  let l := c.line x
  if l.asking then requestSlot x l.st.purpose l.cls (c.modLine x fun l => { l with asking := false }) else c

/-- SHELF_RUNNING (11 R167 step 7, R170 step 7, 01 R16, 04 R73). -/
def shelfRuns (c : Chip) : Chip :=
  let warm := c.shc.warm
  let c := beginRunning (allLines.foldl (fun c x => runLine x c) c)
  let c := emit none (.restartDone warm c.talking) c
  let c := allLines.foldl (fun c x => seizeAtRun x c) c
  allLines.foldl (fun c x => askAtRun x c) c

/-- SHELF_RUNNING: the last step of the start procedure. -/
def execShelfRunning (s : State) : Out :=
  let c := s.chip
  if c.shc.run = .starting ∧ c.shc.start = .readings ∧ c.readingsDone then finish s (shelfRuns c) else stay s

end Sys2Proof.Machine
end

