-- ==== Sys2Proof/Machine/Dispatch.lean ====
section
/-! DEFINITION. One meaning per command. -/

namespace Sys2Proof.Machine

def exec (i : Instr) (s : State) : Host.Outcome State Fault Refusal :=
  match i with
  | .powerOnReset => Sys2Proof.Machine.execPowerOnReset s
  | .resetInput => Sys2Proof.Machine.execResetInput s
  | .start a b => Sys2Proof.Machine.execStart a b s
  | .stop a b => Sys2Proof.Machine.execStop a b s
  | .coldRestart a b => Sys2Proof.Machine.execColdRestart a b s
  | .warmRestart a b => Sys2Proof.Machine.execWarmRestart a b s
  | .flush a b n => Sys2Proof.Machine.execFlush a b s n
  | .faultClear a b => Sys2Proof.Machine.execFaultClear a b s
  | .areaBaseWrite a => Sys2Proof.Machine.execAreaBaseWrite a s
  | .attentionWrite a => Sys2Proof.Machine.execAttentionWrite a s
  | .mainsFailAsserted => Sys2Proof.Machine.execMainsFailAsserted s
  | .mainsFailReleased => Sys2Proof.Machine.execMainsFailReleased s
  | .overloadAsserted a => Sys2Proof.Machine.execOverloadAsserted a s
  | .lineSample x loop trip => Sys2Proof.Machine.execLineSample x loop trip s
  | .hookTransition x loop trip => Sys2Proof.Machine.execHookTransition x loop trip s
  | .firstDebouncedState x loop trip => Sys2Proof.Machine.execFirstDebouncedState x loop trip s
  | .tripConfirm x loop trip => Sys2Proof.Machine.execTripConfirm x loop trip s
  | .clearExpiry x loop trip => Sys2Proof.Machine.execClearExpiry x loop trip s
  | .digitExpiry x loop trip => Sys2Proof.Machine.execDigitExpiry x loop trip s
  | .dialToneTimeout a => Sys2Proof.Machine.execDialToneTimeout a s
  | .diallingTimeout a => Sys2Proof.Machine.execDiallingTimeout a s
  | .guardExpiry a => Sys2Proof.Machine.execGuardExpiry a s
  | .parkTimerExpiry a => Sys2Proof.Machine.execParkTimerExpiry a s
  | .howlerTimerExpiry a => Sys2Proof.Machine.execHowlerTimerExpiry a s
  | .fetchComplete a => Sys2Proof.Machine.execFetchComplete a s
  | .coreFieldReadComplete => Sys2Proof.Machine.execCoreFieldReadComplete s
  | .stepBoundary => Sys2Proof.Machine.execStepBoundary s
  | .ringExpiry a => Sys2Proof.Machine.execRingExpiry a s
  | .waitExpiry a => Sys2Proof.Machine.execWaitExpiry a s
  | .notBeforeExpiry a => Sys2Proof.Machine.execNotBeforeExpiry a s
  | .genStartDone => Sys2Proof.Machine.execGenStartDone s
  | .idleStop => Sys2Proof.Machine.execIdleStop s
  | .holdEnd => Sys2Proof.Machine.execHoldEnd s
  | .ring a b d e f => Sys2Proof.Machine.execRing a b d e f s
  | .stopRing a => Sys2Proof.Machine.execStopRing a s
  | .digitSeen a => Sys2Proof.Machine.execDigitSeen a s
  | .enddial a => Sys2Proof.Machine.execEnddial a s
  | .connect a => Sys2Proof.Machine.execConnect a s
  | .tone a b => Sys2Proof.Machine.execTone a b s
  | .clear a => Sys2Proof.Machine.execClear a s
  | .block a => Sys2Proof.Machine.execBlock a s
  | .unblock a => Sys2Proof.Machine.execUnblock a s
  | .lockSlot a => Sys2Proof.Machine.execLockSlot a s
  | .unlockSlot a => Sys2Proof.Machine.execUnlockSlot a s
  | .freeLocks => Sys2Proof.Machine.execFreeLocks s
  | .invalidate a => Sys2Proof.Machine.execInvalidate a s
  | .invalidateAll => Sys2Proof.Machine.execInvalidateAll s
  | .reloadPlan a => Sys2Proof.Machine.execReloadPlan a s
  | .reloadPlanReadComplete n => Sys2Proof.Machine.execReloadPlanReadComplete s n
  | .setCapacity a b => Sys2Proof.Machine.execSetCapacity a b s
  | .powerMode a => Sys2Proof.Machine.execPowerMode a s
  | .genReset => Sys2Proof.Machine.execGenReset s
  | .orderPass => Sys2Proof.Machine.execOrderPass s
  | .orderCellVisit n => Sys2Proof.Machine.execOrderCellVisit s n
  | .orderTaken n => Sys2Proof.Machine.execOrderTaken s n
  | .orderDone n => Sys2Proof.Machine.execOrderDone s n
  | .journalWrite n => Sys2Proof.Machine.execJournalWrite s n
  | .pageCloseTimerExpiry n => Sys2Proof.Machine.execPageCloseTimerExpiry s n
  | .pageOpen n => Sys2Proof.Machine.execPageOpen s n
  | .pageStallRetry n => Sys2Proof.Machine.execPageStallRetry s n
  | .mirrorWrite => Sys2Proof.Machine.execMirrorWrite s
  | .memoryTimeout a => Sys2Proof.Machine.execMemoryTimeout a s
  | .headerReadComplete n => Sys2Proof.Machine.execHeaderReadComplete s n
  | .timingSetReadComplete n => Sys2Proof.Machine.execTimingSetReadComplete s n
  | .planReadComplete n => Sys2Proof.Machine.execPlanReadComplete s n
  | .shelfRunning => Sys2Proof.Machine.execShelfRunning s
  | .controlRegisterWrite a n => Sys2Proof.Machine.execControlRegisterWrite a s n
  | .fetchWordRead a => Sys2Proof.Machine.execFetchWordRead a s

end Sys2Proof.Machine
end

