-- ==== Sys2Proof/Machine/Step.lean ====
section
/-! DEFINITION. The step: the command at the front of the queue, or one scan period where none waits (log 4). -/

namespace Sys2Proof.Machine

/-- One step. On an empty queue a scan period of 2 ms passes. -/
def step (s : State) : Host.Outcome State Fault Refusal :=
  match s.pending with
  | [] => finish s (tickChip s.chip)
  | i :: rest => exec i { s with pending := rest }

/-- The state with the command that a table word spells put at the front of the queue (log 29). -/
def State.withFetchWord (s : State) (nbits w : Nat) : State :=
  match Sys2Proof.decodeTableWord nbits w with
  | some i => { s with pending := i :: s.pending }
  | none => s

end Sys2Proof.Machine
end

