-- ==== Sys2Proof/Safety.lean ====
section
/-! DEFINITION. The terms in which statements are made: what a command leaves unchanged, what the operations of a call leave
alone, the order that a command stands for, and the laws of the device that every step keeps. -/

namespace Sys2Proof.Machine

/-! ## Frames -/

/-- The parts of the machine that a frame names. -/
inductive Part where
  | lines | sets | slots | timebase | scheduler | generator | orders | journal | port | shelf | ram | queue
  deriving DecidableEq, Repr

/-- A part is unchanged. The idle stop timer and the access in progress follow every command by rules of their own (08 R130,
10 R160), so they are no part of the frame of a command; RAM is compared byte by byte. -/
def Part.Kept (s t : State) : Part → Prop
  | .lines => ∀ x, t.chip.line x = s.chip.line x
  | .sets => t.chip.sets = s.chip.sets
  | .slots => t.chip.sst = s.chip.sst
  | .timebase => t.chip.ctb = s.chip.ctb
  | .scheduler => t.chip.rsc = s.chip.rsc
  | .generator => { t.chip.gen with idleTimer := none } = { s.chip.gen with idleTimer := none }
  | .orders => t.chip.ord = s.chip.ord
  | .journal => t.chip.jwr = s.chip.jwr
  | .port => { t.chip.mpt with busy := none } = { s.chip.mpt with busy := none }
  | .shelf => t.chip.shc = s.chip.shc
  | .ram => ∀ a, byteAt t.ram a = byteAt s.ram a
  | .queue => t.pending = s.pending

/-- Nothing outside the named parts has changed. -/
def OnlyChanges (ps : List Part) (s t : State) : Prop := ∀ p, p ∉ ps → p.Kept s t

/-- Every line but x is unchanged. -/
def OthersKept (x : LineNo) (s t : State) : Prop := ∀ y, y ≠ x → t.chip.line y = s.chip.line y

/-- Every slot but i is unchanged. -/
def OtherSlotsKept (i : SlotNo) (s t : State) : Prop := ∀ j, j ≠ i → t.chip.slot j = s.chip.slot j

/-- Every byte of the RAM outside the `n` words from `a` on reads as before. -/
def RamKeptOutside (a n : Nat) (s t : State) : Prop := ∀ b, b < 2 * a ∨ 2 * (a + n) ≤ b → byteAt t.ram b = byteAt s.ram b

/-- The line as it stands but for its mirror-pending mark. -/
def Line.unmarked (l : Line) : Line := { l with mark := false }

/-! ## What the operations of a call leave alone -/

/-- Shelf Control after flags were set and faults offered: nothing else has changed, no flag was cleared, a MAJOR fault stays
(11 R164, R165). -/
structure Shc.Raised (a b : Shc) : Prop where
  run : b.run = a.run
  start : b.start = a.start
  warm : b.warm = a.warm
  mask : b.mask = a.mask
  sel : b.sel = a.sel
  areaBase : b.areaBase = a.areaBase
  ms : b.ms = a.ms
  mains : b.mains = a.mains
  hdr : b.hdr = a.hdr
  attention : a.attention ||| b.attention = b.attention
  major : ∀ f, a.fault = some f → f.kind.major = true → b.fault = some f
  held : a.fault.isSome = true → b.fault.isSome = true

/-- A locked slot holds no record but its owner's (04 R55). -/
def Slot.Own (s : Slot) : Prop := ∀ y, s.lock = some y → s.recLine = none ∨ s.recLine = some y

/-- What an operation of the lines, the slots, the ringing or the journal leaves alone: the timing sets, the Cadence Timebase,
the Order Reader, the pass of the mirror, the core-field reads, the journal's page, every lock, the LRU stack as an ordering of
the sixteen slots, and Shelf Control but for flags and faults raised. -/
structure Quiet (c d : Chip) : Prop where
  shc : c.shc.Raised d.shc
  sets : d.sets = c.sets
  ctb : d.ctb = c.ctb
  ord : d.ord = c.ord
  last : d.mpt.last = c.mpt.last
  coreReads : d.mpt.coreReads = c.mpt.coreReads
  index : d.jwr.index = c.jwr.index
  seq : d.jwr.seq = c.jwr.seq
  opened : d.jwr.opened = c.jwr.opened
  page : d.jwr.page = c.jwr.page
  used : d.jwr.used = c.jwr.used
  written : d.jwr.written = c.jwr.written
  closing : d.jwr.closing = c.jwr.closing
  lru : c.sst.lru.Perm allSlots → d.sst.lru.Perm allSlots
  locks : ∀ i, (d.slot i).lock = (c.slot i).lock
  own : ∀ i, (c.slot i).Own → (d.slot i).Own

/-- A command that touched only lines, slots, ringing and journal, and no byte of the RAM. -/
def CallOnly (s t : State) : Prop := Quiet s.chip t.chip ∧ (∀ a, byteAt t.ram a = byteAt s.ram a) ∧ t.pending = s.pending

/-! ## Orders -/

/-- The order that an order command stands for, with the argument words as its cell holds them. -/
def orderOf : Instr → Option OrderCopy
  | .ring line party plan cycles priority => some ⟨1, line, party, plan, cycles, priority⟩
  | .stopRing line => some ⟨2, line, 0, 0, 0, 0⟩
  | .digitSeen line => some ⟨3, line, 0, 0, 0, 0⟩
  | .enddial line => some ⟨4, line, 0, 0, 0, 0⟩
  | .connect line => some ⟨5, line, 0, 0, 0, 0⟩
  | .tone line bus => some ⟨6, line, bus, 0, 0, 0⟩
  | .clear line => some ⟨7, line, 0, 0, 0, 0⟩
  | .block line => some ⟨8, line, 0, 0, 0, 0⟩
  | .unblock line => some ⟨9, line, 0, 0, 0, 0⟩
  | .lockSlot line => some ⟨10, line, 0, 0, 0, 0⟩
  | .unlockSlot line => some ⟨11, line, 0, 0, 0, 0⟩
  | .freeLocks => some ⟨12, 0, 0, 0, 0, 0⟩
  | .invalidate line => some ⟨13, line, 0, 0, 0, 0⟩
  | .invalidateAll => some ⟨13, 255, 0, 0, 0, 0⟩
  | .reloadPlan plan => some ⟨14, plan, 0, 0, 0, 0⟩
  | .setCapacity capacity reserve => some ⟨15, capacity, reserve, 0, 0, 0⟩
  | .powerMode mode => some ⟨16, mode, 0, 0, 0, 0⟩
  | .genReset => some ⟨17, 0, 0, 0, 0, 0⟩
  | _ => none

/-- The ranges of the argument words that an order kind uses, in their order (10 Table 10-11). -/
def argTests : Nat → List (Nat → Bool)
  | 1 => [(· ≤ 95), fun n => 1 ≤ n && n ≤ 4, (· ≤ 8), (· ≤ 255), (· ≤ 1)]
  | 2 | 3 | 4 | 5 | 7 | 8 | 9 | 10 | 11 => [(· ≤ 95)]
  | 6 => [(· ≤ 95), fun n => n == 0 || n == 3]
  | 13 => [fun n => n ≤ 95 || n == 255]
  | 14 => [(· ≤ 7)]
  | 15 => [fun n => 1 ≤ n && n ≤ 255, (· ≤ 255)]
  | 16 => [(· ≤ 1)]
  | _ => []

/-- Every argument word that the kind uses lies in its range; the others are not looked at. -/
def OrderCopy.ArgsOk (o : OrderCopy) : Prop :=
  ∀ p ∈ (argTests o.kind.toNat).zip [o.a1, o.a2, o.a3, o.a4, o.a5], p.1 p.2.toNat = true

/-- The line number that an order names: the kinds 1 to 11, and INVALIDATE unless its argument is the all-lines value. -/
def OrderCopy.names (o : OrderCopy) (n : Nat) : Prop :=
  o.a1.toNat = n ∧ (1 ≤ o.kind.toNat ∧ o.kind.toNat ≤ 11 ∨ o.kind.toNat = 13 ∧ o.a1.toNat ≠ 255)

/-- The order kinds that are taken for an UNEQUIPPED line: LOCK_SLOT, UNLOCK_SLOT, INVALIDATE (10 R151 test 4). -/
def OrderCopy.exempt (o : OrderCopy) : Prop := o.kind.toNat = 10 ∨ o.kind.toNat = 11 ∨ o.kind.toNat = 13

/-- The Order Reader has answered the order `o` with the code `r`; its timer, pass and cell stand as they were. -/
def Answered (o : OrderCopy) (r : Result) (s t : State) : Prop :=
  t.chip.ord = { s.chip.ord with read := [], copy := some o, work := none, result := some r }

/-- A command that took the order `o` and touched otherwise only lines, slots, ringing and journal, and no byte of the RAM. -/
def OrderOnly (s t : State) : Prop := CallOnly { s with chip := { s.chip with ord := t.chip.ord } } t

/-- The command i goes on with the answer `r` to the order `o` and changes nothing else: refused, or found nothing to do. -/
def AnswersOnly (i : Instr) (o : OrderCopy) (r : Result) (s : State) : Prop :=
  ∃ t, exec i s = .next t ∧ Answered o r s t ∧ OnlyChanges [.orders] s t

/-- A line that an order may name: below the equipped count and supervised (10 R151). -/
def Supervised (x : LineNo) (s : State) : Prop :=
  x.val < s.chip.shc.hdr.equipped ∧ (s.chip.line x).st ≠ .unequipped

/-- The Order Reader can take an order (10 R149, R150). -/
def Ready (s : State) : Prop :=
  s.chip.shc.run = .running ∧ s.chip.ord.work = none ∧
    (s.chip.ord.cell = none ∨ s.chip.ord.stage = .taken ∧ s.chip.ord.result = none)

/-- The Order Reader may read a word of the cell k in hand: it is served, the cell reads TAKEN, and its order is not yet taken
(10 R150 step 2). -/
def ReadsCell (k : CellNo) (s : State) : Prop :=
  s.chip.serves .order = true ∧ s.chip.ord.cell = some k ∧ s.chip.ord.stage = .taken ∧ s.chip.ord.copy = none ∧
    s.chip.ord.result = none ∧ s.chip.ord.work = none ∧ s.chip.cellAddr k + 8 ≤ Config.ramWords

/-- In state s the command i takes the order o: an order command, or the reading of the last of the six words of the cell in hand
(10 R150 step 2). -/
def Takes (i : Instr) (o : OrderCopy) (s : State) : Prop :=
  orderOf i = some o ∧ Ready s ∨
    (∃ more, i = .orderTaken more) ∧ s.chip.ord.read.length = 5 ∧
      ∃ k, ReadsCell k s ∧ o = orderOfWords (s.chip.ord.read ++ [readWord s.ram (s.chip.cellAddr k + 7)])

/-- The journal queues a record of line x: the Journal Writer takes records, the line has no held summary and the write queue has
room (10 R154). -/
def Queues (x : LineNo) (s : State) : Prop :=
  s.chip.shc.run = .running ∧ s.chip.jwr.stall = .none ∧ s.chip.jwr.summaries[x] = none ∧ s.chip.jwr.full = false

/-- No request that the arbiter would take before an order-cell access waits (10 R160). -/
def Undisturbed (s : State) : Prop := s.chip.journalWants = false ∧ s.chip.readWants = none

/-- The journal queues a record of the shelf: the Journal Writer takes records and the write queue has room (10 R154). -/
def QueuesShelf (s : State) : Prop := s.chip.shc.run = .running ∧ s.chip.jwr.stall = .none ∧ s.chip.jwr.full = false

/-- A held summary after an event was folded into it: the event's kind joined, the count raised by one up to 255, DIGITS_LOST as it was
(10 R157, Table 10-12). -/
def summaryAfter (o : Option Summary) (r : Rec) : Option Summary :=
  let m := o.getD ⟨0, 0, false⟩
  some ⟨m.kinds ||| 1#16 <<< (if r.body.kind = 18 then 15 else r.body.kind - 1), min 255 (m.count + 1), m.lost⟩

/-- The DIGITS records of a terminal flush of the digits `ds` of line x with block size `b`, formed at `stamp` with the end flag `f`: blocks
of `b`, the last of them, which may be empty, with the flag, the first with OVERFLOW if it is pending (03 R44). -/
def flushed (x : LineNo) (stamp : Word) (b : Nat) (f : EndFlag) (overflow : Bool) (ds : List Digit) : List Rec :=
  let n := max 1 ((ds.length + b - 1) / b)
  (List.range n).map fun i =>
    ⟨some x, stamp, .digits ((ds.drop (b * i)).take b) (if i + 1 = n then some f else none) (overflow && i == 0)⟩

/-- The journal has resumed from its stall in `c`, whose queue holds the records kept (10 R158): the stall is over, and the queue is
JOURNAL_RESUMED with the number of summaries held, a HELD_SUMMARY for each of their lines in ascending number, the shelf's last, the
records kept, and the digit blocks now formed, which alone may begin another stall of the queue; none is formed, and no slot changed,
where no buffer has a block or a mark. -/
def Resumed (c d : Chip) : Prop :=
  let lines := (allLines.filter fun x => (c.jwr.summaries[x]).isSome).map fun x =>
    (⟨some x, c.stamp, .heldSummary (c.line x).st.code⟩ : Rec)
  let shelf := if c.jwr.shelf.isSome then [(⟨none, c.stamp, .heldSummary c.gen.state.code⟩ : Rec)] else []
  d.jwr.stall ≠ .page ∧ d.jwr.summaries = c.jwr.summaries ∧ d.jwr.shelf = c.jwr.shelf ∧
    ∃ blocks, d.jwr.queue =
        ⟨none, c.stamp, .journalResumed (lines.length + shelf.length)⟩ :: (lines ++ shelf ++ c.jwr.queue ++ blocks) ∧
      (∀ r ∈ blocks, r.body.kind = 3) ∧
      ((∀ (x : LineNo) (k : SlotNo), (c.line x).slot = some k →
          let size := field (c.slot k).copy[1] 0 4
          (c.slot k).ctx.mark = none ∧ (size = 0 ∨ (c.slot k).ctx.buffer.length < size)) →
        blocks = [] ∧ d.jwr.stall = .none ∧ d.sst = c.sst ∧ d.shc = c.shc)

/-! ## Slots and allocations -/

/-- A slot that a grant to line x finds without a copy of its record: not BOUND, and not WARM with that record (04 R58, R59). -/
def Slot.Misses (k : Slot) (x : LineNo) : Prop := k.status ≠ .bound ∧ ¬(k.status = .warm ∧ k.recLine = some x)

/-- A slot from which a grant takes a record copy at once and finds it not valid: WARM with the record of line x (04 R59, 01 R2). -/
def Chip.Spoilt (c : Chip) (k : SlotNo) (x : LineNo) : Prop :=
  (c.slot k).status = .warm ∧ (c.slot k).recLine = some x ∧ recordValid c.planPresent (c.slot k).copy = false

/-- Slot k, found with a record that is not valid, is EMPTY at the LRU end, its lock as it was, and no other slot has changed; the fault
of line x is offered (03 R36, 04 R63). -/
def Discarded (k : SlotNo) (x : LineNo) (s t : State) : Prop :=
  t.chip.slot k =
      { s.chip.slot k with
        status := .empty
        phase := .valid
        holder := none
        recLine := none
        refetch := false
        failed := false
        words := 0
        ctx := Ctx.fresh } ∧
    OtherSlotsKept k s t ∧ t.chip.sst.lru = k :: s.chip.sst.lru.filter (· ≠ k) ∧
    t.chip.sst.waitList = s.chip.sst.waitList ∧
    (t.chip.shc.fault, t.chip.shc.further) =
      offered s.chip.shc.fault s.chip.shc.further ⟨.recordInvalid, some x, 0, s.chip.stamp⟩ ∧
    t.chip.shc.attention &&& attnFault = attnFault

/-- The Slot Store is in its reset state: every slot EMPTY and unlocked with no holder, no record and a fresh context, the LRU stack 0 to
15, nobody waiting, no fetch waiting or in progress, no line with a slot, and no slot in the counts of Status (04 R72). -/
def SlotsAtReset (s : State) : Prop :=
  (∀ i : SlotNo, (s.chip.slot i).status = .empty ∧ (s.chip.slot i).holder = none ∧ (s.chip.slot i).recLine = none ∧
    (s.chip.slot i).lock = none ∧ (s.chip.slot i).refetch = false ∧ (s.chip.slot i).failed = false ∧
    (s.chip.slot i).ctx = Ctx.fresh) ∧
  s.chip.sst.lru = List.finRange 16 ∧ s.chip.sst.waitList = [] ∧
  (∀ i : SlotNo, Access.fetch i ∉ s.chip.mpt.reqs ∧ s.chip.mpt.busy ≠ some (.fetch i)) ∧
  (∀ x : LineNo, (s.chip.line x).slot = none) ∧
  { s.chip with shc := { s.chip.shc with sel := true } }.readStatus = 0

/-- Every allocated line is listed once and holds a slot of its own with its allocation (06 R89). -/
def AllocLaw (c : Chip) : Prop :=
  c.rsc.allocs.Nodup ∧ (∀ x ∈ c.rsc.allocs, (c.alloc x).isSome = true) ∧
    ∀ x y : LineNo, (c.line x).slot = (c.line y).slot → (c.line x).slot ≠ none → x = y

/-- The entry with which an allocated line waits again after a shed or a trip (06 R103, R107). -/
def Chip.waitsAgain (c : Chip) (x : LineNo) : RingWait :=
  { line := x
    party := ((c.alloc x).map (·.party)).getD 0
    plan := (c.alloc x).map (·.plan)
    cycles := ((c.alloc x).map (·.cyclesLeft)).getD 0
    cls := ((c.alloc x).map (·.cls)).getD .ordinary
    age := ((c.alloc x).map (·.age)).getD 0
    notBefore := none
    needsSlot := false
    fetching := false
    wait := 0 }

/-- The Phase Load Table that holds exactly the loads of the allocations (06 R88). -/
def Chip.loads (c : Chip) : List Nat :=
  c.rsc.allocs.foldl
    (fun plt x =>
      match c.alloc x with
      | some a => pltAdd c.shc.hdr.n plt ((c.ctb.active[a.plan]).getD []) a.phase a.load
      | none => plt)
    (List.replicate c.shc.hdr.n 0)

/-! ## Samples -/

/-- Line x stands one sample before a hook transition: sampled with the relay open and no blank, the reading `loop` disagrees with
its hook state, the run is one short of the debounce count, and no threshold falls due at this sample. -/
def State.AboutToTurn (s : State) (x : LineNo) (loop : Bool) : Prop :=
  let l := s.chip.line x
  l.sampling = .on ∧ l.relay = false ∧ l.blank = 0 ∧ loop = (l.hook == .on) ∧
    (s.chip.timing x).debounce ≤ l.run + 1 ∧
    Line.thresholdDue { l with interval := min 65535 (l.interval + 1) } = false

/-- A break of d samples lies in the pulse window of a timing set (02 R28, R29). -/
def TimingSet.InPulse (T : TimingSet) (d : Nat) : Prop := (T.pulseMin + 1) / 2 ≤ d ∧ d ≤ (T.pulseMax + 1) / 2

/-- A break of d samples lies in the flash window of a timing set, and in no lower one (02 R28, R29). -/
def TimingSet.InFlash (T : TimingSet) (d : Nat) : Prop :=
  (T.pulseMin + 1) / 2 ≤ d ∧ (T.pulseMax + 1) / 2 < d ∧ (T.flashMin + 1) / 2 ≤ d ∧ d ≤ (T.flashMax + 1) / 2

/-- A seizure of line x: an off-hook recognised in IDLE, or a guard that expires on a supervised line that is off-hook. -/
def State.Seizes (s : State) (i : Instr) (x : LineNo) : Prop :=
  (∃ trip, i = .hookTransition x true trip ∧ s.AboutToTurn x true ∧ (s.chip.line x).st = .idle) ∨
    i = .guardExpiry x ∧ (s.chip.line x).st = .releaseGuard ∧ timerDue (s.chip.line x).guard = true ∧
      (s.chip.line x).equipped = true ∧ (s.chip.line x).hook = .off

/-! ## A warm restart -/

/-- A line as WARM_RESTART leaves it at once (01 Table 1-4): `l` is the line before, `T` its timing set. -/
def WarmRow (T : TimingSet) (l m : Line) : Prop :=
  m.slot = none ∧ m.relay = false ∧ m.selector = none ∧ m.hook = l.hook ∧ m.interval = l.interval ∧
  (m.st ≠ .unequipped → m.sampling = l.sampling) ∧
  (l.st ∈ [LineSt.talk, .parked, .blocked, .releaseGuard, .idle, .unequipped] →
    m.st = l.st ∧ m.sampling = l.sampling ∧ m.answered = l.answered ∧ m.tone = l.tone ∧ m.threshold = l.threshold ∧ m.guard = l.guard ∧
      m.park = l.park ∧ m.howler = l.howler) ∧
  (l.st ∈ [LineSt.ringWait, .ringing] →
    (T.postRing ≠ 0 → m.st = .releaseGuard ∧ m.guard = some ⟨0, T.postRing⟩) ∧
    (T.postRing = 0 → m.st = if l.equipped then .idle else .unequipped)) ∧
  (l.st ∈ [LineSt.seizeWait, .dialTone, .dialling, .routing, .recall] → m.tone = .none ∧ m.answered = false ∧
    (l.hook = .on → T.releaseGuard ≠ 0 → m.st = .releaseGuard ∧ m.guard = some ⟨0, T.releaseGuard⟩) ∧
    (l.hook = .off → m.st = .seizeWait ∧ m.asking = true ∧ m.dialTone = none ∧ m.dialling = none ∧ m.guard = none ∧
      m.park = none ∧ m.howler = none))

/-! ## Laws of the device -/

/-- The Slot Store's laws: the LRU stack orders the sixteen slots (04 R57), at most twelve slots are locked, and a locked slot
holds no record but its owner's (04 R55). -/
def SlotLaws (s : State) : Prop :=
  s.chip.sst.lru.Perm allSlots ∧ s.chip.lockedCount ≤ Config.lockLimit ∧ ∀ i, (s.chip.slot i).Own

/-- The millisecond counter goes by twos (11 R171). -/
def EvenClock (s : State) : Prop := s.chip.shc.ms.toNat % 2 = 0

/-- The idle stop timer runs only while the generator is idle (08 R130). -/
def IdleTimerLaw (s : State) : Prop := s.chip.genIdle = false → s.chip.gen.idleTimer = none

/-- The FAULT flag stands while the fault record holds a fault (11 R164, R172). -/
def FaultFlagLaw (s : State) : Prop := s.chip.shc.fault.isSome = true → s.chip.shc.attention &&& attnFault = attnFault

/-- The areas of the header in use lie wholly in the RAM (11 R167). -/
def AreasFit (c : Chip) : Prop := ∀ a ∈ headerAreas c.base c.shc.hdr, a.1 + a.2 ≤ Config.ramWords

/-- A request of class 2 other than a read of the start procedure (10 R160). -/
def accessRequested : Access → Bool
  | .fetch _ | .core | .reload => true
  | .journal | .start | .order | .mirror => false

/-- Where the Memory Port may go: once a header has been taken its areas lie in the RAM and the page index is below the page
count, a start procedure begins at page 0, and the access in progress is one that is wanted. -/
structure Placed (c : Chip) : Prop where
  areas : c.shc.run = .running ∨ (c.shc.run = .starting ∧ c.shc.start ≠ .header) →
    AreasFit c ∧ c.jwr.index < c.shc.hdr.pages
  first : c.shc.run = .starting → c.shc.start = .header → c.jwr.index = 0
  reqs : ∀ a ∈ c.mpt.reqs, accessRequested a = true
  busy : ∀ a, c.mpt.busy = some a → c.wants a = true

end Sys2Proof.Machine
end

