-- ==== Sys2Proof/Certificates/Slice0/Obligations.lean ====
section
/-! DEFINITION. The statements about the machine, from the numbered rules of spec/. OBLIGATIONS.json lists them with the rules they
formalise or rest on. -/

open Sys2Proof Sys2Proof.Machine

/-! ## The machine -/

/-- A step takes the command at the front of the queue and is that command on the state with the queue's rest. -/
def Obligations.StepRunsFrontCommand : Prop :=
  ∀ (i : Instr) (rest : List Instr) (s : State), s.pending = i :: rest → step s = exec i { s with pending := rest }

/-- With no command waiting a step is one scan period of 2 ms: the model's choice (log 4). Every running timer gains 2 ms and stands at
its duration: the line timers, the generator's start timer and trip-hold timer, its idle stop timer while it is idle, the pass timer
and the page close timer. The seizure elapsed count rises by 2 in SEIZE_WAIT and stands in every other state, as the model deduces
(log 13). The entries of the Ring Wait Queue have 2 ms less of their not-before and 2 ms more of their wait, compared with 120 s at
most (log 26). The trip history ages by 2 ms an entry until it has passed 300 s, in every run state by the model's choice (log 36). In
RUNNING and ISOLATED the scan periods of the cycle step are counted up to the 50 of a boundary, and in a page stall the time since the
header was read, up to the 10 ms of a retry. The millisecond counter advances by 2 in RUNNING, ISOLATED and from step 5 of a start
procedure on, and stands else. -/
def Obligations.IdleStepIsOneScanPeriod : Prop :=
  ∀ s : State, s.pending = [] →
    let ticked := fun o : Option Timer => o.map fun m => (⟨min m.duration (m.elapsed + 2), m.duration⟩ : Timer)
    let runs := s.chip.shc.run = .running ∨ s.chip.shc.run = .isolated
    ∃ t, step s = .next t ∧
      OnlyChanges [.lines, .generator, .scheduler, .timebase, .orders, .journal, .shelf] s t ∧
      (∀ x : LineNo, t.chip.line x =
        { s.chip.line x with
          dialTone := ticked (s.chip.line x).dialTone
          dialling := ticked (s.chip.line x).dialling
          guard := ticked (s.chip.line x).guard
          park := ticked (s.chip.line x).park
          howler := ticked (s.chip.line x).howler
          seizure :=
            if (s.chip.line x).st = .seizeWait then min 65535 ((s.chip.line x).seizure + 2) else (s.chip.line x).seizure }) ∧
      { t.chip.gen with idleTimer := none } =
        { s.chip.gen with
          idleTimer := none
          startTimer := ticked s.chip.gen.startTimer
          holdTimer := ticked s.chip.gen.holdTimer
          history := s.chip.gen.history.map fun e => if e ≤ 300000 then e + 2 else e } ∧
      (s.chip.genIdle = true → t.chip.gen.idleTimer = ticked s.chip.gen.idleTimer) ∧
      t.chip.rsc =
        { s.chip.rsc with
          queue := s.chip.rsc.queue.map fun e =>
            { e with notBefore := e.notBefore.map (· - 2), wait := min 120000 (e.wait + 2) } } ∧
      t.chip.ctb = { s.chip.ctb with periods := if runs then min 50 (s.chip.ctb.periods + 1) else s.chip.ctb.periods } ∧
      t.chip.ord = { s.chip.ord with timer := ticked s.chip.ord.timer } ∧
      t.chip.jwr =
        { s.chip.jwr with
          closeTimer := ticked s.chip.jwr.closeTimer
          retry := if s.chip.jwr.stall = .page then min 10 (s.chip.jwr.retry + 2) else s.chip.jwr.retry } ∧
      t.chip.shc =
        { s.chip.shc with
          ms := if runs ∨ s.chip.shc.run = .starting ∧ s.chip.shc.start = .readings then s.chip.shc.ms + 2
            else s.chip.shc.ms }

/-- After power-on reset the shelf is HALTED, the registers read 0 and the interrupt output is released; every line is UNEQUIPPED
with the core fields of R15 and the scanner items of R25; every slot is EMPTY and unlocked and the LRU stack is 0, 1, … 15; no plan
has a copy, nothing rings or waits, the generator is OFF. The laws that every step keeps hold there. (That an unlisted byte of the RAM
reads 0 is the model's choice, log 5.) -/
def Obligations.ResetHoldsTheSpecsValues : Prop :=
  State.reset.chip.shc.run = .halted ∧ State.reset.chip.readControl = 0 ∧ State.reset.chip.readStatus = 0 ∧
  State.reset.chip.readAttention = 0 ∧ State.reset.chip.readAreaBase = 0 ∧ State.reset.chip.readFaultA = 0 ∧
  State.reset.chip.readFaultB = 0 ∧ State.reset.chip.shc.fault = none ∧ State.reset.chip.shc.further = 0 ∧
  State.reset.chip.shc.ms = 0 ∧ State.reset.chip.interrupt = false ∧ State.reset.chip.genEnable = false ∧
  (∀ x : LineNo, (State.reset.chip.line x).st = .unequipped ∧ (State.reset.chip.line x).equipped = false ∧
    (State.reset.chip.line x).cls = .ordinary ∧ (State.reset.chip.line x).sig = .pulse ∧
    (State.reset.chip.line x).tset = 0 ∧ (State.reset.chip.line x).slot = none ∧
    (State.reset.chip.line x).dialTone = none ∧ (State.reset.chip.line x).dialling = none ∧
    (State.reset.chip.line x).guard = none ∧ (State.reset.chip.line x).park = none ∧
    (State.reset.chip.line x).howler = none ∧ (State.reset.chip.line x).sampling = .off ∧
    (State.reset.chip.line x).hook = .on ∧ (State.reset.chip.line x).interval = 0 ∧
    (State.reset.chip.line x).threshold = .none ∧ (State.reset.chip.line x).tone = .none ∧
    (State.reset.chip.line x).relay = false ∧ (State.reset.chip.line x).selector = none ∧
    (State.reset.chip.line x).mark = false) ∧
  (∀ i : SlotNo, (State.reset.chip.slot i).status = .empty ∧ (State.reset.chip.slot i).holder = none ∧
    (State.reset.chip.slot i).recLine = none ∧ (State.reset.chip.slot i).lock = none ∧
    (State.reset.chip.slot i).ctx = Ctx.fresh) ∧
  State.reset.chip.sst.lru = List.finRange 16 ∧ State.reset.chip.sst.waitList = [] ∧
  (∀ p : PlanNo, State.reset.chip.planSt p = .absent) ∧ State.reset.chip.ctb.step = 0 ∧
  State.reset.chip.rsc.queue = [] ∧ State.reset.chip.rsc.allocs = [] ∧ State.reset.chip.rsc.plt = [] ∧
  State.reset.chip.rsc.mode = .normal ∧ State.reset.chip.rsc.stagedMode = .normal ∧
  State.reset.chip.gen.state = .off ∧ State.reset.chip.gen.history = [] ∧
  State.reset.chip.jwr.queue = [] ∧ State.reset.chip.jwr.page = .none ∧ State.reset.chip.ord.cell = none ∧
  (∀ a, byteAt State.reset.ram a = 0) ∧ State.reset.pending = [] ∧
  Memory.wf State.reset.ram ∧ SlotLaws State.reset ∧ Placed State.reset.chip ∧ EvenClock State.reset ∧
    IdleTimerLaw State.reset ∧ FaultFlagLaw State.reset

/-- Both resets put every block in its reset state, with every register 0 and the interrupt output released; the RESET input keeps
the fault record and the count, and FAULT stands if a fault is held. The input pins keep their levels (log 10). -/
def Obligations.ResetsReturnTheShelf : Prop :=
  ∀ s : State,
    (∃ t, exec .powerOnReset s = .next t ∧
      t.chip =
        { Chip.reset with
          gen := { Gen.reset with overload := s.chip.gen.overload }
          shc := { Shc.reset with mains := s.chip.shc.mains } } ∧
      t.chip.interrupt = false ∧ (∀ a, byteAt t.ram a = byteAt s.ram a) ∧ t.pending = s.pending) ∧
    (∃ t, exec .resetInput s = .next t ∧
      t.chip =
        { Chip.reset with
          gen := { Gen.reset with overload := s.chip.gen.overload }
          shc :=
            { Shc.reset with
              mains := s.chip.shc.mains
              fault := s.chip.shc.fault
              further := s.chip.shc.further
              attention := if s.chip.shc.fault.isSome then attnFault else 0 } } ∧
      t.chip.interrupt = false ∧ (∀ a, byteAt t.ram a = byteAt s.ram a) ∧ t.pending = s.pending)

/-! ## Shelf Control -/

/-- START and COLD_RESTART in HALTED begin the start procedure: STARTING, the header to be read, the journal emptied but for the page
close delay, which stays until the header is read, as the model deduces (log 22); STOP in HALTED
and the commands that Table 11-1 ignores store the select bit and the mask and change nothing else. -/
def Obligations.CommandsGoByRunState : Prop :=
  ∀ (s : State) (sel : Bool) (mask : BitVec 5),
    (s.chip.shc.run = .halted → ∀ i ∈ [Instr.start sel mask, .coldRestart sel mask],
      ∃ t, exec i s = .next t ∧
        t.chip.shc = { s.chip.shc with run := .starting, start := .header, warm := false, sel := sel, mask := mask } ∧
        t.chip.jwr = { Jwr.reset with closeDelay := s.chip.jwr.closeDelay } ∧
        t.chip.mpt.busy = some .start ∧ OnlyChanges [.journal, .shelf] s t) ∧
    ∀ i,
      i = .start sel mask ∧ s.chip.shc.run ≠ .halted ∨ i = .stop sel mask ∧ s.chip.shc.run = .halted ∨
        i = .coldRestart sel mask ∧ s.chip.shc.run = .failed ∨
        i = .warmRestart sel mask ∧ s.chip.shc.run ≠ .running ∧ s.chip.shc.run ≠ .isolated ∨
        (∃ more, i = .flush sel mask more) ∧ s.chip.shc.run ≠ .running →
      ∃ t, exec i s = .next t ∧ t.chip.shc = { s.chip.shc with sel := sel, mask := mask } ∧ OnlyChanges [.shelf] s t

/-- STOP, from every run state but HALTED, leaves the shelf HALTED with every block in its STOP state; the fault record, the count,
the flags, Area Base, the counter and the timing sets are kept. So are the levels of the overload and mains-fail inputs, the model's
choice (log 10), and the structural values of the header, as the model deduces (log 22). COLD_RESTART from STARTING, RUNNING or
ISOLATED is that STOP and the start procedure at once. -/
def Obligations.StopPutsEveryBlockAtRest : Prop :=
  ∀ (s : State) (sel : Bool) (mask : BitVec 5), s.chip.shc.run ≠ .halted →
    (∃ t, exec (.stop sel mask) s = .next t ∧
      (∀ x, t.chip.line x = { Line.reset with mark := (s.chip.line x).mark }) ∧
      t.chip.sst = Sst.reset ∧ t.chip.ctb = Ctb.reset ∧ t.chip.rsc = Rsc.reset ∧
      t.chip.gen = { Gen.reset with overload := s.chip.gen.overload } ∧ t.chip.genEnable = false ∧
      t.chip.ord = Ord.reset ∧ t.chip.jwr = Jwr.reset ∧ t.chip.mpt = Mpt.reset ∧
      t.chip.shc = { s.chip.shc with run := .halted, start := .none, warm := false, sel := sel, mask := mask } ∧
      t.chip.sets = s.chip.sets ∧ (∀ a, byteAt t.ram a = byteAt s.ram a) ∧ t.pending = s.pending) ∧
    (s.chip.shc.run ≠ .failed →
      ∃ t, exec (.coldRestart sel mask) s = .next t ∧
        (∀ x, t.chip.line x = { Line.reset with mark := (s.chip.line x).mark }) ∧
        t.chip.sst = Sst.reset ∧ t.chip.ctb = Ctb.reset ∧ t.chip.rsc = Rsc.reset ∧
        t.chip.gen = { Gen.reset with overload := s.chip.gen.overload } ∧ t.chip.ord = Ord.reset ∧
        t.chip.jwr = Jwr.reset ∧ t.chip.mpt = { Mpt.reset with busy := some .start } ∧
        t.chip.shc = { s.chip.shc with run := .starting, start := .header, warm := false, sel := sel, mask := mask } ∧
        t.chip.sets = s.chip.sets ∧ (∀ a, byteAt t.ram a = byteAt s.ram a) ∧ t.pending = s.pending)

/-- WARM_RESTART in RUNNING or ISOLATED: STARTING with the header to be read; every line by Table 1-4, those in RING_WAIT and
RINGING to the post-ring guard whatever their hook, as the model deduces (log 24); every slot emptied with its lock kept and the
stack in its order; both queues and the allocations emptied; the journal begun afresh; the order in hand abandoned. The generator,
the timing sets, the plans and the copied page close delay stand until they are read again (log 22). -/
def Obligations.WarmRestartKeepsCalls : Prop :=
  ∀ (s : State) (sel : Bool) (mask : BitVec 5), s.chip.shc.run = .running ∨ s.chip.shc.run = .isolated →
    ∃ t, exec (.warmRestart sel mask) s = .next t ∧
      t.chip.shc = { s.chip.shc with run := .starting, start := .header, warm := true, sel := sel, mask := mask } ∧
      (∀ x : LineNo, WarmRow (s.chip.timing x) (s.chip.line x) (t.chip.line x)) ∧
      (∀ i : SlotNo, (t.chip.slot i).status = .empty ∧ (t.chip.slot i).holder = none ∧ (t.chip.slot i).recLine = none ∧
        (t.chip.slot i).refetch = false ∧ (t.chip.slot i).failed = false ∧ (t.chip.slot i).ctx = Ctx.fresh ∧
        (t.chip.slot i).lock = (s.chip.slot i).lock) ∧
      t.chip.sst.lru = s.chip.sst.lru ∧ t.chip.sst.waitList = [] ∧
      t.chip.rsc.queue = [] ∧ t.chip.rsc.allocs = [] ∧ (∀ v ∈ t.chip.rsc.plt, v = 0) ∧
      t.chip.rsc.hold = s.chip.rsc.hold ∧ t.chip.ctb.step = 0 ∧
      t.chip.jwr = { Jwr.reset with closeDelay := s.chip.jwr.closeDelay } ∧
      t.chip.ord.cell = none ∧ t.chip.ord.inPass = false ∧ t.chip.ord.pos = 0 ∧ t.chip.ord.timer = none ∧
      t.chip.mpt.busy = some .start ∧ t.chip.ctb.active = s.chip.ctb.active ∧
      OnlyChanges [.lines, .slots, .timebase, .scheduler, .orders, .journal, .port, .shelf] s t

/-- The open page that holds a record is closed by FLUSH in RUNNING and at the expiry of the page close timer. With no access in
progress the close is the access that the arbiter takes at once, and the step makes as many of its two writes as `more` says (log 9):
the words used into the second header word, then CLOSED into the first, with which JOURNAL is set and the header of the next page is to
be read; no other byte of the RAM changes. A write not made in the step is left to JOURNAL_WRITE, and can fail. While an access is in
progress the close waits for it, behind the head record if that is being written, and HeadRecordIsWritten says how it is made. With no
open page that holds a record FLUSH and the timer's expiry do nothing. -/
def Obligations.FlushAndTimerCloseAHeldPage : Prop :=
  ∀ (s : State) (i : Instr) (sel : Bool) (mask : BitVec 5) (more : Nat), s.chip.jwr.closing = .no →
    (Memory.wf s.ram → s.chip.jwr.page = .opened → 0 < s.chip.jwr.used → s.chip.pageAddr + 64 ≤ Config.ramWords →
      i = .flush sel mask more ∧ s.chip.shc.run = .running ∨
        i = .pageCloseTimerExpiry more ∧ s.chip.journalOpen = true ∧ timerDue s.chip.jwr.closeTimer = true ∧
          sel = s.chip.shc.sel ∧ mask = s.chip.shc.mask →
      let asked : Shc := { s.chip.shc with sel := sel, mask := mask }
      (s.chip.mpt.busy = none → more = 0 →
        ∃ t, exec i s = .next t ∧ t.chip.shc = asked ∧ t.chip.jwr = { s.chip.jwr with closing := .asked } ∧
          t.chip.mpt.busy = some .journal ∧ OnlyChanges [.journal, .shelf] s t) ∧
      (s.chip.mpt.busy = none → more = 1 →
        ∃ t, exec i s = .next t ∧ readWord t.ram (s.chip.pageAddr + 1) = pageWord1 s.chip.jwr.used ∧
          RamKeptOutside (s.chip.pageAddr + 1) 1 s t ∧ t.chip.shc = asked ∧
          t.chip.jwr = { s.chip.jwr with closing := .begun } ∧ OnlyChanges [.journal, .shelf, .ram] s t) ∧
      (s.chip.mpt.busy = none → 2 ≤ more →
        ∃ t, exec i s = .next t ∧
          readWord t.ram s.chip.pageAddr = pageWord0 pageClosed s.chip.jwr.seq ∧
          readWord t.ram (s.chip.pageAddr + 1) = pageWord1 s.chip.jwr.used ∧ RamKeptOutside s.chip.pageAddr 2 s t ∧
          t.chip.shc = { asked with attention := s.chip.shc.attention ||| attnJournal } ∧
          t.chip.jwr =
            { s.chip.jwr with
              page := .opening
              closeTimer := none
              index := if s.chip.shc.hdr.pages ≤ s.chip.jwr.index + 1 then 0 else s.chip.jwr.index + 1 } ∧
          OnlyChanges [.journal, .shelf, .ram] s t) ∧
      (s.chip.mpt.busy ≠ none →
        ∃ t, exec i s = .next t ∧ t.chip.shc = asked ∧
          t.chip.jwr =
            { s.chip.jwr with
              closing :=
                match s.chip.jwr.queue with
                | r :: _ =>
                  if s.chip.mpt.busy = some .journal ∧ s.chip.jwr.used + r.body.length ≤ 62 then .after else .asked
                | [] => .asked } ∧
          OnlyChanges [.journal, .shelf] s t)) ∧
    (s.chip.jwr.page ≠ .opened ∨ s.chip.jwr.used = 0 →
      (∃ t, exec (.flush sel mask more) s = .next t ∧ t.chip.shc = { s.chip.shc with sel := sel, mask := mask } ∧
        OnlyChanges [.shelf] s t) ∧
      exec (.pageCloseTimerExpiry more) s = .next s)

/-- A fault offered is captured by an empty record; a MAJOR fault replaces a MINOR one and leaves the count; any other is counted, up
to 255. Every fault sets the FAULT flag, and nothing else changes; raised, it also forms its FAULT record, which joins the queue of a
journal that takes records and is folded into the shelf summary or its line's by one that is stalled. FAULT_CLEAR, in every run
state, empties the record and the count and leaves the FAULT flag. While the record is empty Fault A and the time-stamp read 0; the
severity field of Status shows none, minor or major as the record holds. -/
def Obligations.FaultRecordCapturesAndClears : Prop :=
  (∀ (c : Chip) (k : FaultKind) (x : Option LineNo) (n : Nat),
    let d := offerFault k x n c
    let f : FaultRec := ⟨k, x, n, c.stamp⟩
    d = { c with shc := { c.shc with fault := d.shc.fault, further := d.shc.further, attention := c.shc.attention ||| attnFault } } ∧
    (c.shc.fault = none → d.shc.fault = some f ∧ d.shc.further = c.shc.further) ∧
    (∀ g, c.shc.fault = some g → g.kind.major = false → k.major = true →
      d.shc.fault = some f ∧ d.shc.further = c.shc.further) ∧
    (∀ g, c.shc.fault = some g → g.kind.major = true ∨ k.major = false →
      d.shc.fault = some g ∧ d.shc.further = min 255 (c.shc.further + 1)) ∧
    (raiseFault k x n c).shc.fault = d.shc.fault ∧ (raiseFault k x n c).shc.further = d.shc.further ∧
    (raiseFault k x n c).shc.attention &&& attnFault = attnFault ∧
    (c.shc.run = .running → c.jwr.stall = .none → c.jwr.full = false → (∀ y, x = some y → c.jwr.summaries[y] = none) →
      (raiseFault k x n c).jwr = { c.jwr with queue := c.jwr.queue ++ [⟨x, c.shc.ms, .fault k n⟩] }) ∧
    (c.shc.run = .running ∧ c.jwr.stall ≠ .none ∨ c.shc.run = .isolated →
      (raiseFault k x n c).jwr = c.jwr.fold ⟨x, c.shc.ms, .fault k n⟩) ∧
    (c.shc.sel = false → field c.readStatus 9 2 = match c.shc.fault with
      | none => 0
      | some g => if g.kind.major then 2 else 1)) ∧
  ∀ (s : State) (sel : Bool) (mask : BitVec 5),
    ∃ t, exec (.faultClear sel mask) s = .next t ∧
      t.chip.shc = { s.chip.shc with fault := none, further := 0, sel := sel, mask := mask } ∧
      t.chip.readFaultA = 0 ∧ t.chip.severity = 0 ∧ (t.chip.shc.sel = false → t.chip.readFaultB = 0) ∧
      OnlyChanges [.shelf] s t

/-- A write to Control stores the select bit (bit 3) and the enable mask (bits 8 to 4) and acts on the command field (bits 2 to 0) as
the command of that number (of which FLUSH alone takes `more`, log 9); a read gives back the bits stored. Command 7 does nothing further: the model's choice (log 8). -/
def Obligations.ControlWriteActsOnItsCommand : Prop :=
  ∀ (w : Word) (s : State) (more : Nat),
    (commandField w = 1 → exec (.controlRegisterWrite w more) s = exec (.start (selectField w) (maskField w)) s) ∧
    (commandField w = 2 → exec (.controlRegisterWrite w more) s = exec (.stop (selectField w) (maskField w)) s) ∧
    (commandField w = 3 → exec (.controlRegisterWrite w more) s = exec (.coldRestart (selectField w) (maskField w)) s) ∧
    (commandField w = 4 → exec (.controlRegisterWrite w more) s = exec (.warmRestart (selectField w) (maskField w)) s) ∧
    (commandField w = 5 → exec (.controlRegisterWrite w more) s = exec (.flush (selectField w) (maskField w) more) s) ∧
    (commandField w = 6 → exec (.controlRegisterWrite w more) s = exec (.faultClear (selectField w) (maskField w)) s) ∧
    (commandField w = 0 ∨ commandField w = 7 →
      ∃ t, exec (.controlRegisterWrite w more) s = .next t ∧
        t.chip.shc = { s.chip.shc with sel := w.getLsbD 3, mask := w.extractLsb' 4 5 } ∧
        t.chip.readControl = w &&& 0x1F8#16 ∧ OnlyChanges [.shelf] s t)

/-- A write to Area Base is stored while HALTED and ignored in every other run state. A write to Attention clears each flag written 1
and leaves the others; FAULT is not cleared while the fault record holds a fault. The interrupt output is asserted exactly while a
flag is set whose mask bit is 1. -/
def Obligations.AreaBaseAndAttentionWrites : Prop :=
  ∀ (w : Word) (s : State),
    (s.chip.shc.run = .halted →
      ∃ t, exec (.areaBaseWrite w) s = .next t ∧ t.chip.shc = { s.chip.shc with areaBase := w.extractLsb' 0 15 } ∧
        t.chip.readAreaBase = w &&& 0x7FFF#16 ∧ OnlyChanges [.shelf] s t) ∧
    (s.chip.shc.run ≠ .halted → exec (.areaBaseWrite w) s = .next s) ∧
    ∃ t, exec (.attentionWrite w) s = .next t ∧
      (∀ b < 5, t.chip.shc.attention.getLsbD b =
        (s.chip.shc.attention.getLsbD b && (!w.getLsbD b || (b == 4 && s.chip.shc.fault.isSome)))) ∧
      t.chip.shc = { s.chip.shc with attention := t.chip.shc.attention } ∧
      (t.chip.interrupt = true ↔ ∃ b < 5, t.chip.shc.attention.getLsbD b = true ∧ s.chip.shc.mask.getLsbD b = true) ∧
      OnlyChanges [.shelf] s t

/-! ## The budget and the power mode -/

/-- SET_CAPACITY stages the pair with the reserve clamped to the capacity; POWER_MODE sets the conserve hold and the staged mode;
the mains-fail input stages CONSERVE at an assertion and NORMAL at a release without hold, if auto-conserve is set and the shelf is
RUNNING or ISOLATED. The level of the input is noted in every run state (log 10). That the order's own command takes it, with or
without a cell in hand, is the model's reading (log 3). -/
def Obligations.BudgetIsStaged : Prop :=
  ∀ s : State,
    (∀ cap res : Word, Ready s → 1 ≤ cap.toNat → cap.toNat ≤ 255 → res.toNat ≤ 255 →
      ∃ t, exec (.setCapacity cap res) s = .next t ∧
        t.chip.rsc = { s.chip.rsc with staged := some (cap.toNat, min res.toNat cap.toNat) } ∧
        Answered ⟨15, cap, res, 0, 0, 0⟩ .ok s t ∧ OnlyChanges [.scheduler, .orders] s t) ∧
    (Ready s →
      (∃ t, exec (.powerMode 1) s = .next t ∧ t.chip.rsc = { s.chip.rsc with hold := true, stagedMode := .conserve } ∧
        Answered ⟨16, 1, 0, 0, 0, 0⟩ .ok s t ∧ OnlyChanges [.scheduler, .orders] s t) ∧
      (∃ t, exec (.powerMode 0) s = .next t ∧ t.chip.rsc = { s.chip.rsc with hold := false, stagedMode := .normal } ∧
        Answered ⟨16, 0, 0, 0, 0, 0⟩ .ok s t ∧ OnlyChanges [.scheduler, .orders] s t)) ∧
    (∃ t, exec .mainsFailAsserted s = .next t ∧ t.chip.shc = { s.chip.shc with mains := true } ∧
      t.chip.rsc =
        { s.chip.rsc with
          stagedMode :=
            if (s.chip.shc.run = .running ∨ s.chip.shc.run = .isolated) ∧ s.chip.rsc.autoConserve = true then .conserve
            else s.chip.rsc.stagedMode } ∧ OnlyChanges [.scheduler, .shelf] s t) ∧
    (∃ t, exec .mainsFailReleased s = .next t ∧ t.chip.shc = { s.chip.shc with mains := false } ∧
      t.chip.rsc =
        { s.chip.rsc with
          stagedMode :=
            if (s.chip.shc.run = .running ∨ s.chip.shc.run = .isolated) ∧ s.chip.rsc.autoConserve = true ∧
              s.chip.rsc.hold = false then .normal
            else s.chip.rsc.stagedMode } ∧ OnlyChanges [.scheduler, .shelf] s t)

/-! ## The generator -/

/-- An overload asserted in STARTING or RUNNING trips the generator: the enable output is released, the start and idle stop timers
are stopped, every relay on the shelf is open, every allocation is gone, the GEN and FAULT flags are set. With two trips left in the
window it is the third: LOCKED_OUT with the history cleared and GEN_LOCKOUT offered; else TRIPPED with the hold timer and GEN_TRIP. Each
allocated line waits again, in RING_WAIT with its slot kept, no allocation, the first-burst flag reset and its selector released; the
lines are taken newest first, each to the head of its class with the cycles it has left and its age; SHED with reason TRIP follows
GEN_STATE and FAULT in the journal; and a table that held the sum of the allocations holds 0 at every step. In OFF, TRIPPED and
LOCKED_OUT nothing changes but the level noted (log 10). -/
def Obligations.OverloadTripsTheGenerator : Prop :=
  (∀ (q ps os : List RingWait) (e : RingWait), (∀ p ∈ ps, p.cls = .priority) → (∀ o ∈ os, o.cls = .ordinary) →
    (e.cls = .priority → queueHead q e = e :: q) ∧ (e.cls = .ordinary → queueHead (ps ++ os) e = ps ++ e :: os)) ∧
  ∀ (s : State) (standing : Bool),
    (s.chip.gen.state ≠ .starting → s.chip.gen.state ≠ .running →
      ∃ t, exec (.overloadAsserted standing) s = .next t ∧
        { t.chip.gen with idleTimer := none } = { s.chip.gen with overload := standing, idleTimer := none } ∧
        OnlyChanges [.generator] s t) ∧
    (s.chip.gen.state = .starting ∨ s.chip.gen.state = .running →
    let recent := s.chip.gen.history.filter (· ≤ 1000 * s.chip.gen.tripWindow)
    let st : GenSt := if 2 ≤ recent.length then .lockedOut else .tripped
    ∃ t, exec (.overloadAsserted standing) s = .next t ∧
      t.chip.genEnable = false ∧ t.chip.gen.startTimer = none ∧ t.chip.gen.idleTimer = none ∧
      t.chip.gen.overload = standing ∧ (∀ x : LineNo, (t.chip.line x).relay = false) ∧ t.chip.rsc.allocs = [] ∧
      t.chip.shc.attention &&& (attnGen ||| attnFault) = attnGen ||| attnFault ∧
      (2 ≤ recent.length → t.chip.gen.state = .lockedOut ∧ t.chip.gen.history = [] ∧
        (t.chip.shc.fault, t.chip.shc.further) =
          offered s.chip.shc.fault s.chip.shc.further ⟨.genLockout, none, 0, s.chip.stamp⟩) ∧
      (recent.length < 2 → t.chip.gen.state = .tripped ∧ t.chip.gen.history = 0 :: recent ∧
        t.chip.gen.holdTimer = some ⟨0, 1000 * s.chip.gen.tripHold⟩ ∧
        (t.chip.shc.fault, t.chip.shc.further) =
          offered s.chip.shc.fault s.chip.shc.further ⟨.genTrip, none, 0, s.chip.stamp⟩) ∧
      CallOnly s t ∧
      (AllocLaw s.chip →
        (∀ x ∈ s.chip.rsc.allocs, (t.chip.line x).st = .ringWait ∧ (t.chip.line x).slot = (s.chip.line x).slot ∧
          (t.chip.line x).selector = none ∧ t.chip.ctx x = (s.chip.ctx x).map fun k => { k with alloc := none, burst := false }) ∧
        t.chip.rsc.queue = s.chip.rsc.allocs.reverse.foldl (fun q x => queueHead q (s.chip.waitsAgain x)) s.chip.rsc.queue ∧
        (s.chip.rsc.plt = s.chip.loads → t.chip.rsc.plt = List.replicate s.chip.shc.hdr.n 0) ∧
        (QueuesShelf s → (∀ x ∈ s.chip.rsc.allocs, s.chip.jwr.summaries[x] = none) →
          s.chip.jwr.counted + s.chip.rsc.allocs.length + 2 ≤ 32 →
          t.chip.jwr =
            { s.chip.jwr with
              queue := s.chip.jwr.queue ++
                [⟨none, s.chip.shc.ms, .genState st s.chip.gen.state .overload (min 3 (recent.length + 1))⟩,
                  ⟨none, s.chip.shc.ms, .fault (if st = .lockedOut then .genLockout else .genTrip) 0⟩] ++
                s.chip.rsc.allocs.reverse.map fun x =>
                  let k := (s.chip.ctx x).getD Ctx.fresh
                  let e := s.chip.waitsAgain x
                  ⟨some x, s.chip.shc.ms, .shed .trip e.party (e.plan.getD 0) k.cyclesRung e.cycles⟩ })))

/-- The start timer's expiry in STARTING enters RUNNING; the idle stop timer's expiry while idle enters OFF; the hold timer's expiry
in TRIPPED, and GEN_RESET in LOCKED_OUT, enter OFF, and STARTING at once if demand exists. A start into a standing overload trips the
generator at once: it ends TRIPPED or LOCKED_OUT with the enable output released. Every change of state writes GEN_STATE with the new
state, the old and the cause, ahead of what follows from it. GEN_RESET is taken by its own command, with or without a
cell in hand, as the model reads it (log 3); in any other state it is refused LINE_BUSY and changes nothing. -/
def Obligations.GeneratorChangesState : Prop :=
  ∀ s : State,
    let rec1 := fun (new old : GenSt) (cause : GenCause) =>
      (⟨none, s.chip.shc.ms, .genState new old cause 0⟩ : Rec)
    (s.chip.gen.state = .starting → timerDue s.chip.gen.startTimer = true →
      ∃ t, exec .genStartDone s = .next t ∧ t.chip.gen.state = .running ∧ t.chip.gen.startTimer = none ∧
        t.chip.gen.history = s.chip.gen.history ∧ CallOnly s t ∧
        (QueuesShelf s → ∃ more, t.chip.jwr.queue = s.chip.jwr.queue ++ rec1 .running .starting .startDone :: more)) ∧
    (s.chip.genIdle = true → timerDue s.chip.gen.idleTimer = true →
      ∃ t, exec .idleStop s = .next t ∧ t.chip.gen = { s.chip.gen with state := .off, idleTimer := none } ∧
        t.chip.genEnable = false ∧ CallOnly s t ∧ OnlyChanges [.generator, .journal, .shelf] s t ∧
        (QueuesShelf s →
          t.chip.jwr = { s.chip.jwr with queue := s.chip.jwr.queue ++ [rec1 .off .running .idleStop] })) ∧
    (s.chip.gen.state = .tripped → timerDue s.chip.gen.holdTimer = true →
      s.chip.gen.overload = false ∨ s.chip.demand = false →
      ∃ t, exec .holdEnd s = .next t ∧ t.chip.gen.holdTimer = none ∧ CallOnly s t ∧
        (s.chip.demand = false → t.chip.gen.state = .off ∧
          (QueuesShelf s →
            t.chip.jwr = { s.chip.jwr with queue := s.chip.jwr.queue ++ [rec1 .off .tripped .holdEnd] })) ∧
        (s.chip.demand = true → t.chip.gen.state = .starting ∧
          t.chip.gen.startTimer = some ⟨0, s.chip.gen.startTime⟩ ∧ t.chip.genEnable = true ∧
          (QueuesShelf s → s.chip.jwr.counted + 2 ≤ 32 →
            t.chip.jwr =
              { s.chip.jwr with
                queue := s.chip.jwr.queue ++ [rec1 .off .tripped .holdEnd, rec1 .starting .off .startRequest] })) ∧
        OnlyChanges [.generator, .journal, .shelf] s t) ∧
    (s.chip.gen.state = .tripped → timerDue s.chip.gen.holdTimer = true → s.chip.demand = true →
      s.chip.gen.overload = true →
      ∃ t, exec .holdEnd s = .next t ∧ t.chip.genEnable = false ∧ t.chip.gen.startTimer = none ∧
        t.chip.gen.state =
          (if 2 ≤ (s.chip.gen.history.filter (· ≤ 1000 * s.chip.gen.tripWindow)).length then .lockedOut else .tripped) ∧
        t.chip.rsc.allocs = [] ∧ t.chip.shc.attention &&& (attnGen ||| attnFault) = attnGen ||| attnFault ∧ CallOnly s t ∧
        (QueuesShelf s → s.chip.jwr.counted + 2 ≤ 32 → ∃ more,
          t.chip.jwr.queue =
            s.chip.jwr.queue ++ rec1 .off .tripped .holdEnd :: rec1 .starting .off .startRequest :: more)) ∧
    (Ready s → s.chip.gen.state = .lockedOut → s.chip.gen.overload = false ∨ s.chip.demand = false →
      ∃ t, exec .genReset s = .next t ∧ Answered ⟨17, 0, 0, 0, 0, 0⟩ .ok s t ∧
        (s.chip.demand = false → t.chip.gen.state = .off) ∧
        (s.chip.demand = true → t.chip.gen.state = .starting ∧
          t.chip.gen.startTimer = some ⟨0, s.chip.gen.startTime⟩ ∧ t.chip.genEnable = true) ∧
        (QueuesShelf s → ∃ more, t.chip.jwr.queue = s.chip.jwr.queue ++ rec1 .off .lockedOut .reset :: more) ∧
        t.chip.shc.fault = s.chip.shc.fault ∧ OnlyChanges [.generator, .orders, .journal, .shelf] s t) ∧
    (Ready s → s.chip.gen.state = .lockedOut → s.chip.gen.overload = true → s.chip.demand = true →
      ∃ t, exec .genReset s = .next t ∧ Answered ⟨17, 0, 0, 0, 0, 0⟩ .ok s t ∧ OrderOnly s t ∧ t.chip.genEnable = false ∧
        (t.chip.gen.state = .tripped ∨ t.chip.gen.state = .lockedOut)) ∧
    (Ready s → s.chip.gen.state ≠ .lockedOut →
      ∃ t, exec .genReset s = .next t ∧ Answered ⟨17, 0, 0, 0, 0, 0⟩ .lineBusy s t ∧ OnlyChanges [.orders] s t)

/-! ## The scanner -/

/-- A sample that brings no occurrence. The interval timer rises by one and stops at 65,535. With the relay closed only the trip run
is counted, and a reading without trip discards a run that is above 0 and below the trip confirm count: the run returns to 0, the
discards of the line's slot rise by one up to 255, and the third raises UNSTABLE_TRIP. With the relay open a blank is counted down and
nothing else; else a reading that agrees ends the disagreeing run and one that disagrees raises it. In a first reading the readings
that agree are counted, and one that disagrees begins the count again at 1. A line that is not sampled is left as it stands, and no
other line is touched. -/
def Obligations.SampleCounts : Prop :=
  ∀ (s : State) (x : LineNo) (loop trip : Bool),
    let l := s.chip.line x
    let l' : Line := { l with interval := min 65535 (l.interval + 1) }
    let n := if l.run ≠ 0 ∧ l.tentative = (if loop then .off else .on) then l.run + 1 else 1
    (l.sampling = .off →
      ∃ t, exec (.lineSample x loop trip) s = .next t ∧ OnlyChanges [] s t) ∧
    (l.sampling = .first → n < (s.chip.timing x).debounce →
      ∃ t, exec (.lineSample x loop trip) s = .next t ∧
        t.chip.line x = { l with tentative := if loop then .off else .on, run := n } ∧ OthersKept x s t ∧
        OnlyChanges [.lines] s t) ∧
    (l.sampling = .on → l'.thresholdDue = false →
      (l.relay = true → trip = false → l.tripRun = 0 →
        ∃ t, exec (.lineSample x loop trip) s = .next t ∧ t.chip.line x = l' ∧ OthersKept x s t ∧
          OnlyChanges [.lines] s t) ∧
      (l.relay = true → trip = false → 0 < l.tripRun → l.tripRun < (s.chip.timing x).tripConfirm →
        ∀ k, l.slot = some k →
          let n := (s.chip.slot k).ctx.tripDiscards
          ∃ t, exec (.lineSample x loop trip) s = .next t ∧ t.chip.line x = { l' with tripRun := 0 } ∧ OthersKept x s t ∧
            t.chip.slot k =
              { s.chip.slot k with ctx := { (s.chip.slot k).ctx with tripDiscards := min 255 (n + 1) } } ∧
            OtherSlotsKept k s t ∧ t.chip.sst.lru = s.chip.sst.lru ∧ t.chip.sst.waitList = s.chip.sst.waitList ∧
            (n ≠ 2 → OnlyChanges [.lines, .slots] s t) ∧
            (n = 2 →
              (t.chip.shc.fault, t.chip.shc.further) =
                offered s.chip.shc.fault s.chip.shc.further ⟨.unstableTrip, some x, 0, s.chip.stamp⟩ ∧
              t.chip.shc.attention &&& attnFault = attnFault ∧
              (Queues x s → t.chip.jwr =
                { s.chip.jwr with
                  queue := s.chip.jwr.queue ++ [⟨some x, s.chip.shc.ms, .fault .unstableTrip 0⟩] }) ∧
              OnlyChanges [.lines, .slots, .journal, .shelf] s t)) ∧
      (l.relay = true → trip = true → l.tripRun + 1 < (s.chip.timing x).tripConfirm →
        ∃ t, exec (.lineSample x loop trip) s = .next t ∧ t.chip.line x = { l' with tripRun := l.tripRun + 1 } ∧
          OthersKept x s t ∧ OnlyChanges [.lines] s t) ∧
      (l.relay = false → 0 < l.blank →
        ∃ t, exec (.lineSample x loop trip) s = .next t ∧ t.chip.line x = { l' with blank := l.blank - 1 } ∧
          OthersKept x s t ∧ OnlyChanges [.lines] s t) ∧
      (l.relay = false → l.blank = 0 → loop = (l.hook == .off) →
        ∃ t, exec (.lineSample x loop trip) s = .next t ∧ t.chip.line x = { l' with run := 0 } ∧
          OthersKept x s t ∧ OnlyChanges [.lines] s t) ∧
      (l.relay = false → l.blank = 0 → loop = (l.hook == .on) → l.run + 1 < (s.chip.timing x).debounce →
        ∃ t, exec (.lineSample x loop trip) s = .next t ∧ t.chip.line x = { l' with run := l.run + 1 } ∧
          OthersKept x s t ∧ OnlyChanges [.lines] s t))

/-- A hook transition is recognised: the hook state turns, the run and the interval restart at 0 and the threshold returns to none,
except that an on-hook in a state that judges breaks arms CLEAR at one sample more than flash max. An on-hook in any state, and an
off-hook in BLOCKED and RELEASE_GUARD, has no other effect. The sample command brings the same (log 2). -/
def Obligations.HookTransitionIsRecognised : Prop :=
  ∀ (s : State) (x : LineNo) (loop trip : Bool), s.AboutToTurn x loop →
    exec (.hookTransition x loop trip) s = exec (.lineSample x loop trip) s ∧
    (loop = false ∨ (s.chip.line x).st = .blocked ∨ (s.chip.line x).st = .releaseGuard →
      ∃ t, exec (.hookTransition x loop trip) s = .next t ∧
        t.chip.line x =
          { s.chip.line x with
            hook := if loop then .off else .on
            run := 0
            interval := 0
            threshold :=
              if loop = false ∧ (s.chip.line x).st ∈
                  [LineSt.seizeWait, .dialTone, .dialling, .routing, .talk, .recall, .parked] then
                .clear (((s.chip.timing x).flashMax + 1) / 2 + 1)
              else .none
            mark := true } ∧
        OthersKept x s t ∧ OnlyChanges [.lines] s t)

/-- A request for a slot takes the slot locked to the line, if that is not BOUND or has no holder; else an unlocked slot that holds its
record, WARM or fetched without a holder; else the free slot nearest the LRU end; and an entry joins the Slot Wait List after the last
of its class. A seizure while RUNNING of a line that holds no slot writes SEIZE, puts the line in SEIZE_WAIT with no tone and the count
at 0, and asks for an ORIGINATE slot with the line's class. With no slot to be had the line joins the Slot Wait List. A slot that holds
no copy of its record is bound to it with a fresh context and a fetch is requested; a fetch that runs without a holder goes on for the
line; and a WARM slot with its record, which is valid, gives dial tone at once with TONE_READY after SEIZE. Where that record is not
valid, and no line waits, the slot is EMPTY, RECORD_INVALID is raised, and the line is PARKED: SEIZE, FAULT and PARK are the records. -/
def Obligations.SeizureAsksForASlot : Prop :=
  (∀ (ps os : List SlotWait) (e : SlotWait), (∀ p ∈ ps, p.cls = .priority) → (∀ o ∈ os, o.cls = .ordinary) →
    (e.cls = .priority → waitTail (ps ++ os) e = ps ++ e :: os) ∧
    (e.cls = .ordinary → waitTail (ps ++ os) e = ps ++ os ++ [e])) ∧
  (∀ (c : Chip) (x : LineNo),
    let idle := fun i : SlotNo => (c.slot i).status ≠ .bound ∨ (c.slot i).holder = none
    let own := fun i : SlotNo => (c.slot i).lock = some x ∧ idle i
    let copy := fun i : SlotNo => (c.slot i).lock = none ∧ (c.slot i).recLine = some x ∧ (c.slot i).status ≠ .empty ∧ idle i
    let free := fun i : SlotNo => (c.slot i).lock == none && (c.slot i).status != .bound
    (∀ i, own i → ∃ k, c.chooseSlot x = some k ∧ own k) ∧
    ((∀ i, ¬own i) → ∀ i, copy i → ∃ k, c.chooseSlot x = some k ∧ copy k) ∧
    ((∀ i, ¬own i) → (∀ i, ¬copy i) → c.chooseSlot x = c.sst.lru.find? free)) ∧
  ∀ (s : State) (i : Instr) (x : LineNo), s.Seizes i x → Queues x s → (s.chip.line x).slot = none → s.chip.entry x = none →
    let seizeRec : Rec := ⟨some x, s.chip.shc.ms, .seize⟩
    (s.chip.chooseSlot x = none →
      ∃ t, exec i s = .next t ∧ (t.chip.line x).st = .seizeWait ∧ (t.chip.line x).tone = .none ∧
        (t.chip.line x).seizure = 0 ∧ (t.chip.line x).slot = none ∧ (t.chip.line x).hook = .off ∧
        t.chip.sst = { s.chip.sst with waitList := waitTail s.chip.sst.waitList ⟨x, .originate, (s.chip.line x).cls⟩ } ∧
        t.chip.jwr = { s.chip.jwr with queue := s.chip.jwr.queue ++ [seizeRec] } ∧
        OthersKept x s t ∧ OnlyChanges [.lines, .slots, .journal] s t) ∧
    (∀ k, s.chip.chooseSlot x = some k → (s.chip.slot k).Misses x →
      ∃ t, exec i s = .next t ∧ (t.chip.line x).st = .seizeWait ∧ (t.chip.line x).tone = .none ∧
        (t.chip.line x).seizure = 0 ∧ (t.chip.line x).slot = some k ∧ (t.chip.line x).hook = .off ∧
        t.chip.slot k =
          { s.chip.slot k with
            status := .bound
            phase := .fetching
            holder := some x
            recLine := some x
            words := 0
            refetch := false
            failed := false
            ctx := Ctx.fresh } ∧
        OtherSlotsKept k s t ∧ t.chip.sst.lru = s.chip.sst.lru.filter (· ≠ k) ++ [k] ∧
        t.chip.sst.waitList = s.chip.sst.waitList ∧ t.chip.mpt.reqs = s.chip.mpt.reqs ++ [.fetch k] ∧
        t.chip.jwr = { s.chip.jwr with queue := s.chip.jwr.queue ++ [seizeRec] } ∧
        OthersKept x s t ∧ OnlyChanges [.lines, .slots, .journal, .port] s t) ∧
    (∀ k, s.chip.chooseSlot x = some k → (s.chip.slot k).status = .bound →
      ∃ t, exec i s = .next t ∧ (t.chip.line x).st = .seizeWait ∧ (t.chip.line x).tone = .none ∧
        (t.chip.line x).seizure = 0 ∧ (t.chip.line x).slot = some k ∧
        t.chip.slot k =
          { s.chip.slot k with phase := .fetching, holder := some x, recLine := some x, failed := false, ctx := Ctx.fresh } ∧
        OtherSlotsKept k s t ∧ t.chip.sst.lru = s.chip.sst.lru.filter (· ≠ k) ++ [k] ∧
        t.chip.sst.waitList = s.chip.sst.waitList ∧ t.chip.jwr = { s.chip.jwr with queue := s.chip.jwr.queue ++ [seizeRec] } ∧
        OthersKept x s t ∧ OnlyChanges [.lines, .slots, .journal] s t) ∧
    (∀ k, s.chip.chooseSlot x = some k → (s.chip.slot k).status = .warm → (s.chip.slot k).recLine = some x →
      recordValid s.chip.planPresent (s.chip.slot k).copy = true →
      let bus : Tone := if flag (s.chip.slot k).copy[0] 1 then .specialDial else .dial
      ∃ t, exec i s = .next t ∧ (t.chip.line x).st = .dialTone ∧ (t.chip.line x).tone = bus ∧
        (t.chip.line x).dialTone = some ⟨0, 1000 * (s.chip.timing x).dialTone⟩ ∧ (t.chip.line x).slot = some k ∧
        t.chip.slot k =
          { s.chip.slot k with status := .bound, phase := .valid, holder := some x, failed := false, ctx := Ctx.fresh } ∧
        OtherSlotsKept k s t ∧ t.chip.sst.lru = s.chip.sst.lru.filter (· ≠ k) ++ [k] ∧
        t.chip.sst.waitList = s.chip.sst.waitList ∧
        (s.chip.jwr.counted + 2 ≤ 32 → t.chip.jwr = { s.chip.jwr with
          queue := s.chip.jwr.queue ++ [seizeRec, ⟨some x, s.chip.shc.ms, .toneReady 0 bus⟩] }) ∧
        OthersKept x s t ∧ OnlyChanges [.lines, .slots, .journal, .shelf] s t) ∧
    (∀ k, s.chip.chooseSlot x = some k → s.chip.Spoilt k x → s.chip.sst.waitList = [] →
      ∃ t, exec i s = .next t ∧ (t.chip.line x).st = .parked ∧ (t.chip.line x).tone = .none ∧ (t.chip.line x).slot = none ∧
        (t.chip.line x).park = (if (s.chip.timing x).parkDelay = 0 then none
          else some ⟨0, 1000 * (s.chip.timing x).parkDelay⟩) ∧ Discarded k x s t ∧
        (s.chip.jwr.counted + 3 ≤ 32 → t.chip.jwr = { s.chip.jwr with
          queue := s.chip.jwr.queue ++
            [seizeRec, ⟨some x, s.chip.shc.ms, .fault .recordInvalid 0⟩, ⟨some x, s.chip.shc.ms, .park .recordInvalid⟩] }) ∧
        OthersKept x s t ∧ OnlyChanges [.lines, .slots, .journal, .shelf] s t)

/-- A recognised off-hook judges the break of `d` samples that it ends, both edges of each window inclusive. A break in the pulse window
of a line that dials by pulses and holds slot k: in DIAL_TONE it is the first pulse, which removes the tone and enters DIALLING with
the dialling timer started; in DIALLING, and in RECALL with the record accepted, where it also removes the tone DIAL, it raises the
pulse count, up to 15; in each it arms the DIGIT threshold at the interdigit min. A break in the flash window: in DIALLING the buffer
is emptied, DIAL_RESTART written with the digits discarded, and the line is back in DIAL_TONE; in ROUTING FLASH is written and nothing
else happens; in RECALL with the record accepted the buffer is emptied, FLASH written with the digits discarded, the tone is again
DIAL or NONE by the record's flag, and the dialling timer starts again; in RECALL with its slot still fetched or its request listed
FLASH is written and nothing else happens; in RECALL without a request the line asks again. (A flash in TALK, and what such a request finds: TalkFlashOpensARecall.) Every
other break, and in SEIZE_WAIT and PARKED every break, is a hit: only the hook items change, but that a digit in progress of a line
that collects digits has its DIGIT threshold armed again. A break above flash max is a hit: the model's choice (log 19), and one that rounding puts in both windows a pulse, as it deduces (log 42). -/
def Obligations.BreakIsJudged : Prop :=
  ∀ (s : State) (x : LineNo) (trip : Bool), s.AboutToTurn x true →
    let i := Instr.hookTransition x true trip
    let l := s.chip.line x
    let T := s.chip.timing x
    let d := min 65535 (l.interval + 1)
    let turned : Line := { l with hook := .off, run := 0, interval := 0, threshold := .none, mark := true }
    let armed : Threshold := .digit ((T.interdigit + 1) / 2)
    let pulse := T.InPulse d ∧ l.sig ≠ .tone
    (l.st = .seizeWait ∨ l.st = .parked ∨ l.st = .dialTone ∧ ¬pulse ∨ (l.st = .routing ∨ l.st = .talk) ∧ ¬T.InFlash d ∨
        l.st = .recall ∧ l.slot = none ∧ ¬T.InFlash d →
      ∃ t, exec i s = .next t ∧ t.chip.line x = turned ∧ OthersKept x s t ∧ OnlyChanges [.lines] s t) ∧
    (l.st = .routing → T.InFlash d → Queues x s →
      ∃ t, exec i s = .next t ∧ t.chip.line x = turned ∧
        t.chip.jwr = { s.chip.jwr with queue := s.chip.jwr.queue ++ [⟨some x, s.chip.shc.ms, .flash .routing 0⟩] } ∧
        OthersKept x s t ∧ OnlyChanges [.lines, .journal] s t) ∧
    (l.st = .recall → T.InFlash d → l.slot = none → Queues x s →
      (s.chip.listed x = true →
        ∃ t, exec i s = .next t ∧ t.chip.line x = turned ∧
          t.chip.jwr = { s.chip.jwr with queue := s.chip.jwr.queue ++ [⟨some x, s.chip.shc.ms, .flash .recall 0⟩] } ∧
          OthersKept x s t ∧ OnlyChanges [.lines, .journal] s t) ∧
      (s.chip.listed x = false → l.asking = false → s.chip.chooseSlot x = none →
        ∃ t, exec i s = .next t ∧ t.chip.line x = { turned with askClass := l.cls } ∧
          t.chip.sst = { s.chip.sst with waitList := waitTail s.chip.sst.waitList ⟨x, .recall, l.cls⟩ } ∧
          t.chip.jwr = { s.chip.jwr with queue := s.chip.jwr.queue ++ [⟨some x, s.chip.shc.ms, .flash .recall 0⟩] } ∧
          OthersKept x s t ∧ OnlyChanges [.lines, .slots, .journal] s t)) ∧
    ∀ k, l.slot = some k →
      let K := (s.chip.slot k).ctx
      let valid := (s.chip.slot k).phase = .valid
      let flag0 := (s.chip.slot k).copy[0]
      (l.st = .dialTone ∨ l.st = .dialling ∨ l.st = .recall ∧ valid → pulse →
        ∃ t, exec i s = .next t ∧
          (l.st = .dialTone → t.chip.line x =
            { turned with
              st := .dialling
              answered := false
              tone := .none
              dialTone := none
              dialling := some ⟨0, 1000 * T.dialling⟩
              guard := none
              park := none
              howler := none
              threshold := armed }) ∧
          (l.st = .dialling → t.chip.line x = { turned with threshold := armed }) ∧
          (l.st = .recall → t.chip.line x =
            { turned with tone := if l.tone = .dial then .none else l.tone, threshold := armed }) ∧
          t.chip.slot k = { s.chip.slot k with ctx := { K with pulses := min 15 (K.pulses + 1) } } ∧
          OtherSlotsKept k s t ∧ t.chip.sst.lru = s.chip.sst.lru ∧ OthersKept x s t ∧ OnlyChanges [.lines, .slots] s t) ∧
      (l.st = .dialling ∨ l.st = .recall → ¬(pulse ∧ (l.st = .dialling ∨ valid)) → ¬T.InFlash d →
        ∃ t, exec i s = .next t ∧
          t.chip.line x =
            { turned with
              threshold := if (l.st = .dialling ∨ (s.chip.slot k).phase = .valid) ∧ K.pulses ≠ 0 then armed else .none } ∧
          OthersKept x s t ∧ OnlyChanges [.lines] s t) ∧
      (l.st = .dialling → T.InFlash d →
        ∃ t, exec i s = .next t ∧ (t.chip.line x).st = .dialTone ∧
          (t.chip.line x).tone = (if flag flag0 1 then .specialDial else .dial) ∧
          (t.chip.line x).dialTone = some ⟨0, 1000 * T.dialTone⟩ ∧ (t.chip.line x).dialling = none ∧
          (t.chip.line x).threshold = .none ∧ (t.chip.line x).slot = some k ∧
          t.chip.slot k =
            { s.chip.slot k with ctx := { K with pulses := 0, buffer := [], overflow := false, mark := none } } ∧
          OtherSlotsKept k s t ∧ OthersKept x s t ∧ OnlyChanges [.lines, .slots, .journal, .shelf] s t ∧
          (Queues x s → t.chip.jwr = { s.chip.jwr with
            queue := s.chip.jwr.queue ++ [⟨some x, s.chip.shc.ms, .dialRestart K.buffer.length⟩] })) ∧
      (l.st = .recall → T.InFlash d → valid →
        ∃ t, exec i s = .next t ∧ (t.chip.line x).st = .recall ∧
          (t.chip.line x).tone = (if flag flag0 0 then .dial else .none) ∧
          (t.chip.line x).dialling = some ⟨0, 1000 * T.dialling⟩ ∧ (t.chip.line x).threshold = .none ∧
          (t.chip.line x).slot = some k ∧
          t.chip.slot k =
            { s.chip.slot k with ctx := { K with pulses := 0, buffer := [], overflow := false, mark := none } } ∧
          OtherSlotsKept k s t ∧ OthersKept x s t ∧ OnlyChanges [.lines, .slots, .journal, .shelf] s t ∧
          (Queues x s → t.chip.jwr = { s.chip.jwr with
            queue := s.chip.jwr.queue ++ [⟨some x, s.chip.shc.ms, .flash .recall K.buffer.length⟩] })) ∧
      (l.st = .recall → T.InFlash d → ¬valid → Queues x s →
        ∃ t, exec i s = .next t ∧ t.chip.line x = turned ∧
          t.chip.jwr = { s.chip.jwr with queue := s.chip.jwr.queue ++ [⟨some x, s.chip.shc.ms, .flash .recall 0⟩] } ∧
          OthersKept x s t ∧ OnlyChanges [.lines, .journal] s t)

/-- A flash in TALK, or in RECALL without a slot or a request, the break lying in the flash window and in no lower one (log 42): FLASH with the state and no digits, from
TALK the answered mark cleared, RECALL with the tone as it was, and a RECALL request with the line's class. With no slot to be had it
joins the Slot Wait List; a slot that holds no copy of its record is bound and fetched; a fetch that runs without a holder goes on for
the line; a WARM slot with its record, which is valid, is taken at once: DIAL by the record's flag, and the dialling timer started.
Where that record is not valid, and no line waits, the slot is EMPTY, RECORD_INVALID is raised, and the line stays in RECALL without a
slot. -/
def Obligations.TalkFlashOpensARecall : Prop :=
  ∀ (s : State) (x : LineNo) (trip : Bool), s.AboutToTurn x true →
    let l := s.chip.line x
    l.st = .talk ∨ l.st = .recall ∧ l.slot = none ∧ s.chip.listed x = false ∧ l.asking = false → Queues x s →
    (s.chip.timing x).InFlash (min 65535 (l.interval + 1)) →
    let i := Instr.hookTransition x true trip
    let flashRec : Rec := ⟨some x, s.chip.shc.ms, .flash l.st 0⟩
    let flashed : Jwr := { s.chip.jwr with queue := s.chip.jwr.queue ++ [flashRec] }
    let recalled := fun t : State =>
      (t.chip.line x).st = .recall ∧ (t.chip.line x).answered = (if l.st = .talk then false else l.answered) ∧ OthersKept x s t
    (s.chip.chooseSlot x = none →
      ∃ t, exec i s = .next t ∧ recalled t ∧ (t.chip.line x).tone = l.tone ∧
        t.chip.sst = { s.chip.sst with waitList := waitTail s.chip.sst.waitList ⟨x, .recall, l.cls⟩ } ∧
        t.chip.jwr = flashed ∧ OnlyChanges [.lines, .slots, .journal] s t) ∧
    (s.chip.entry x = none → ∀ k, s.chip.chooseSlot x = some k →
      ((s.chip.slot k).Misses x →
        ∃ t, exec i s = .next t ∧ recalled t ∧ (t.chip.line x).tone = l.tone ∧ (t.chip.line x).slot = some k ∧
          (t.chip.slot k).status = .bound ∧ (t.chip.slot k).phase = .fetching ∧ (t.chip.slot k).holder = some x ∧
          (t.chip.slot k).recLine = some x ∧ (t.chip.slot k).ctx = Ctx.fresh ∧
          t.chip.mpt.reqs = s.chip.mpt.reqs ++ [.fetch k] ∧ OtherSlotsKept k s t ∧ t.chip.jwr = flashed ∧
          OnlyChanges [.lines, .slots, .journal, .port] s t) ∧
      ((s.chip.slot k).status = .bound →
        ∃ t, exec i s = .next t ∧ recalled t ∧ (t.chip.line x).tone = l.tone ∧ (t.chip.line x).slot = some k ∧
          t.chip.slot k =
            { s.chip.slot k with
              phase := .fetching
              holder := some x
              recLine := some x
              failed := false
              ctx := Ctx.fresh } ∧
          OtherSlotsKept k s t ∧ t.chip.jwr = flashed ∧ OnlyChanges [.lines, .slots, .journal] s t) ∧
      ((s.chip.slot k).status = .warm → (s.chip.slot k).recLine = some x →
        recordValid s.chip.planPresent (s.chip.slot k).copy = true →
        ∃ t, exec i s = .next t ∧ recalled t ∧
          (t.chip.line x).tone = (if flag (s.chip.slot k).copy[0] 0 then .dial else l.tone) ∧
          (t.chip.line x).dialling = some ⟨0, 1000 * (s.chip.timing x).dialling⟩ ∧ (t.chip.line x).slot = some k ∧
          (t.chip.slot k).status = .bound ∧ (t.chip.slot k).phase = .valid ∧ (t.chip.slot k).holder = some x ∧
          (t.chip.slot k).ctx = Ctx.fresh ∧ OtherSlotsKept k s t ∧ t.chip.jwr = flashed ∧
          OnlyChanges [.lines, .slots, .journal] s t) ∧
      (s.chip.Spoilt k x → s.chip.sst.waitList = [] →
        ∃ t, exec i s = .next t ∧ recalled t ∧ (t.chip.line x).tone = l.tone ∧ (t.chip.line x).slot = none ∧
          Discarded k x s t ∧
          (s.chip.jwr.counted + 2 ≤ 32 → t.chip.jwr = { s.chip.jwr with
            queue := s.chip.jwr.queue ++ [flashRec, ⟨some x, s.chip.shc.ms, .fault .recordInvalid 0⟩] }) ∧
          OnlyChanges [.lines, .slots, .journal, .shelf] s t))

/-- The sample that ends the first reading of a supervised line in UNEQUIPPED: the reading becomes the hook state, the interval and
the counts start at 0, and the line enters IDLE if on-hook and PARKED with its park timer if off-hook, with no record and never
SEIZE_WAIT. The sample command brings the same (log 2). -/
def Obligations.FirstStatePlacesTheLine : Prop :=
  ∀ (s : State) (x : LineNo) (loop trip : Bool),
    let l := s.chip.line x
    let T := s.chip.timing x
    l.sampling = .first → l.st = .unequipped → l.equipped = true →
    T.debounce ≤ (if l.run ≠ 0 ∧ l.tentative = (if loop then .off else .on) then l.run + 1 else 1) →
    exec (.firstDebouncedState x loop trip) s = exec (.lineSample x loop trip) s ∧
    ∃ t, exec (.firstDebouncedState x loop trip) s = .next t ∧
      (t.chip.line x).st = (if loop then .parked else .idle) ∧ (t.chip.line x).hook = (if loop then .off else .on) ∧
      (t.chip.line x).sampling = .on ∧ (t.chip.line x).interval = 0 ∧ (t.chip.line x).run = 0 ∧
      (t.chip.line x).tripRun = 0 ∧ (t.chip.line x).blank = 0 ∧
      (t.chip.line x).tone = .none ∧ (t.chip.line x).slot = l.slot ∧ (t.chip.line x).mark = true ∧
      (t.chip.line x).park = (if loop ∧ T.parkDelay ≠ 0 then some ⟨0, 1000 * T.parkDelay⟩ else none) ∧
      OthersKept x s t ∧ OnlyChanges [.lines] s t

/-- An answer: a trip confirmed in RINGING, or an off-hook recognised in RINGING or in RING_WAIT. The line enters TALK with the
answered mark and no tone, off-hook, and where its record is queued ANSWER with its means is the first record that the answer writes,
ahead of any that its walk or its freed slot brings. With no other request waiting it is the only one, the line holds no slot, its relay
is open and its selector released, and a ringing line's allocation and load are gone; an early answer leaves no entry of the line in the
queue. -/
def Obligations.AnswerEntersTalk : Prop :=
  ∀ (s : State) (i : Instr) (x : LineNo) (means : AnswerMeans),
    (∃ loop, i = .tripConfirm x loop true ∧ means = .trip ∧ (s.chip.line x).st = .ringing ∧
        (s.chip.line x).sampling = .on ∧ (s.chip.line x).relay = true ∧ (s.chip.line x).threshold = .none ∧
        (s.chip.timing x).tripConfirm ≤ (s.chip.line x).tripRun + 1) ∨
      (∃ trip, i = .hookTransition x true trip ∧ s.AboutToTurn x true ∧
        (means = .loop ∧ (s.chip.line x).st = .ringing ∨ means = .waiting ∧ (s.chip.line x).st = .ringWait)) →
    let r : Rec := ⟨some x, s.chip.shc.ms,
      .answer (((s.chip.ctx x).map (·.cyclesRung)).getD 0)
        (means = .waiting ∨ ((s.chip.ctx x).map (·.burst)).getD false = false) means⟩
    ∃ t, exec i s = .next t ∧ (t.chip.line x).st = .talk ∧ (t.chip.line x).answered = true ∧
      (t.chip.line x).tone = .none ∧ (t.chip.line x).hook = .off ∧ CallOnly s t ∧
      (Queues x s → ∃ more, t.chip.jwr.queue = s.chip.jwr.queue ++ r :: more) ∧
      (s.chip.sst.waitList = [] →
        (means = .waiting →
          (t.chip.line x).slot = none ∧ OthersKept x s t ∧
          t.chip.rsc = { s.chip.rsc with queue := s.chip.rsc.queue.filter (·.line ≠ x) } ∧
          (Queues x s → t.chip.jwr.queue = s.chip.jwr.queue ++ [r])) ∧
        (means ≠ .waiting → s.chip.rsc.queue = [] → ∀ (k : SlotNo) (a : Alloc), (s.chip.line x).slot = some k →
          (s.chip.slot k).phase = .valid → (s.chip.slot k).ctx.alloc = some a →
          (t.chip.line x).slot = none ∧ (t.chip.line x).relay = false ∧ (t.chip.line x).selector = none ∧
          (t.chip.slot k).holder = none ∧ (t.chip.slot k).ctx = Ctx.fresh ∧
          t.chip.rsc =
            { s.chip.rsc with
              plt := pltSub s.chip.shc.hdr.n s.chip.rsc.plt ((s.chip.ctb.active[a.plan]).getD []) a.phase a.load
              allocs := s.chip.rsc.allocs.filter (· ≠ x) } ∧
          OthersKept x s t ∧ OtherSlotsKept k s t ∧
          (Queues x s → t.chip.jwr.queue = s.chip.jwr.queue ++ [r])))

/-- The expiry of a CLEAR threshold: in SEIZE_WAIT, DIAL_TONE, DIALLING and ROUTING it is abandonment, in TALK and RECALL a
subscriber clear, in PARKED the end of the park. In each the tone is removed and the line enters RELEASE_GUARD with the release guard
of its timing set; ABANDON or CLEAR with the state left and the digits discarded is the record, and the end of a park writes none. A
line without a slot leaves the Slot Wait List, which loses nothing else. A slot with an accepted record is released: with no line waiting
it is WARM with its record at the MRU end, or EMPTY at the LRU end if marked for refetch or failed, its lock kept; a locked one stays so
whoever waits. In a
stalled journal, and for a line that holds a summary, the record is folded instead: its kind joins the line's summary and the count
rises by one up to 255; digits or a mark discarded while the journal is stalled set DIGITS_LOST. The sample command brings the same
(log 2). -/
def Obligations.ClearExpiryReleasesTheLine : Prop :=
  ∀ (s : State) (x : LineNo) (loop trip : Bool) (n : Nat),
    let l := s.chip.line x
    l.sampling = .on → l.threshold = .clear n → n ≤ min 65535 (l.interval + 1) → (s.chip.timing x).releaseGuard ≠ 0 →
    l.st ∈ [LineSt.seizeWait, .dialTone, .dialling, .routing, .talk, .recall, .parked] →
    exec (.clearExpiry x loop trip) s = exec (.lineSample x loop trip) s ∧
    ∃ t, exec (.clearExpiry x loop trip) s = .next t ∧ (t.chip.line x).st = .releaseGuard ∧
      (t.chip.line x).guard = some ⟨0, (s.chip.timing x).releaseGuard⟩ ∧ (t.chip.line x).tone = .none ∧
      (t.chip.line x).answered = false ∧ CallOnly s t ∧
      (l.relay = false → l.slot = none → l.st ≠ .parked →
        t.chip.sst = { s.chip.sst with waitList := s.chip.sst.waitList.filter (·.line ≠ x) } ∧ OthersKept x s t) ∧
      (l.relay = false → ∀ k, l.slot = some k → l.st ≠ .parked → (s.chip.slot k).phase = .valid →
        s.chip.sst.waitList = [] ∨ (s.chip.slot k).lock ≠ none →
        (t.chip.slot k).holder = none ∧ (t.chip.slot k).ctx = Ctx.fresh ∧ (t.chip.slot k).refetch = false ∧
        (t.chip.slot k).failed = false ∧ t.chip.sst.waitList = s.chip.sst.waitList ∧ OtherSlotsKept k s t ∧
        ((s.chip.slot k).refetch = false ∧ (s.chip.slot k).failed = false →
          (t.chip.slot k).status = .warm ∧ (t.chip.slot k).recLine = (s.chip.slot k).recLine ∧
          (t.chip.slot k).copy = (s.chip.slot k).copy ∧ t.chip.sst.lru = s.chip.sst.lru.filter (· ≠ k) ++ [k]) ∧
        ((s.chip.slot k).refetch = true ∨ (s.chip.slot k).failed = true →
          (t.chip.slot k).status = .empty ∧ (t.chip.slot k).recLine = none ∧
          t.chip.sst.lru = k :: s.chip.sst.lru.filter (· ≠ k))) ∧
      (Queues x s → s.chip.sst.waitList = [] → l.relay = false →
        OthersKept x s t ∧ (t.chip.line x).slot = (if l.st = .parked then l.slot else none) ∧
        t.chip.jwr.queue = s.chip.jwr.queue ++
          (if l.st = .parked then []
          else if l.st = .talk ∨ l.st = .recall then
            [⟨some x, s.chip.shc.ms, .clear l.st (if l.st = .recall then s.chip.buffered x else 0)⟩]
          else
            [⟨some x, s.chip.shc.ms,
              .abandon l.st (if l.st = .dialling ∨ l.st = .routing then s.chip.buffered x else 0)⟩])) ∧
      (s.chip.shc.run = .running → s.chip.jwr.stall ≠ .none ∨ s.chip.jwr.summaries[x] ≠ none → s.chip.sst.waitList = [] →
        l.relay = false → l.st ≠ .parked → ∀ k, l.slot = some k → (s.chip.slot k).phase = .valid →
        let K := (s.chip.slot k).ctx
        let r : Rec := ⟨some x, s.chip.shc.ms,
          if l.st = .talk ∨ l.st = .recall then .clear l.st (if l.st = .recall then K.buffer.length else 0)
          else .abandon l.st (if l.st = .dialling ∨ l.st = .routing then K.buffer.length else 0)⟩
        let lost : Bool := s.chip.jwr.stall != .none && (!K.buffer.isEmpty || K.mark.isSome)
        t.chip.jwr =
          { s.chip.jwr with
            summaries := s.chip.jwr.summaries.set x
              ((summaryAfter s.chip.jwr.summaries[x] r).map fun m => { m with lost := m.lost || lost }) })

/-- The expiry of a DIGIT threshold in DIALLING, or in RECALL with the record accepted, completes the digit of p pulses in the call
context of the line's slot: 1 to 9 give the digit, 10 gives 0; the pulse count returns to 0 and the dialling timer is restarted. The
digit joins the buffer while that holds fewer than 20, else it is dropped with overflow pending. A buffer that then holds the block
size, with no mark pending, is written as a DIGITS record and emptied while the journal takes records; while it does not, the digits
stay in the buffer and no record is written. Eleven pulses or more give the ERROR mark and end collection with a terminal flush: one
record with flag ERROR where the digits do not exceed the block size and the journal takes records, a terminal mark where it does not;
DIALLING goes to ROUTING with no tone, RECALL stays. The sample command brings the same (log 2). -/
def Obligations.DigitExpiryCompletesTheDigit : Prop :=
  ∀ (s : State) (x : LineNo) (loop trip : Bool) (n : Nat) (k : SlotNo),
    let l := s.chip.line x
    let K := (s.chip.slot k).ctx
    let size := field (s.chip.slot k).copy[1] 0 4
    l.sampling = .on → l.relay = false → l.hook = .off → l.threshold = .digit n → n ≤ min 65535 (l.interval + 1) →
    l.st = .dialling ∨ l.st = .recall ∧ (s.chip.slot k).phase = .valid → l.slot = some k → 1 ≤ K.pulses →
    exec (.digitExpiry x loop trip) s = exec (.lineSample x loop trip) s ∧
    ∃ t, exec (.digitExpiry x loop trip) s = .next t ∧ (t.chip.slot k).ctx.pulses = 0 ∧ OthersKept x s t ∧
      OtherSlotsKept k s t ∧ OnlyChanges [.lines, .slots, .journal, .shelf] s t ∧ (t.chip.line x).slot = some k ∧
      (10 < K.pulses → (t.chip.line x).dialling = none ∧
        (l.st = .dialling → (t.chip.line x).st = .routing ∧ (t.chip.line x).tone = .none) ∧
        (l.st = .recall → (t.chip.line x).st = .recall ∧ (t.chip.line x).tone = l.tone) ∧
        (K.buffer.length < 20 → K.buffer.length + 1 ≤ size ∨ size = 0 →
          (s.chip.taking = true → s.chip.jwr.full = false →
            (t.chip.slot k).ctx = { K with pulses := 0, buffer := [], overflow := false, mark := none } ∧
            t.chip.jwr = { s.chip.jwr with queue := s.chip.jwr.queue ++
              [⟨some x, s.chip.stamp, .digits (K.buffer ++ [.error]) (some .error) K.overflow⟩] }) ∧
          (s.chip.taking = false →
            (t.chip.slot k).ctx =
              { K with
                pulses := 0
                buffer := K.buffer ++ [.error]
                mark := some (.error, K.buffer.length + 1) } ∧
            t.chip.jwr = s.chip.jwr))) ∧
      (K.pulses ≤ 10 →
        let buffer := K.buffer ++ [.value (Fin.ofNat 10 K.pulses)]
        (t.chip.line x).st = l.st ∧ (t.chip.line x).dialling = some ⟨0, 1000 * (s.chip.timing x).dialling⟩ ∧
        (20 ≤ K.buffer.length → size ≠ K.buffer.length →
          (t.chip.slot k).ctx = { K with pulses := 0, overflow := true } ∧ t.chip.jwr = s.chip.jwr) ∧
        (K.buffer.length < 20 → K.mark.isSome = true ∨ K.buffer.length + 1 ≠ size ∨ s.chip.taking = false →
          (t.chip.slot k).ctx = { K with pulses := 0, buffer := buffer } ∧ t.chip.jwr = s.chip.jwr) ∧
        (K.buffer.length < 20 → K.mark = none → K.buffer.length + 1 = size → s.chip.taking = true →
          s.chip.jwr.full = false →
          (t.chip.slot k).ctx = { K with pulses := 0, buffer := [], overflow := false } ∧
          t.chip.jwr =
            { s.chip.jwr with
              queue := s.chip.jwr.queue ++ [⟨some x, s.chip.stamp, .digits buffer none K.overflow⟩] }))

/-! ## The line timers -/

/-- The dial-tone timer's expiry in DIAL_TONE, on-hook or off-hook: the tone is switched to NONE, the slot released, and the line is
PARKED with its park timer started where the delay is not 0; PARK with reason DIAL_TONE_TIMEOUT is written. The released slot is WARM at
the MRU end, or EMPTY at the LRU end if marked. A CLEAR threshold armed in a break stays armed, the break goes on being timed, and it is
judged in PARKED: ended in any window it changes nothing but the hook, and the expiry of the threshold ends the park. -/
def Obligations.DialToneTimeoutParksTheLine : Prop :=
  (∀ (s : State) (x : LineNo), (s.chip.line x).st = .dialTone → timerDue (s.chip.line x).dialTone = true →
    ∃ t, exec (.dialToneTimeout x) s = .next t ∧ (t.chip.line x).st = .parked ∧ (t.chip.line x).tone = .none ∧
      (t.chip.line x).dialTone = none ∧ (t.chip.line x).hook = (s.chip.line x).hook ∧
      (t.chip.line x).interval = (s.chip.line x).interval ∧
      (∀ n, (s.chip.line x).hook = .on → (s.chip.line x).threshold = .clear n → (t.chip.line x).threshold = .clear n) ∧
      (t.chip.line x).park = (if (s.chip.timing x).parkDelay = 0 then none
        else some ⟨0, 1000 * (s.chip.timing x).parkDelay⟩) ∧ CallOnly s t ∧
      (s.chip.sst.waitList = [] → OthersKept x s t ∧ (t.chip.line x).slot = none ∧
        (∀ k, (s.chip.line x).slot = some k → (s.chip.slot k).phase = .valid →
          (t.chip.slot k).holder = none ∧ (t.chip.slot k).ctx = Ctx.fresh ∧ (t.chip.slot k).lock = (s.chip.slot k).lock ∧
          OtherSlotsKept k s t ∧
          (if (s.chip.slot k).refetch = true ∨ (s.chip.slot k).failed = true then
            (t.chip.slot k).status = .empty ∧ (t.chip.slot k).recLine = none ∧
              t.chip.sst.lru = k :: s.chip.sst.lru.filter (· ≠ k)
          else
            (t.chip.slot k).status = .warm ∧ (t.chip.slot k).recLine = (s.chip.slot k).recLine ∧
              t.chip.sst.lru = s.chip.sst.lru.filter (· ≠ k) ++ [k])) ∧
        (Queues x s → t.chip.jwr.queue =
          s.chip.jwr.queue ++ [⟨some x, s.chip.shc.ms, .park .dialToneTimeout⟩]))) ∧
  ∀ (s : State) (x : LineNo) (loop trip : Bool), (s.chip.line x).st = .parked →
    (s.AboutToTurn x true →
      ∃ t, exec (.hookTransition x true trip) s = .next t ∧
        t.chip.line x = { s.chip.line x with hook := .off, run := 0, interval := 0, threshold := .none, mark := true } ∧
        OthersKept x s t ∧ OnlyChanges [.lines] s t) ∧
    ∀ n, (s.chip.line x).sampling = .on → (s.chip.line x).threshold = .clear n →
      n ≤ min 65535 ((s.chip.line x).interval + 1) → (s.chip.timing x).releaseGuard ≠ 0 →
      ∃ t, exec (.clearExpiry x loop trip) s = .next t ∧ (t.chip.line x).st = .releaseGuard ∧
        (t.chip.line x).guard = some ⟨0, (s.chip.timing x).releaseGuard⟩ ∧ (t.chip.line x).park = none ∧ CallOnly s t

/-- The dialling timer's expiry discards the digit in progress and the DIGIT threshold. DIALLING goes to ROUTING with no tone;
RECALL stays, its tone DIAL removed. The buffered digits are flushed with TIMEOUT: in one record where they do not exceed the block
size and the journal takes records, or under a terminal mark where it does not. -/
def Obligations.DiallingTimeoutEndsCollection : Prop :=
  ∀ (s : State) (x : LineNo) (k : SlotNo),
    let l := s.chip.line x
    let K := (s.chip.slot k).ctx
    let size := field (s.chip.slot k).copy[1] 0 4
    l.st = .dialling ∨ l.st = .recall → timerDue l.dialling = true → l.slot = some k →
    ∃ t, exec (.diallingTimeout x) s = .next t ∧
      (l.st = .dialling → (t.chip.line x).st = .routing ∧ (t.chip.line x).tone = .none) ∧
      (l.st = .recall → (t.chip.line x).st = .recall ∧ (t.chip.line x).tone = if l.tone = .dial then .none else l.tone) ∧
      (t.chip.line x).dialling = none ∧ (∀ n, (t.chip.line x).threshold ≠ .digit n) ∧ (t.chip.line x).slot = some k ∧
      (t.chip.slot k).ctx.pulses = 0 ∧ OthersKept x s t ∧ OtherSlotsKept k s t ∧
      OnlyChanges [.lines, .slots, .journal, .shelf] s t ∧
      (s.chip.taking = true → s.chip.jwr.full = false → K.buffer.length ≤ size ∨ size = 0 →
        (t.chip.slot k).ctx = { K with pulses := 0, buffer := [], overflow := false, mark := none } ∧
        t.chip.jwr = { s.chip.jwr with queue :=
          s.chip.jwr.queue ++ [⟨some x, s.chip.stamp, .digits K.buffer (some .timeout) K.overflow⟩] }) ∧
      (s.chip.taking = false → K.buffer.length ≤ size ∨ size = 0 →
        (t.chip.slot k).ctx = { K with pulses := 0, mark := some (.timeout, K.buffer.length) } ∧ t.chip.jwr = s.chip.jwr)

/-- The guard timer's expiry on a line not equipped enters UNEQUIPPED whatever the hook; on an equipped on-hook line it enters IDLE,
with no timer running and no event. An equipped off-hook line is seized, said here where the journal takes the record: SEIZE is written, the
line is in SEIZE_WAIT with its elapsed count at 0, and a slot is requested: it joins the Slot Wait List where none is to be had, and has a
slot fetched that holds no copy of its record; with a copy SEIZE is the first record, and SeizureAsksForASlot says the rest. In PARKED the park timer's expiry
connects HOWLER and starts the howler timer; the howler timer's expiry removes the tone; the line stays PARKED and nothing else
changes. -/
def Obligations.GuardParkAndHowlerTimersExpire : Prop :=
  (∀ (s : State) (x : LineNo), (s.chip.line x).st = .releaseGuard → timerDue (s.chip.line x).guard = true →
    let still := fun m : Line =>
      m.dialTone = none ∧ m.dialling = none ∧ m.guard = none ∧ m.park = none ∧ m.howler = none ∧ m.threshold = .none
    ((s.chip.line x).equipped = false →
      ∃ t, exec (.guardExpiry x) s = .next t ∧ (t.chip.line x).st = .unequipped ∧ (t.chip.line x).sampling = .off ∧
        (t.chip.line x).tone = .none ∧ (t.chip.line x).selector = none ∧ still (t.chip.line x) ∧
        (t.chip.line x).mark = true ∧ OthersKept x s t ∧ OnlyChanges [.lines] s t) ∧
    ((s.chip.line x).equipped = true → (s.chip.line x).hook = .on →
      ∃ t, exec (.guardExpiry x) s = .next t ∧ (t.chip.line x).st = .idle ∧
        (t.chip.line x).sampling = (s.chip.line x).sampling ∧ (t.chip.line x).tone = .none ∧
        still (t.chip.line x) ∧ (t.chip.line x).mark = true ∧ OthersKept x s t ∧ OnlyChanges [.lines] s t) ∧
    ((s.chip.line x).equipped = true → (s.chip.line x).hook = .off → Queues x s →
      let seized := fun t : State =>
        (t.chip.line x).st = .seizeWait ∧ (t.chip.line x).seizure = 0 ∧ (t.chip.line x).tone = .none ∧
          (t.chip.line x).guard = none ∧
          t.chip.jwr = { s.chip.jwr with queue := s.chip.jwr.queue ++ [⟨some x, s.chip.shc.ms, .seize⟩] } ∧ OthersKept x s t
      (∃ t, exec (.guardExpiry x) s = .next t ∧ (t.chip.line x).guard = none ∧ (t.chip.line x).seizure = 0 ∧ CallOnly s t ∧
        (t.chip.line x).st ∈ [LineSt.seizeWait, .dialTone, .parked] ∧
        ∃ more, t.chip.jwr.queue = s.chip.jwr.queue ++ ⟨some x, s.chip.shc.ms, .seize⟩ :: more) ∧
      (s.chip.chooseSlot x = none →
        ∃ t, exec (.guardExpiry x) s = .next t ∧ seized t ∧
          t.chip.sst = { s.chip.sst with waitList := waitTail s.chip.sst.waitList ⟨x, .originate, (s.chip.line x).cls⟩ } ∧
          OnlyChanges [.lines, .slots, .journal] s t) ∧
      ∀ k, s.chip.entry x = none → s.chip.chooseSlot x = some k → (s.chip.slot k).Misses x →
        ∃ t, exec (.guardExpiry x) s = .next t ∧ seized t ∧ (t.chip.line x).slot = some k ∧
          (t.chip.slot k).status = .bound ∧ (t.chip.slot k).phase = .fetching ∧ (t.chip.slot k).holder = some x ∧
          OtherSlotsKept k s t ∧ t.chip.mpt.reqs = s.chip.mpt.reqs ++ [.fetch k] ∧
          OnlyChanges [.lines, .slots, .journal, .port] s t)) ∧
  ∀ (s : State) (x : LineNo), (s.chip.line x).st = .parked →
    (timerDue (s.chip.line x).park = true →
      ∃ t, exec (.parkTimerExpiry x) s = .next t ∧
        (t.chip.line x).unmarked =
          { (s.chip.line x).unmarked with
            tone := .howler
            park := none
            howler := some ⟨0, 1000 * (s.chip.timing x).howler⟩ } ∧
        ((s.chip.line x).tone ≠ .howler → (t.chip.line x).mark = true) ∧ OthersKept x s t ∧ OnlyChanges [.lines] s t) ∧
    (timerDue (s.chip.line x).howler = true →
      ∃ t, exec (.howlerTimerExpiry x) s = .next t ∧
        (t.chip.line x).unmarked = { (s.chip.line x).unmarked with tone := .none, howler := none } ∧
        ((s.chip.line x).tone ≠ .none → (t.chip.line x).mark = true) ∧ OthersKept x s t ∧ OnlyChanges [.lines] s t)

/-! ## Records and core fields -/

/-- One of the first seven words of a record fetch enters the copy of its slot, from the line table at 8 times the line number, and
the next word is requested, which stands behind the requests made (log 9). Nothing else of the slot changes. -/
def Obligations.FetchReadsWordByWord : Prop :=
  ∀ (s : State) (i : SlotNo) (x : LineNo), (s.chip.slot i).recLine = some x → s.chip.serves (.fetch i) = true →
    (s.chip.slot i).status = .bound → (s.chip.slot i).phase = .fetching →
    s.chip.base + s.chip.shc.hdr.lines + 8 * x.val + 8 ≤ Config.ramWords →
    ∀ h : (s.chip.slot i).words < 7,
      ∃ t, exec (.fetchWordRead i) s = .next t ∧
        t.chip.slot i =
          { s.chip.slot i with
            copy := (s.chip.slot i).copy.set (s.chip.slot i).words
              (readWord s.ram (s.chip.base + s.chip.shc.hdr.lines + 8 * x.val + (s.chip.slot i).words)) (by omega)
            words := (s.chip.slot i).words + 1 } ∧
        OtherSlotsKept i s t ∧ t.chip.sst.lru = s.chip.sst.lru ∧ t.chip.sst.waitList = s.chip.sst.waitList ∧
        t.chip.mpt.reqs = s.chip.mpt.reqs.filter (· ≠ .fetch i) ++ [.fetch i] ∧
        t.chip.mpt.coreReads = s.chip.mpt.coreReads ∧ t.chip.mpt.last = s.chip.mpt.last ∧
        OnlyChanges [.slots, .port] s t

/-- A record is valid exactly if its arrangement code names one, its party count is 1 to 4, and 1 where it is SINGLE, every party up to
the count has a load of 1 to 8 and a plan that is not ABSENT, and the block size is 1 to 8. The eighth word ends a fetch. With the
holder in SEIZE_WAIT and a valid record the slot is VALID and the line enters DIAL_TONE with SPECIAL_DIAL or DIAL by the record's flag
and the dial-tone timer started; with an invalid record the line is PARKED and its slot EMPTY. With the holder in RING_WAIT a valid
record that has the ordered party is accepted: the entry waits for nothing more and names its plan; else RECORD_INVALID is raised,
RING_FAILED written, the entry gone, the slot given up, EMPTY where the record was invalid, and the line in IDLE. With the holder in
RECALL a valid record gives DIAL by its flag and starts the dialling timer, and an invalid one leaves the line in RECALL without a
slot. With no holder the record is not checked: the slot is WARM at the MRU end, or EMPTY at the LRU end where it was marked for
refetch. -/
def Obligations.FetchCompleteTakesTheRecord : Prop :=
  (∀ (present : PlanNo → Bool) (copy : Vector Word 8),
    let count := field copy[0] 5 3
    let party := fun p : Nat => copy.toList.getD (1 + p) 0
    recordValid present copy = true ↔
      field copy[0] 8 2 ≠ 3 ∧ (1 ≤ count ∧ count ≤ 4) ∧ (field copy[0] 8 2 = 0 → count = 1) ∧
        (∀ p, 1 ≤ p → p ≤ count → 1 ≤ field (party p) 0 4 ∧ field (party p) 0 4 ≤ 8 ∧
          present (Fin.ofNat 8 (field (party p) 4 3)) = true) ∧
        (1 ≤ field copy[1] 0 4 ∧ field copy[1] 0 4 ≤ 8)) ∧
  ∀ (s : State) (i : SlotNo) (x : LineNo), (s.chip.slot i).recLine = some x → s.chip.serves (.fetch i) = true →
    (s.chip.slot i).status = .bound → (s.chip.slot i).phase = .fetching → (s.chip.slot i).words = 7 →
    s.chip.base + s.chip.shc.hdr.lines + 8 * x.val + 8 ≤ Config.ramWords →
    let copy := (s.chip.slot i).copy.set 7 (readWord s.ram (s.chip.base + s.chip.shc.hdr.lines + 8 * x.val + 7))
    let valid := recordValid s.chip.planPresent copy
    let l := s.chip.line x
    let emptied := fun t : State => (t.chip.line x).slot = none ∧ (t.chip.slot i).status = .empty ∧
      (t.chip.slot i).recLine = none ∧ t.chip.sst.lru = i :: s.chip.sst.lru.filter (· ≠ i)
    ((s.chip.slot i).holder = some x → l.slot = some i → l.st = .seizeWait →
      (valid = true →
        ∃ t, exec (.fetchComplete i) s = .next t ∧ (t.chip.line x).st = .dialTone ∧
          (t.chip.line x).tone = (if flag copy[0] 1 then .specialDial else .dial) ∧
          (t.chip.line x).dialTone = some ⟨0, 1000 * (s.chip.timing x).dialTone⟩ ∧ (t.chip.line x).slot = some i ∧
          t.chip.slot i = { s.chip.slot i with phase := .valid, copy := copy, words := 8 } ∧ OtherSlotsKept i s t ∧
          OthersKept x s t ∧ CallOnly s t ∧
          (Queues x s → t.chip.jwr.queue = s.chip.jwr.queue ++
            [⟨some x, s.chip.shc.ms,
              .toneReady l.seizure (if flag copy[0] 1 then .specialDial else .dial)⟩])) ∧
      (valid = false →
        ∃ t, exec (.fetchComplete i) s = .next t ∧ (t.chip.line x).st = .parked ∧ (t.chip.line x).tone = .none ∧
          t.chip.shc.attention &&& attnFault = attnFault ∧ CallOnly s t ∧
          (s.chip.sst.waitList = [] → emptied t ∧ OtherSlotsKept i s t ∧ OthersKept x s t))) ∧
    ((s.chip.slot i).holder = some x → l.slot = some i → l.st = .ringWait → ∀ e, s.chip.entry x = some e →
      let p := if field copy[0] 8 2 = 0 then 1 else e.party
      let plan := e.plan.getD (Fin.ofNat 8 (field (copy.toList.getD (1 + p) 0) 4 3))
      (valid = true → e.party ≤ field copy[0] 5 3 → s.chip.gen.state ≠ .running → s.chip.gen.overload = false →
        ∃ t, exec (.fetchComplete i) s = .next t ∧ (t.chip.line x).st = .ringWait ∧ (t.chip.line x).slot = some i ∧
          t.chip.slot i = { s.chip.slot i with phase := .valid, copy := copy, words := 8 } ∧ OtherSlotsKept i s t ∧
          t.chip.rsc =
            { s.chip.rsc with
              queue := s.chip.rsc.queue.map fun q =>
                if q.line = x then
                  { q with
                    needsSlot := false
                    fetching := false
                    plan := some (q.plan.getD (Fin.ofNat 8 (field (copy.toList.getD
                      (1 + if field copy[0] 8 2 = 0 then 1 else q.party) 0) 4 3))) }
                else q } ∧
          (s.chip.gen.state = .off → e.notBefore = none → s.chip.planSt plan = .active →
            (s.chip.ord.staging.map (·.1)) ≠ some plan → t.chip.gen.state = .starting) ∧
          (∀ y, t.chip.line y = s.chip.line y) ∧ CallOnly s t) ∧
      (valid = false ∨ field copy[0] 5 3 < e.party → s.chip.sst.waitList = [] →
        ∃ t, exec (.fetchComplete i) s = .next t ∧ (t.chip.line x).st = (if l.equipped then .idle else .unequipped) ∧
          (t.chip.line x).tone = .none ∧ (t.chip.line x).slot = none ∧
          t.chip.rsc = { s.chip.rsc with queue := s.chip.rsc.queue.filter (·.line ≠ x) } ∧
          (t.chip.shc.fault, t.chip.shc.further) =
            offered s.chip.shc.fault s.chip.shc.further ⟨.recordInvalid, some x, 0, s.chip.stamp⟩ ∧
          t.chip.shc.attention &&& attnFault = attnFault ∧ (valid = false → emptied t) ∧
          (valid = true → (s.chip.slot i).refetch = false → (s.chip.slot i).failed = false →
            (t.chip.slot i).status = .warm ∧ (t.chip.slot i).recLine = some x ∧
            t.chip.sst.lru = s.chip.sst.lru.filter (· ≠ i) ++ [i]) ∧
          OtherSlotsKept i s t ∧ OthersKept x s t ∧ CallOnly s t ∧
          (Queues x s → s.chip.jwr.counted + 2 ≤ 32 → t.chip.jwr.queue = s.chip.jwr.queue ++
            [⟨some x, s.chip.shc.ms, .fault .recordInvalid 0⟩,
              ⟨some x, s.chip.shc.ms, .ringFailed (if valid then .party else .record) e.party⟩]))) ∧
    ((s.chip.slot i).holder = some x → l.slot = some i → l.st = .recall →
      (valid = true →
        ∃ t, exec (.fetchComplete i) s = .next t ∧ (t.chip.line x).st = .recall ∧
          (t.chip.line x).tone = (if flag copy[0] 0 then .dial else l.tone) ∧
          (t.chip.line x).dialling = some ⟨0, 1000 * (s.chip.timing x).dialling⟩ ∧ (t.chip.line x).slot = some i ∧
          t.chip.slot i = { s.chip.slot i with phase := .valid, copy := copy, words := 8 } ∧ OtherSlotsKept i s t ∧
          OthersKept x s t ∧ OnlyChanges [.lines, .slots, .port] s t) ∧
      (valid = false → s.chip.sst.waitList = [] →
        ∃ t, exec (.fetchComplete i) s = .next t ∧ (t.chip.line x).st = .recall ∧ (t.chip.line x).tone = l.tone ∧
          (t.chip.line x).dialling = l.dialling ∧ emptied t ∧
          (t.chip.shc.fault, t.chip.shc.further) =
            offered s.chip.shc.fault s.chip.shc.further ⟨.recordInvalid, some x, 0, s.chip.stamp⟩ ∧
          t.chip.shc.attention &&& attnFault = attnFault ∧ OtherSlotsKept i s t ∧ OthersKept x s t ∧
          OnlyChanges [.lines, .slots, .journal, .port, .shelf] s t)) ∧
    ((s.chip.slot i).holder = none → s.chip.sst.waitList = [] →
      ∃ t, exec (.fetchComplete i) s = .next t ∧ (t.chip.slot i).holder = none ∧ (t.chip.slot i).ctx = Ctx.fresh ∧
        (t.chip.slot i).lock = (s.chip.slot i).lock ∧
        ((s.chip.slot i).refetch = false → (t.chip.slot i).status = .warm ∧ (t.chip.slot i).recLine = some x ∧
          (t.chip.slot i).copy = copy ∧ t.chip.sst.lru = s.chip.sst.lru.filter (· ≠ i) ++ [i]) ∧
        ((s.chip.slot i).refetch = true → (t.chip.slot i).status = .empty ∧ (t.chip.slot i).recLine = none ∧
          (t.chip.slot i).refetch = false ∧ t.chip.sst.lru = i :: s.chip.sst.lru.filter (· ≠ i)) ∧
        OtherSlotsKept i s t ∧ OnlyChanges [.slots, .port] s t)

/-- A core-field read while RUNNING: the four core fields take the values of word 0 of the line's record, a running timer keeps its
duration, and the line keeps its state, but that an IDLE line found not equipped enters UNEQUIPPED, an UNEQUIPPED line found
equipped begins its first reading if it is not sampled, and one found not equipped is not sampled. The last read requested gives
INVALIDATE its result OK; before that the next is requested. In STARTING the fields are taken alike and every line keeps its state; a
warm restart begins the first reading of a line found newly equipped, a cold start does not yet; and after the last line the journal is
to be opened. -/
def Obligations.CoreFieldsTakeEffect : Prop :=
  ∀ (s : State) (x : LineNo) (rest : List LineNo), s.chip.mpt.coreReads = x :: rest →
    s.chip.serves .core = true → s.chip.base + s.chip.shc.hdr.lines + 8 * x.val + 8 ≤ Config.ramWords →
    let w := readWord s.ram (s.chip.base + s.chip.shc.hdr.lines + 8 * x.val)
    let l := s.chip.line x
    let taken := fun m : Line => m.equipped = w.getLsbD 15 ∧ m.cls = (if w.getLsbD 14 then .priority else .ordinary) ∧
      m.sig = (match field w 12 2 with | 0 => .pulse | 1 => .tone | _ => .both) ∧ m.tset.val = field w 10 2
    let kept := fun m : Line => m.st = l.st ∧ m.dialTone = l.dialTone ∧
        m.dialling = l.dialling ∧ m.guard = l.guard ∧ m.park = l.park ∧ m.howler = l.howler ∧ m.threshold = l.threshold
    (s.chip.shc.run = .running →
      ∃ t, exec .coreFieldReadComplete s = .next t ∧ taken (t.chip.line x) ∧
        (l.st = .idle → w.getLsbD 15 = false → (t.chip.line x).st = .unequipped ∧ (t.chip.line x).sampling = .off) ∧
        (l.st ≠ .idle ∨ w.getLsbD 15 = true → kept (t.chip.line x) ∧
          (t.chip.line x).sampling =
            if l.st = .unequipped then (if w.getLsbD 15 then (if l.sampling = .off then .first else l.sampling) else .off)
            else l.sampling) ∧
        t.chip.mpt.coreReads = rest ∧
        (rest = [] → t.chip.ord = { s.chip.ord with work := none, result := some .ok }) ∧
        (rest ≠ [] → t.chip.ord = s.chip.ord ∧ t.chip.mpt.reqs = s.chip.mpt.reqs.filter (· ≠ .core) ++ [.core]) ∧
        OthersKept x s t ∧ OnlyChanges [.lines, .orders, .port] s t) ∧
    (s.chip.shc.run = .starting →
      ∃ t, exec .coreFieldReadComplete s = .next t ∧ taken (t.chip.line x) ∧ kept (t.chip.line x) ∧
        (t.chip.line x).sampling =
          (if l.st = .unequipped then
            (if w.getLsbD 15 then (if l.sampling = .off ∧ s.chip.shc.warm = true then .first else l.sampling) else .off)
          else l.sampling) ∧
        t.chip.mpt.coreReads = rest ∧ t.chip.ord = s.chip.ord ∧
        (rest = [] → t.chip.shc = { s.chip.shc with start := .page } ∧ t.chip.jwr = { s.chip.jwr with page := .opening }) ∧
        (rest ≠ [] → t.chip.shc = s.chip.shc ∧ t.chip.jwr = s.chip.jwr) ∧
        OthersKept x s t ∧ OnlyChanges [.lines, .journal, .port, .shelf] s t)

/-! ## The ringing cycle -/

/-- A step boundary that is no cycle wrap and ends no line's ringing: the counter rises by one. For every allocation whose first
burst has been given the relay is closed exactly if the plan is ON, and a cycle is counted at the line's plan wrap; one that waits
for its first burst has it at its plan wrap and is left alone before. A relay that closes sets the line's disagreeing run,
trip run and blank to 0; one that opens sets the trip run to 0 and the blank to the burst blank of the line's timing set; the hook
state and the interval timer are kept. No other line is touched. -/
def Obligations.BoundaryDrivesTheRelays : Prop :=
  ∀ s : State, s.chip.boundaryDue = true → s.chip.ctb.step + 1 < s.chip.shc.hdr.n →
    (∀ x : LineNo, s.chip.ringEnds x = false) →
    (∀ x y : LineNo, (s.chip.line x).slot = (s.chip.line y).slot → (s.chip.line x).slot ≠ none → x = y) →
    ∃ t, exec .stepBoundary s = .next t ∧ t.chip.ctb = { s.chip.ctb with step := s.chip.ctb.step + 1, periods := 0 } ∧
      (∀ (x : LineNo) (k : SlotNo) (a : Alloc), x ∈ s.chip.rsc.allocs → (s.chip.line x).slot = some k →
        (s.chip.slot k).ctx.alloc = some a →
        let n := s.chip.shc.hdr.n
        let on := planOn ((s.chip.ctb.active[a.plan]).getD []) ((s.chip.ctb.step + 1 + n - a.phase) % n)
        let wraps := a.phase = s.chip.ctb.step + 1
        ((s.chip.slot k).ctx.burst = true →
          (t.chip.line x).relay = on ∧
          (wraps → (t.chip.slot k).ctx =
            { (s.chip.slot k).ctx with
              cyclesRung := min 255 ((s.chip.slot k).ctx.cyclesRung + 1)
              alloc := some { a with cyclesLeft := a.cyclesLeft - 1 } }) ∧
          (¬wraps → t.chip.slot k = s.chip.slot k)) ∧
        ((s.chip.slot k).ctx.burst = false →
          (wraps → (t.chip.line x).relay = true ∧ (t.chip.slot k).ctx = { (s.chip.slot k).ctx with burst := true }) ∧
          (¬wraps → t.chip.line x = s.chip.line x ∧ t.chip.slot k = s.chip.slot k))) ∧
      (∀ x : LineNo,
        ((s.chip.line x).relay = false → (t.chip.line x).relay = true →
          t.chip.line x = { s.chip.line x with relay := true, run := 0, tripRun := 0, blank := 0, mark := true }) ∧
        ((s.chip.line x).relay = true → (t.chip.line x).relay = false →
          t.chip.line x =
            { s.chip.line x with relay := false, tripRun := 0, blank := (s.chip.timing x).burstBlank, mark := true })) ∧
      (∀ x : LineNo, x ∉ s.chip.rsc.allocs → t.chip.line x = s.chip.line x) ∧
      OnlyChanges [.lines, .slots, .timebase] s t

/-- At the cycle wrap every staged plan copy becomes the active copy and no plan stays staged; a staged pair becomes the active
capacity and reserve and the staged mode the active mode. The step is 0. Then, while a counter exceeds the active capacity, the newest
ordinary allocation is shed, or the newest of all where none is ordinary; a line shed that fits nowhere again waits in RING_WAIT with
its relay open, its load gone and SHED CAPACITY written. Every entry gains one age, up to 15. Where nothing waits, nothing is shed and
no ringing ends, every allocation has its work of step 0: its relay closed exactly if its plan is ON, a cycle counted at its plan wrap,
its first burst given there. -/
def Obligations.WrapAppliesWhatIsStaged : Prop :=
  (∀ (c : Chip) (n : Nat) (x : LineNo),
    ((∀ v ∈ c.rsc.plt, v ≤ c.rsc.cap) → shedOver n c = c) ∧
    ((∃ v ∈ c.rsc.plt, c.rsc.cap < v) →
      (∃ older newer, c.rsc.allocs = older ++ x :: newer ∧ c.allocClass x = .ordinary ∧
        ∀ y ∈ newer, c.allocClass y = .priority) ∨
        (∃ older, c.rsc.allocs = older ++ [x] ∧ ∀ y ∈ c.rsc.allocs, c.allocClass y = .priority) →
      shedOver (n + 1) c = shedOver n (shedLine .capacity x c))) ∧
  ∀ s : State, s.chip.boundaryDue = true → s.chip.shc.hdr.n ≤ s.chip.ctb.step + 1 →
    let cap := match s.chip.rsc.stagedMode with
      | .normal => (s.chip.rsc.staged.map (·.1)).getD s.chip.rsc.capacity
      | .conserve => s.chip.rsc.conserveCap
    let within := ∀ v ∈ s.chip.rsc.plt, v ≤ cap
    let stays := ∀ x : LineNo, s.chip.ringEnds x = false
    let n := s.chip.shc.hdr.n
    ∃ t, exec .stepBoundary s = .next t ∧ t.chip.ctb.step = 0 ∧ t.chip.ctb.periods = 0 ∧
      (∀ p : PlanNo, t.chip.ctb.staged[p] = none ∧
        t.chip.ctb.active[p] = if (s.chip.ctb.staged[p]).isSome then s.chip.ctb.staged[p] else s.chip.ctb.active[p]) ∧
      t.chip.rsc.staged = none ∧ t.chip.rsc.mode = s.chip.rsc.stagedMode ∧ t.chip.rsc.stagedMode = s.chip.rsc.stagedMode ∧
      (s.chip.rsc.staged = none → t.chip.rsc.capacity = s.chip.rsc.capacity ∧ t.chip.rsc.reserve = s.chip.rsc.reserve) ∧
      (∀ c r, s.chip.rsc.staged = some (c, r) → t.chip.rsc.capacity = c ∧ t.chip.rsc.reserve = r) ∧
      (∀ a, byteAt t.ram a = byteAt s.ram a) ∧ t.pending = s.pending ∧
      (within → stays → s.chip.gen.state ≠ .running → s.chip.gen.state ≠ .off →
        t.chip.rsc.queue = s.chip.rsc.queue.map fun e => { e with age := min 15 (e.age + 1) }) ∧
      (¬within → s.chip.rsc.queue = [] → ∀ (x : LineNo) (k : SlotNo) (a : Alloc), s.chip.rsc.allocs = [x] →
        (s.chip.line x).slot = some k → (s.chip.slot k).ctx.alloc = some a →
        let plan := (t.chip.ctb.active[a.plan]).getD []
        let plt := pltSub n s.chip.rsc.plt plan a.phase a.load
        let e : RingWait := { s.chip.waitsAgain x with age := min 15 (a.age + 1) }
        s.chip.gen.state = .running →
        findOffset n plt plan (requestLoad (s.chip.slot k).copy a.party) (t.chip.rsc.limit e) 0 = none →
        (t.chip.line x).st = .ringWait ∧ (t.chip.line x).relay = false ∧ (t.chip.line x).selector = none ∧
        (t.chip.line x).slot = some k ∧
        t.chip.slot k = { s.chip.slot k with ctx := { (s.chip.slot k).ctx with alloc := none, burst := false } } ∧
        t.chip.rsc.allocs = [] ∧ t.chip.rsc.plt = plt ∧ t.chip.rsc.queue = [e] ∧ OthersKept x s t ∧
        (Queues x s → t.chip.jwr.queue = s.chip.jwr.queue ++
          [⟨some x, s.chip.shc.ms, .shed .capacity a.party a.plan (s.chip.slot k).ctx.cyclesRung a.cyclesLeft⟩])) ∧
      (within → stays → s.chip.rsc.queue = [] →
        (∀ x y : LineNo, (s.chip.line x).slot = (s.chip.line y).slot → (s.chip.line x).slot ≠ none → x = y) →
        t.chip.rsc.allocs = s.chip.rsc.allocs ∧ t.chip.rsc.plt = s.chip.rsc.plt ∧
        (∀ (x : LineNo) (k : SlotNo) (a : Alloc), x ∈ s.chip.rsc.allocs → (s.chip.line x).slot = some k →
          (s.chip.slot k).ctx.alloc = some a →
          let on := planOn ((t.chip.ctb.active[a.plan]).getD []) ((n - a.phase) % n)
          ((s.chip.slot k).ctx.burst = true → (t.chip.line x).relay = on ∧
            (a.phase = 0 → (t.chip.slot k).ctx =
              { (s.chip.slot k).ctx with
                cyclesRung := min 255 ((s.chip.slot k).ctx.cyclesRung + 1)
                alloc := some { a with cyclesLeft := a.cyclesLeft - 1 } }) ∧
            (a.phase ≠ 0 → t.chip.slot k = s.chip.slot k)) ∧
          ((s.chip.slot k).ctx.burst = false →
            (a.phase = 0 → (t.chip.line x).relay = true ∧
              (t.chip.slot k).ctx = { (s.chip.slot k).ctx with burst := true }) ∧
            (a.phase ≠ 0 → t.chip.line x = s.chip.line x ∧ t.chip.slot k = s.chip.slot k))) ∧
        (∀ x : LineNo, x ∉ s.chip.rsc.allocs → t.chip.line x = s.chip.line x))

/-- The boundary at which the only line that rings has rung its ordered cycles: RING_EXPIRED with the cycles rung, the allocation
removed, the slot released, and the line in RELEASE_GUARD with the post-ring guard, or in IDLE (UNEQUIPPED if not equipped) where
that guard is 0. STEP_BOUNDARY brings the same (log 2). -/
def Obligations.RingExpiryEndsTheRinging : Prop :=
  ∀ (s : State) (x : LineNo) (k : SlotNo) (a : Alloc), s.chip.boundaryDue = true →
    s.chip.ctb.step + 1 < s.chip.shc.hdr.n → s.chip.rsc.allocs = [x] → s.chip.rsc.queue = [] →
    s.chip.sst.waitList = [] → (s.chip.line x).slot = some k → (s.chip.slot k).phase = .valid →
    (s.chip.slot k).ctx.alloc = some a → (s.chip.slot k).ctx.burst = true → a.phase = s.chip.ctb.step + 1 →
    a.cyclesLeft = 1 →
    exec (.ringExpiry x) s = exec .stepBoundary s ∧
    ∃ t, exec (.ringExpiry x) s = .next t ∧ t.chip.rsc.allocs = [] ∧ t.chip.rsc.queue = [] ∧
      (t.chip.line x).relay = false ∧ (t.chip.line x).selector = none ∧ (t.chip.line x).slot = none ∧
      (t.chip.slot k).ctx = Ctx.fresh ∧ (t.chip.slot k).holder = none ∧
      ((s.chip.timing x).postRing ≠ 0 → (t.chip.line x).st = .releaseGuard ∧
        (t.chip.line x).guard = some ⟨0, (s.chip.timing x).postRing⟩) ∧
      ((s.chip.timing x).postRing = 0 → (t.chip.line x).st = if (s.chip.line x).equipped then .idle else .unequipped) ∧
      (Queues x s → t.chip.jwr.queue = s.chip.jwr.queue ++
        [⟨some x, s.chip.shc.ms,
          .ringExpired a.party a.plan (min 255 ((s.chip.slot k).ctx.cyclesRung + 1))⟩]) ∧
      OthersKept x s t ∧ OtherSlotsKept k s t

/-- An entry whose wait timer has reached a nonzero admission wait limit expires: RING_FAILED with reason WAIT_EXPIRED, the entry
gone, the slot or the request given up, the line in IDLE, or UNEQUIPPED where it is not equipped. An entry whose not-before has
reached 0 has it none; and with the generator OFF, no overload standing and the entry then ready, the walk starts the generator. -/
def Obligations.QueueTimersRunOut : Prop :=
  ∀ (s : State) (x : LineNo) (e : RingWait), s.chip.entry x = some e →
    (s.chip.rsc.waitLimit ≠ 0 → 1000 * s.chip.rsc.waitLimit ≤ e.wait →
      ∃ t, exec (.waitExpiry x) s = .next t ∧ CallOnly s t ∧
        (t.chip.line x).st = (if (s.chip.line x).equipped then .idle else .unequipped) ∧
        (t.chip.line x).tone = .none ∧
        (s.chip.sst.waitList = [] → t.chip.rsc.queue = s.chip.rsc.queue.filter (·.line ≠ x) ∧
          (t.chip.line x).slot = none ∧ OthersKept x s t ∧
          (Queues x s → t.chip.jwr.queue =
            s.chip.jwr.queue ++ [⟨some x, s.chip.shc.ms, .ringFailed .waitExpired e.party⟩]))) ∧
    (e.notBefore = some 0 → s.chip.gen.state ≠ .running →
      ∃ t, exec (.notBeforeExpiry x) s = .next t ∧ CallOnly s t ∧
        (s.chip.gen.overload = false →
          t.chip.rsc.queue = s.chip.rsc.queue.map (fun q => if q.line = x then { q with notBefore := none } else q) ∧
          (s.chip.gen.state = .off → s.chip.ready { e with notBefore := none } = true →
            t.chip.gen.state = .starting ∧ t.chip.gen.startTimer = some ⟨0, s.chip.gen.startTime⟩) ∧
          (s.chip.gen.state ≠ .off → t.chip.gen.state = s.chip.gen.state) ∧
          OnlyChanges [.scheduler, .generator, .journal, .shelf] s t))

/-! ## Admission -/

/-- Plan step j lies in the segment that begins at or before it, the segments being ON and OFF in turn from the first. The offset search
takes the least k from 1 to N whose offset (c + k) mod N fits: at every cycle step where the plan at that offset is ON the counter with
the load added stays within the limit. It fails exactly if none fits. The limit is the active capacity for a PRIORITY or boosted request
and the capacity less the active reserve for any other. An entry is ready when its slot, its fetch and its not-before are done with and
its plan is ACTIVE, of which no copy is held to be staged, the model's choice (log 17). A walk takes the entries in queue order: one
that is not ready is passed over, one that fits is admitted, one that does not is skipped, or ends the walk if it is pressed. -/
def Obligations.OffsetSearchTakesTheFirstFit : Prop :=
  (∀ (p : Plan) (j : Nat),
    (∀ i < p.length, (p.take i).sum ≤ j → j < (p.take (i + 1)).sum → planOn p j = (i % 2 == 0)) ∧
    (p.sum ≤ j → planOn p j = false)) ∧
  (∀ (n : Nat) (plt : List Nat) (p : Plan) (load limit c : Nat),
    let fit := fun k => ∀ i < n, planOn p ((i + n - (c + k) % n) % n) = true → plt.getD i 0 + load ≤ limit
    (∀ k, findOffset n plt p load limit c = some k ↔ 1 ≤ k ∧ k ≤ n ∧ fit k ∧ ∀ j, 1 ≤ j → j < k → ¬fit j) ∧
    (findOffset n plt p load limit c = none ↔ ∀ k, 1 ≤ k → k ≤ n → ¬fit k)) ∧
  (∀ (r : Rsc) (e : RingWait),
    let cap := if r.mode = .normal then r.capacity else r.conserveCap
    r.limit e = if e.cls = .priority ∨ r.boost ≠ 0 ∧ r.boost ≤ e.age then cap else cap - min r.reserve cap) ∧
  (∀ (c : Chip) (e : RingWait), c.ready e = true ↔
    e.needsSlot = false ∧ e.fetching = false ∧ e.notBefore = none ∧
      ∃ p, e.plan = some p ∧ (c.ctb.active[p]).isSome = true ∧ c.ctb.staged[p] = none ∧ (c.ord.staging.map (·.1)) ≠ some p) ∧
  ∀ (e : RingWait) (es : List RingWait) (c : Chip),
    (c.ready e = false → walkFrom (e :: es) c = walkFrom es c) ∧
    (c.ready e = true → ∀ (p : PlanNo) (segs : Plan) (k : SlotNo), e.plan = some p → c.ctb.active[p] = some segs →
      (c.line e.line).slot = some k →
      let found := findOffset c.shc.hdr.n c.rsc.plt segs (requestLoad (c.slot k).copy e.party) (c.rsc.limit e) c.ctb.step
      (∀ q, found = some q → walkFrom (e :: es) c = walkFrom es (admitRing e p segs (c.slot k).copy q c)) ∧
      (found = none → walkFrom (e :: es) c = if c.rsc.press ≠ 0 ∧ c.rsc.press ≤ e.age then c else walkFrom es c))

/-- What an admission adds to the Phase Load Table a removal takes away: the N counters read as before, and between the two the
counters of the steps where the plan is ON are raised by the load and the others not. The load is that of party 1 of a SINGLE line, of
the ordered party of a SELECTIVE one, and of all parties of a CODED one. A generator that enters RUNNING with one request ready, which
fits at candidate q, admits it: the line is RINGING with its party's selector code, the allocation stands in its slot with the offset
(c + q) mod N, the load committed, its cycles clamped in CONSERVE, the entry gone, and RING_STARTED written, with the delay reckoned as
log 14 says; one that fits nowhere stays as it is. (While a copy of its plan is held to be staged it is not ready: log 17.) -/
def Obligations.RemovalUndoesAdmission : Prop :=
  (∀ (n : Nat) (plt : List Nat) (p : Plan) (phase load : Nat), plt.length = n →
    pltSub n (pltAdd n plt p phase load) p phase load = plt ∧
    ∀ i < n, (pltAdd n plt p phase load).getD i 0 =
      plt.getD i 0 + if planOn p ((i + n - phase) % n) = true then load else 0) ∧
  (∀ (copy : Vector Word 8) (party : Nat),
    let load := fun p : Nat => field (copy.toList.getD (1 + p) 0) 0 4
    (field copy[0] 8 2 = 0 → requestLoad copy party = load 1 ∧ requestSelector copy party = .code 0) ∧
    (field copy[0] 8 2 = 1 → requestLoad copy party = load party ∧
      requestSelector copy party = .code (Fin.ofNat 4 (party - 1))) ∧
    (field copy[0] 8 2 = 2 → requestLoad copy party = ((List.range (field copy[0] 5 3)).map fun p => load (p + 1)).sum ∧
      requestSelector copy party = .bridged)) ∧
  ∀ (s : State) (e : RingWait) (p : PlanNo) (segs : Plan) (k : SlotNo), s.chip.gen.state = .starting →
    timerDue s.chip.gen.startTimer = true → s.chip.rsc.queue = [e] → e.needsSlot = false → e.fetching = false →
    e.notBefore = none → e.plan = some p → s.chip.ctb.active[p] = some segs → s.chip.ctb.staged[p] = none →
    (s.chip.ord.staging.map (·.1)) ≠ some p → (s.chip.line e.line).slot = some k →
    let x := e.line
    let n := s.chip.shc.hdr.n
    let copy := (s.chip.slot k).copy
    let load := requestLoad copy e.party
    let left := if s.chip.rsc.mode = .conserve ∧ (e.cycles = 0 ∨ s.chip.rsc.conserveMax < e.cycles) then
      s.chip.rsc.conserveMax else e.cycles
    let found := findOffset n s.chip.rsc.plt segs load (s.chip.rsc.limit e) s.chip.ctb.step
    let running : Rec := ⟨none, s.chip.shc.ms, .genState .running .starting .startDone 0⟩
    (∀ q, found = some q →
      let phase := (s.chip.ctb.step + q) % n
      ∃ t, exec .genStartDone s = .next t ∧ t.chip.gen.state = .running ∧ (t.chip.line x).st = .ringing ∧
        (t.chip.line x).selector = some (requestSelector copy e.party) ∧ (t.chip.line x).slot = some k ∧
        (t.chip.line x).relay = (s.chip.line x).relay ∧
        t.chip.slot k =
          { s.chip.slot k with
            ctx :=
              { (s.chip.slot k).ctx with
                alloc := some ⟨e.party, p, phase, load, e.cls, e.age, left, requestSelector copy e.party⟩ } } ∧
        t.chip.rsc =
          { s.chip.rsc with
            plt := pltAdd n s.chip.rsc.plt segs phase load
            allocs := s.chip.rsc.allocs ++ [x]
            queue := [] } ∧
        OthersKept x s t ∧ OtherSlotsKept k s t ∧ t.chip.sst.lru = s.chip.sst.lru ∧
        (QueuesShelf s → s.chip.jwr.summaries[x] = none → s.chip.jwr.counted + 2 ≤ 32 →
          t.chip.jwr =
            { s.chip.jwr with
              queue := s.chip.jwr.queue ++
                [running,
                  ⟨some x, s.chip.shc.ms,
                    .ringStarted e.party p e.cls phase q (s.chip.stepRest + (q - 1) * 100) left⟩] }) ∧
        OnlyChanges [.lines, .slots, .scheduler, .generator, .journal, .shelf] s t) ∧
    (found = none →
      ∃ t, exec .genStartDone s = .next t ∧ t.chip.gen.state = .running ∧
        (QueuesShelf s → t.chip.jwr = { s.chip.jwr with queue := s.chip.jwr.queue ++ [running] }) ∧
        OnlyChanges [.generator, .journal, .shelf] s t)

/-! ## Orders -/

/-- Common validation makes its tests in order: an unknown kind and an argument out of its range are BAD_ORDER, a line at or above
the equipped count and an UNEQUIPPED one are NO_LINE, but that LOCK_SLOT, UNLOCK_SLOT and INVALIDATE are not refused for the last. A
refused order changes nothing but the Order Reader, which holds its copy and the result. That the order's own command takes it, with
or without a cell in hand, is the model's reading (log 3). -/
def Obligations.CommonValidationRefuses : Prop :=
  ∀ (i : Instr) (o : OrderCopy) (s : State), Takes i o s →
    let kind := o.kind.toNat
    (kind = 0 ∨ 17 < kind → AnswersOnly i o .badOrder s) ∧
    (1 ≤ kind → kind ≤ 17 → ¬o.ArgsOk → AnswersOnly i o .badOrder s) ∧
    (1 ≤ kind → kind ≤ 17 → o.ArgsOk → ∀ n, o.names n →
      (s.chip.shc.hdr.equipped ≤ n → AnswersOnly i o .noLine s) ∧
      (n < s.chip.shc.hdr.equipped → ∀ h : n < 96, (s.chip.line ⟨n, h⟩).st = .unequipped → ¬o.exempt →
        AnswersOnly i o .noLine s))

/-- RING by the state of the line; an entry joins the queue after the last of its class. In IDLE, and in RELEASE_GUARD on an
equipped on-hook line, the line enters RING_WAIT, an entry with the values ordered joins the queue (not before: the time the guard
had still to run), and a TERMINATE slot is asked for: with none to be had the line joins the Slot Wait List; a slot that holds no
copy of its record is bound and fetched; a fetch that runs without a holder goes on for the line; a WARM slot with its record is
taken at once, and the record accepted, or RING_FAILED written, the line in IDLE again and its entry gone, which leaves a queue that
has its PRIORITY entries first as it was. In every other state nothing changes,
with NO_LINE, LINE_BLOCKED or LINE_BUSY. That the order's own command takes it, with or without a cell in hand, is the model's
reading (log 3). -/
def Obligations.RingActsByLineState : Prop :=
  (∀ (ps os : List RingWait) (e : RingWait), (∀ p ∈ ps, p.cls = .priority) → (∀ o ∈ os, o.cls = .ordinary) →
    (e.cls = .priority → queueTail (ps ++ os) e = ps ++ e :: os) ∧
    (e.cls = .ordinary → queueTail (ps ++ os) e = ps ++ os ++ [e])) ∧
  ∀ (s : State) (x : LineNo) (party plan cycles prio : Word), Ready s → Supervised x s →
    1 ≤ party.toNat → party.toNat ≤ 4 → plan.toNat ≤ 8 → cycles.toNat ≤ 255 → prio.toNat ≤ 1 →
    let l := s.chip.line x
    let i := Instr.ring (word x.val) party plan cycles prio
    let o : OrderCopy := ⟨1, word x.val, party, plan, cycles, prio⟩
    let cls : LineClass := if prio = 1 then .priority else l.cls
    let e : RingWait :=
      { line := x
        party := party.toNat
        plan := if plan.toNat = 8 then none else some (Fin.ofNat 8 plan.toNat)
        cycles := cycles.toNat
        cls := cls
        age := 0
        notBefore :=
          if l.st = .idle then none
          else l.guard.bind fun g => if g.duration - g.elapsed = 0 then none else some (g.duration - g.elapsed)
        needsSlot := true
        fetching := false
        wait := 0 }
    (l.st = .idle ∨ l.st = .releaseGuard ∧ l.equipped = true ∧ l.hook = .on →
      l.slot = none → s.chip.entry x = none →
      (s.chip.chooseSlot x = none →
        ∃ t, exec i s = .next t ∧ (t.chip.line x).st = .ringWait ∧ (t.chip.line x).guard = none ∧
          (t.chip.line x).tone = l.tone ∧ (t.chip.line x).threshold = .none ∧ (t.chip.line x).mark = true ∧
          (t.chip.line x).slot = none ∧ t.chip.rsc = { s.chip.rsc with queue := queueTail s.chip.rsc.queue e } ∧
          t.chip.sst = { s.chip.sst with waitList := waitTail s.chip.sst.waitList ⟨x, .terminate, cls⟩ } ∧
          Answered o .ok s t ∧ OthersKept x s t ∧ OnlyChanges [.lines, .slots, .scheduler, .orders] s t) ∧
      (∀ k, s.chip.chooseSlot x = some k → (s.chip.slot k).Misses x →
        ∃ t, exec i s = .next t ∧ (t.chip.line x).st = .ringWait ∧ (t.chip.line x).guard = none ∧
          (t.chip.line x).slot = some k ∧
          t.chip.rsc =
            { s.chip.rsc with queue := queueTail s.chip.rsc.queue { e with needsSlot := false, fetching := true } } ∧
          (t.chip.slot k).status = .bound ∧ (t.chip.slot k).phase = .fetching ∧ (t.chip.slot k).holder = some x ∧
          (t.chip.slot k).recLine = some x ∧ (t.chip.slot k).ctx = Ctx.fresh ∧
          t.chip.sst.lru = s.chip.sst.lru.filter (· ≠ k) ++ [k] ∧ t.chip.mpt.reqs = s.chip.mpt.reqs ++ [.fetch k] ∧
          OtherSlotsKept k s t ∧ Answered o .ok s t ∧ OthersKept x s t ∧
          OnlyChanges [.lines, .slots, .scheduler, .orders, .port] s t) ∧
      (∀ k, s.chip.chooseSlot x = some k → (s.chip.slot k).status = .bound →
        ∃ t, exec i s = .next t ∧ (t.chip.line x).st = .ringWait ∧ (t.chip.line x).slot = some k ∧
          t.chip.rsc =
            { s.chip.rsc with queue := queueTail s.chip.rsc.queue { e with needsSlot := false, fetching := true } } ∧
          t.chip.slot k =
            { s.chip.slot k with phase := .fetching, holder := some x, recLine := some x, failed := false, ctx := Ctx.fresh } ∧
          OtherSlotsKept k s t ∧ Answered o .ok s t ∧ OthersKept x s t ∧
          OnlyChanges [.lines, .slots, .scheduler, .orders] s t) ∧
      (∀ k, s.chip.chooseSlot x = some k → (s.chip.slot k).status = .warm → (s.chip.slot k).recLine = some x →
        let copy := (s.chip.slot k).copy
        let valid := recordValid s.chip.planPresent copy
        let p := if field copy[0] 8 2 = 0 then 1 else party.toNat
        (valid = true → party.toNat ≤ field copy[0] 5 3 → s.chip.gen.state ≠ .running → s.chip.gen.overload = false →
          ∃ t, exec i s = .next t ∧ (t.chip.line x).st = .ringWait ∧ (t.chip.line x).slot = some k ∧
            t.chip.rsc =
              { s.chip.rsc with
                queue := queueTail s.chip.rsc.queue
                  { e with
                    needsSlot := false
                    plan := some (e.plan.getD (Fin.ofNat 8 (field (copy.toList.getD (1 + p) 0) 4 3))) } } ∧
            (t.chip.slot k).status = .bound ∧ (t.chip.slot k).phase = .valid ∧ (t.chip.slot k).holder = some x ∧
            (t.chip.slot k).ctx = Ctx.fresh ∧ OtherSlotsKept k s t ∧ Answered o .ok s t ∧ OthersKept x s t ∧
            OrderOnly s t) ∧
        (valid = false ∨ field copy[0] 5 3 < party.toNat → s.chip.sst.waitList = [] →
          ∃ t, exec i s = .next t ∧ (t.chip.line x).st = (if l.equipped then .idle else .unequipped) ∧
            (t.chip.line x).slot = none ∧ t.chip.shc.attention &&& attnFault = attnFault ∧
            t.chip.rsc = { s.chip.rsc with queue := (queueTail s.chip.rsc.queue e).filter (·.line ≠ x) } ∧
            (∀ ps os : List RingWait, s.chip.rsc.queue = ps ++ os → (∀ p ∈ ps, p.cls = .priority) →
              (∀ o ∈ os, o.cls = .ordinary) → t.chip.rsc = s.chip.rsc) ∧
            OtherSlotsKept k s t ∧ Answered o .ok s t ∧ OthersKept x s t ∧ OrderOnly s t ∧
            (Queues x s → s.chip.jwr.counted + 2 ≤ 32 → t.chip.jwr.queue = s.chip.jwr.queue ++
              [⟨some x, s.chip.shc.ms, .fault .recordInvalid 0⟩,
                ⟨some x, s.chip.shc.ms, .ringFailed (if valid then .party else .record) party.toNat⟩])))) ∧
    (l.st = .releaseGuard → l.equipped = true → l.hook = .off → AnswersOnly i o .lineBusy s) ∧
    (l.st = .releaseGuard → l.equipped = false → AnswersOnly i o .noLine s) ∧
    (l.st ∈ [LineSt.seizeWait, .dialTone, .dialling, .routing, .talk, .recall, .parked, .ringWait, .ringing] →
      AnswersOnly i o .lineBusy s) ∧
    (l.st = .blocked → AnswersOnly i o .lineBlocked s)

/-- STOP_RING: a RINGING line enters RELEASE_GUARD with the post-ring guard, or IDLE (UNEQUIPPED if not equipped) where that is 0; a
line in RING_WAIT enters IDLE; an answered line in TALK is TOO_LATE, and any other LINE_BUSY, with no change. With no other request
waiting: the allocation and its load are gone and the relay is open at once, the entry is gone, the line holds no slot, and no
record is written. That the order's own command takes it, with or without a cell in hand, is the model's reading (log 3). -/
def Obligations.StopRingActsByLineState : Prop :=
  ∀ (s : State) (x : LineNo), Ready s → Supervised x s →
    let l := s.chip.line x
    let i := Instr.stopRing (word x.val)
    let o : OrderCopy := ⟨2, word x.val, 0, 0, 0, 0⟩
    let rest : LineSt := if l.equipped then .idle else .unequipped
    (l.st = .ringing →
      ∃ t, exec i s = .next t ∧ Answered o .ok s t ∧ OrderOnly s t ∧ (t.chip.line x).tone = .none ∧
        ((s.chip.timing x).postRing ≠ 0 → (t.chip.line x).st = .releaseGuard ∧
          (t.chip.line x).guard = some ⟨0, (s.chip.timing x).postRing⟩) ∧
        ((s.chip.timing x).postRing = 0 → (t.chip.line x).st = rest) ∧
        (s.chip.sst.waitList = [] → s.chip.rsc.queue = [] → ∀ (k : SlotNo) (a : Alloc), l.slot = some k →
          (s.chip.slot k).ctx.alloc = some a →
          (t.chip.line x).relay = false ∧ (t.chip.line x).selector = none ∧ (t.chip.line x).slot = none ∧
            t.chip.rsc =
              { s.chip.rsc with
                plt := pltSub s.chip.shc.hdr.n s.chip.rsc.plt ((s.chip.ctb.active[a.plan]).getD []) a.phase a.load
                allocs := s.chip.rsc.allocs.filter (· ≠ x) } ∧
            OthersKept x s t ∧ OtherSlotsKept k s t ∧
            (s.chip.jwr.stall = .none → t.chip.jwr = s.chip.jwr))) ∧
    (l.st = .ringWait →
      ∃ t, exec i s = .next t ∧ Answered o .ok s t ∧ OrderOnly s t ∧ (t.chip.line x).st = rest ∧
        (t.chip.line x).tone = .none ∧
        (s.chip.sst.waitList = [] →
          t.chip.rsc = { s.chip.rsc with queue := s.chip.rsc.queue.filter (·.line ≠ x) } ∧
            (t.chip.line x).slot = none ∧ OthersKept x s t ∧
            (s.chip.jwr.stall = .none → t.chip.jwr = s.chip.jwr))) ∧
    (l.st = .talk → l.answered = true → AnswersOnly i o .tooLate s) ∧
    (l.st = .talk → l.answered = false → AnswersOnly i o .lineBusy s) ∧
    (l.st ≠ .ringing → l.st ≠ .ringWait → l.st ≠ .talk → AnswersOnly i o .lineBusy s)

/-- DIGIT_SEEN: a PULSE line is WRONG_CLASS; a TONE or BOTH line in DIAL_TONE enters DIALLING with no tone, the dial-tone timer
stopped and the dialling timer started, its buffer untouched; in any other state LINE_BUSY. ENDDIAL in DIAL_TONE and DIALLING
discards the digit in progress, stops the timers and enters ROUTING with no tone; the buffered digits are flushed with FINAL where the
journal takes records, as many full blocks as come before the last record, which carries the flag, the first OVERFLOW if pending; where
it does not they stay under a terminal mark; in any other
state LINE_BUSY. That the order's own command takes it, with or without a cell in hand, is the model's reading (log 3). -/
def Obligations.DialOrdersEndOrBeginDialling : Prop :=
  ∀ (s : State) (x : LineNo), Ready s → Supervised x s →
    let l := s.chip.line x
    let T := s.chip.timing x
    let seen : OrderCopy := ⟨3, word x.val, 0, 0, 0, 0⟩
    let ended : OrderCopy := ⟨4, word x.val, 0, 0, 0, 0⟩
    (l.sig = .pulse → AnswersOnly (.digitSeen (word x.val)) seen .wrongClass s) ∧
    (l.sig ≠ .pulse → l.st = .dialTone →
      ∃ t, exec (.digitSeen (word x.val)) s = .next t ∧ Answered seen .ok s t ∧ (t.chip.line x).st = .dialling ∧
        (t.chip.line x).tone = .none ∧ (t.chip.line x).dialTone = none ∧
        (t.chip.line x).dialling = some ⟨0, 1000 * T.dialling⟩ ∧ (t.chip.line x).slot = l.slot ∧ OthersKept x s t ∧
        OnlyChanges [.lines, .orders] s t) ∧
    (l.sig ≠ .pulse → l.st ≠ .dialTone → AnswersOnly (.digitSeen (word x.val)) seen .lineBusy s) ∧
    (l.st = .dialTone ∨ l.st = .dialling →
      ∃ t, exec (.enddial (word x.val)) s = .next t ∧ Answered ended .ok s t ∧ OrderOnly s t ∧
        (t.chip.line x).st = .routing ∧ (t.chip.line x).tone = .none ∧ (t.chip.line x).dialTone = none ∧
        (t.chip.line x).dialling = none ∧ (t.chip.line x).slot = l.slot ∧ OthersKept x s t ∧
        ∀ k, l.slot = some k →
          let K := (s.chip.slot k).ctx
          let size := field (s.chip.slot k).copy[1] 0 4
          OtherSlotsKept k s t ∧ (t.chip.slot k).ctx.pulses = 0 ∧
          (s.chip.jwr.stall = .none → s.chip.jwr.full = false → K.buffer.length ≤ size ∨ size = 0 →
            (t.chip.slot k).ctx = { K with pulses := 0, buffer := [], overflow := false, mark := none } ∧
            t.chip.jwr =
              { s.chip.jwr with
                queue := s.chip.jwr.queue ++
                  [⟨some x, s.chip.shc.ms, .digits K.buffer (some .final) K.overflow⟩] }) ∧
          (s.chip.jwr.stall = .none → 1 ≤ size → K.buffer.length ≤ 20 →
            let records := flushed x s.chip.shc.ms size .final K.overflow K.buffer
            s.chip.jwr.counted + records.length ≤ 32 →
            (t.chip.slot k).ctx = { K with pulses := 0, buffer := [], overflow := false, mark := none } ∧
            t.chip.jwr = { s.chip.jwr with queue := s.chip.jwr.queue ++ records }) ∧
          (s.chip.jwr.stall ≠ .none → K.buffer.length ≤ size ∨ size = 0 →
            (t.chip.slot k).ctx = { K with pulses := 0, mark := some (.final, K.buffer.length) } ∧
            t.chip.jwr = s.chip.jwr)) ∧
    (l.st ≠ .dialTone → l.st ≠ .dialling → AnswersOnly (.enddial (word x.val)) ended .lineBusy s)

/-- CONNECT in ROUTING and RECALL: the line enters TALK with no tone and the answered mark clear; with no request waiting for a slot
it holds none and an armed CLEAR threshold stays. In RECALL with the record accepted, and in ROUTING with digits or a mark held, the
digits are flushed with FINAL; else no record is written. Any other state is LINE_BUSY, unchanged. That the order's own command
takes it, with or without a cell in hand, is the model's reading (log 3). -/
def Obligations.ConnectEntersTalk : Prop :=
  ∀ (s : State) (x : LineNo), Ready s → Supervised x s →
    let l := s.chip.line x
    let i := Instr.connect (word x.val)
    let o : OrderCopy := ⟨5, word x.val, 0, 0, 0, 0⟩
    (l.st = .routing ∨ l.st = .recall →
      ∃ t, exec i s = .next t ∧ Answered o .ok s t ∧ OrderOnly s t ∧ (t.chip.line x).st = .talk ∧
        (t.chip.line x).tone = .none ∧ (t.chip.line x).answered = false ∧
        (s.chip.sst.waitList = [] → (t.chip.line x).slot = none ∧ (t.chip.line x).hook = l.hook ∧ OthersKept x s t ∧
          (∀ n, l.hook = .on → l.threshold = .clear n → (t.chip.line x).threshold = .clear n) ∧
          (s.chip.jwr.stall = .none →
            (l.slot = none → t.chip.jwr = s.chip.jwr) ∧
            ∀ k, l.slot = some k →
              let K := (s.chip.slot k).ctx
              let size := field (s.chip.slot k).copy[1] 0 4
              let flushes := l.st = .routing ∧ (K.buffer ≠ [] ∨ K.mark.isSome = true) ∨
                l.st = .recall ∧ (s.chip.slot k).phase = .valid
              (¬flushes → t.chip.jwr = s.chip.jwr) ∧
              (flushes → s.chip.jwr.full = false → K.buffer.length ≤ size ∨ size = 0 →
                t.chip.jwr =
                  { s.chip.jwr with
                    queue := s.chip.jwr.queue ++
                      [⟨some x, s.chip.shc.ms, .digits K.buffer (some .final) K.overflow⟩] })))) ∧
    (l.st ≠ .routing → l.st ≠ .recall → AnswersOnly i o .lineBusy s)

/-- TONE connects PROGRESS (bus 3) or NONE (bus 0) in ROUTING and RECALL in place of what was connected, and is LINE_BUSY in every
other state. BLOCK takes an IDLE, PARKED or RELEASE_GUARD line to BLOCKED with no tone and every line timer stopped, finds a BLOCKED
line as it should be, and is LINE_BUSY in any other state. UNBLOCK takes a BLOCKED line to UNEQUIPPED if it is not equipped, else to
IDLE if on-hook and to PARKED with its park timer if off-hook, and finds nothing to do in any other state. All three are NO_LINE for
an UNEQUIPPED line. None writes a record. That the order's own command takes it, with or without a cell in hand, is the model's
reading (log 3). -/
def Obligations.ToneBlockUnblockActByLineState : Prop :=
  ∀ (s : State) (x : LineNo), Ready s → x.val < s.chip.shc.hdr.equipped →
    let l := s.chip.line x
    let T := s.chip.timing x
    let blockO : OrderCopy := ⟨8, word x.val, 0, 0, 0, 0⟩
    let unblockO : OrderCopy := ⟨9, word x.val, 0, 0, 0, 0⟩
    (∀ bus : Word, bus = 0 ∨ bus = 3 →
      let o : OrderCopy := ⟨6, word x.val, bus, 0, 0, 0⟩
      (l.st = .routing ∨ l.st = .recall →
        ∃ t, exec (.tone (word x.val) bus) s = .next t ∧ Answered o .ok s t ∧
          (t.chip.line x).unmarked = { l.unmarked with tone := if bus = 3 then .progress else .none } ∧
          (l.tone ≠ (t.chip.line x).tone → (t.chip.line x).mark = true) ∧ OthersKept x s t ∧
          OnlyChanges [.lines, .orders] s t) ∧
      (l.st = .unequipped → AnswersOnly (.tone (word x.val) bus) o .noLine s) ∧
      (l.st ≠ .routing → l.st ≠ .recall → l.st ≠ .unequipped →
        AnswersOnly (.tone (word x.val) bus) o .lineBusy s)) ∧
    ((l.st = .idle ∨ l.st = .parked ∨ l.st = .releaseGuard →
        ∃ t, exec (.block (word x.val)) s = .next t ∧ Answered blockO .ok s t ∧
          t.chip.line x =
            { l with
              st := .blocked
              tone := .none
              answered := false
              dialTone := none
              dialling := none
              guard := none
              park := none
              howler := none
              threshold := .none
              mark := true } ∧
          OthersKept x s t ∧ OnlyChanges [.lines, .orders] s t) ∧
      (l.st = .blocked → AnswersOnly (.block (word x.val)) blockO .ok s) ∧
      (l.st = .unequipped → AnswersOnly (.block (word x.val)) blockO .noLine s) ∧
      (l.st ∉ [LineSt.idle, .parked, .releaseGuard, .blocked, .unequipped] → AnswersOnly (.block (word x.val)) blockO .lineBusy s)) ∧
    ((l.st = .blocked →
        ∃ t, exec (.unblock (word x.val)) s = .next t ∧ Answered unblockO .ok s t ∧
          (t.chip.line x).st =
            (if l.equipped = false then .unequipped else match l.hook with | .on => .idle | .off => .parked) ∧
          (t.chip.line x).park =
            (if l.equipped = true ∧ l.hook = .off ∧ T.parkDelay ≠ 0 then some ⟨0, 1000 * T.parkDelay⟩ else none) ∧
          (t.chip.line x).tone = .none ∧ (t.chip.line x).hook = l.hook ∧ (t.chip.line x).run = l.run ∧
          (t.chip.line x).mark = true ∧ OthersKept x s t ∧ OnlyChanges [.lines, .orders] s t) ∧
      (l.st = .unequipped → AnswersOnly (.unblock (word x.val)) unblockO .noLine s) ∧
      (l.st ≠ .blocked → l.st ≠ .unequipped → AnswersOnly (.unblock (word x.val)) unblockO .ok s))

/-- CLEAR ends a call in DIAL_TONE, DIALLING, ROUTING, TALK and RECALL: on-hook the line enters RELEASE_GUARD with the release guard
and no record is written; off-hook, and in SEIZE_WAIT either way, it is PARKED with its park timer and PARK CLEARED is the only
record. With no request waiting for a slot it holds none. IDLE, RELEASE_GUARD, PARKED and BLOCKED need nothing; the ring states are
LINE_BUSY. That the order's own command takes it, with or without a cell in hand, is the model's reading (log 3). -/
def Obligations.ClearOrderEndsACall : Prop :=
  ∀ (s : State) (x : LineNo), Ready s → Supervised x s →
    let l := s.chip.line x
    let T := s.chip.timing x
    let i := Instr.clear (word x.val)
    let o : OrderCopy := ⟨7, word x.val, 0, 0, 0, 0⟩
    let call := l.st ∈ [LineSt.dialTone, .dialling, .routing, .talk, .recall]
    (call → l.hook = .on → T.releaseGuard ≠ 0 →
      ∃ t, exec i s = .next t ∧ Answered o .ok s t ∧ OrderOnly s t ∧ (t.chip.line x).st = .releaseGuard ∧
        (t.chip.line x).guard = some ⟨0, T.releaseGuard⟩ ∧ (t.chip.line x).tone = .none ∧
        (t.chip.line x).answered = false ∧ (t.chip.line x).threshold = .none ∧
        (s.chip.sst.waitList = [] → (t.chip.line x).slot = none ∧ OthersKept x s t ∧
          (s.chip.jwr.stall = .none → t.chip.jwr = s.chip.jwr))) ∧
    (call ∧ l.hook = .off ∨ l.st = .seizeWait →
      ∃ t, exec i s = .next t ∧ Answered o .ok s t ∧ OrderOnly s t ∧ (t.chip.line x).st = .parked ∧
        (t.chip.line x).park = (if T.parkDelay = 0 then none else some ⟨0, 1000 * T.parkDelay⟩) ∧
        (t.chip.line x).tone = .none ∧ (t.chip.line x).answered = false ∧ (t.chip.line x).dialTone = none ∧
        (t.chip.line x).dialling = none ∧
        (s.chip.sst.waitList = [] → (t.chip.line x).slot = none ∧ OthersKept x s t ∧
          (Queues x s → t.chip.jwr =
            { s.chip.jwr with queue := s.chip.jwr.queue ++ [⟨some x, s.chip.shc.ms, .park .cleared⟩] }))) ∧
    (l.st ∈ [LineSt.idle, .releaseGuard, .parked, .blocked] → AnswersOnly i o .ok s) ∧
    (l.st = .ringWait ∨ l.st = .ringing → AnswersOnly i o .lineBusy s)

/-- The lock orders. LOCK_SLOT: a line that has a locked slot needs none; with twelve locked, and with none to lock, NO_SLOT; the
slot that holds the line's record is locked as it stands; else the free slot nearest the LRU end is emptied and locked; the slot
locked goes to the MRU end. UNLOCK_SLOT: the line's slot is unlocked as it stands and goes to the MRU end, and a freed one is
granted to the head of the Slot Wait List. FREE_LOCKS unlocks every slot and moves none. That the order's own command takes it, with
or without a cell in hand, is the model's reading (log 3). -/
def Obligations.LockOrdersSetAndClearLocks : Prop :=
  ∀ (s : State) (x : LineNo), Ready s → x.val < s.chip.shc.hdr.equipped →
    let lockO : OrderCopy := ⟨10, word x.val, 0, 0, 0, 0⟩
    let lock := Instr.lockSlot (word x.val)
    let unlockO : OrderCopy := ⟨11, word x.val, 0, 0, 0, 0⟩
    let unlock := Instr.unlockSlot (word x.val)
    let own := fun i : SlotNo => (s.chip.slot i).lock = none ∧ (s.chip.slot i).recLine = some x ∧
      (s.chip.slot i).status ≠ .empty
    let free := fun i : SlotNo => (s.chip.slot i).lock == none && (s.chip.slot i).status != .bound
    ((∃ i, (s.chip.slot i).lock = some x) → AnswersOnly lock lockO .ok s) ∧
    ((∀ i, (s.chip.slot i).lock ≠ some x) → 12 ≤ s.chip.lockedCount → AnswersOnly lock lockO .noSlot s) ∧
    ((∀ i, (s.chip.slot i).lock ≠ some x) → s.chip.lockedCount < 12 →
      (∀ i, own i → (∀ j, own j → j = i) →
        ∃ t, exec lock s = .next t ∧ Answered lockO .ok s t ∧ t.chip.slot i = { s.chip.slot i with lock := some x } ∧
          OtherSlotsKept i s t ∧ t.chip.sst.lru = s.chip.sst.lru.filter (· ≠ i) ++ [i] ∧
          OnlyChanges [.slots, .orders] s t) ∧
      ((∀ i, ¬own i) →
        (∀ i, s.chip.sst.lru.find? free = some i →
          ∃ t, exec lock s = .next t ∧ Answered lockO .ok s t ∧ (t.chip.slot i).status = .empty ∧
            (t.chip.slot i).recLine = none ∧ (t.chip.slot i).lock = some x ∧ OtherSlotsKept i s t ∧
            t.chip.sst.lru = s.chip.sst.lru.filter (· ≠ i) ++ [i] ∧ OnlyChanges [.slots, .orders] s t) ∧
        (s.chip.sst.lru.find? free = none → AnswersOnly lock lockO .noSlot s))) ∧
    ((∀ i, (s.chip.slot i).lock ≠ some x) → AnswersOnly unlock unlockO .ok s) ∧
    (∀ i, (s.chip.slot i).lock = some x → (∀ j, (s.chip.slot j).lock = some x → j = i) →
      (s.chip.sst.waitList = [] ∨ (s.chip.slot i).status = .bound →
        ∃ t, exec unlock s = .next t ∧ Answered unlockO .ok s t ∧ t.chip.slot i = { s.chip.slot i with lock := none } ∧
          OtherSlotsKept i s t ∧ t.chip.sst.lru = s.chip.sst.lru.filter (· ≠ i) ++ [i] ∧
          OnlyChanges [.slots, .orders] s t) ∧
      (∀ e rest, s.chip.sst.waitList = e :: rest → (s.chip.slot i).status ≠ .bound →
        (s.chip.slot i).recLine ≠ some e.line →
        ∃ t, exec unlock s = .next t ∧ Answered unlockO .ok s t ∧ (t.chip.slot i).status = .bound ∧
          (t.chip.slot i).holder = some e.line ∧ (t.chip.slot i).lock = none ∧ (t.chip.line e.line).slot = some i ∧
          t.chip.sst.waitList = rest ∧ OtherSlotsKept i s t ∧ OthersKept e.line s t ∧
          OnlyChanges [.lines, .slots, .scheduler, .orders, .port] s t)) ∧
    (∃ t, exec .freeLocks s = .next t ∧ Answered ⟨12, 0, 0, 0, 0, 0⟩ .ok s t ∧ (∀ i, (t.chip.slot i).lock = none) ∧
      (s.chip.sst.waitList = [] → (∀ i, t.chip.slot i = { s.chip.slot i with lock := none }) ∧
        t.chip.sst.lru = s.chip.sst.lru ∧ OnlyChanges [.slots, .orders] s t))

/-- INVALIDATE of one line, and of every line below the equipped count. At take each slot that holds such a line's record, or is
locked to one, is emptied where it is WARM, its lock kept, and goes to the LRU end; it is marked for refetch where it is BOUND, and
stands where it is EMPTY. The core-field reads are requested in ascending order, and the order stays in hand without a result. That
the order's own command takes it, with or without a cell in hand, is the model's reading (log 3). -/
def Obligations.InvalidateDropsRecordCopies : Prop :=
  ∀ (s : State) (i : Instr) (o : OrderCopy) (xs : List LineNo), Ready s →
    (∃ x : LineNo, x.val < s.chip.shc.hdr.equipped ∧ i = .invalidate (word x.val) ∧ o = ⟨13, word x.val, 0, 0, 0, 0⟩ ∧
        xs = [x]) ∨
      i = .invalidateAll ∧ o = ⟨13, 255, 0, 0, 0, 0⟩ ∧
        xs = (List.finRange 96).filter (fun y => y.val < s.chip.shc.hdr.equipped) →
    let hit := fun k : SlotNo => xs.any fun y => (s.chip.slot k).recLine == some y || (s.chip.slot k).lock == some y
    let gone := fun k : SlotNo => hit k && (s.chip.slot k).status == .warm
    ∃ t, exec i s = .next t ∧
      t.chip.ord =
        { s.chip.ord with read := [], copy := some o, work := some .invalidate, result := none } ∧
      (∀ k : SlotNo,
        (gone k = true → (t.chip.slot k).status = .empty ∧ (t.chip.slot k).recLine = none ∧
          (t.chip.slot k).lock = (s.chip.slot k).lock) ∧
        (hit k = true → (s.chip.slot k).status = .bound → t.chip.slot k = { s.chip.slot k with refetch := true }) ∧
        (hit k = false ∨ (s.chip.slot k).status = .empty → t.chip.slot k = s.chip.slot k)) ∧
      t.chip.sst.lru = s.chip.sst.lru.filter gone ++ s.chip.sst.lru.filter (fun k => !gone k) ∧
      t.chip.sst.waitList = s.chip.sst.waitList ∧ t.chip.mpt.coreReads = xs ∧
      t.chip.mpt.reqs = s.chip.mpt.reqs ++ [.core] ∧ t.chip.mpt.last = s.chip.mpt.last ∧
      OnlyChanges [.slots, .orders, .port] s t

/-- RELOAD_PLAN: refused PLAN_IN_USE where an allocation names the plan, else its read is requested and the order stays in hand.
Each access reads one word, and the next is requested (log 9) until ten are read. Then a count of 2, 4, 6 or 8 with segments of 1 to
60 that sum to N is kept to be staged with the result, unless an allocation now names the plan (PLAN_IN_USE); any other words are
BAD_ORDER. An order that no cell holds has no result word to wait for: its plan is staged at once, the model's choice (log 17).
While a plan copy is kept for its result no entry of the queue that names the plan is eligible, so that no plan in use changes (log 17).
That the order's own command takes it, with or without a cell in hand, is the model's reading (log 3), and so is the access for word 9
(log 40).
Without another request the ten accesses follow one another. -/
def Obligations.ReloadPlanStagesAPlan : Prop :=
  ∀ (s : State) (p : PlanNo),
    let used := ∃ x ∈ s.chip.rsc.allocs, ∃ k a, (s.chip.line x).slot = some k ∧ (s.chip.slot k).ctx.alloc = some a ∧
      a.plan = p
    let i := Instr.reloadPlan (word p.val)
    let o : OrderCopy := ⟨14, word p.val, 0, 0, 0, 0⟩
    (∀ e : RingWait, e.plan = some p → (s.chip.ord.staging.map (·.1)) = some p → s.chip.ready e = false) ∧
    (Ready s →
      (used → AnswersOnly i o .planInUse s) ∧
      (¬used →
        ∃ t, exec i s = .next t ∧
          t.chip.ord =
            { s.chip.ord with read := [], copy := some o, work := some (.reload p), result := none } ∧
          t.chip.mpt.reqs = s.chip.mpt.reqs ++ [.reload] ∧ t.chip.mpt.coreReads = s.chip.mpt.coreReads ∧
          OnlyChanges [.orders, .port] s t)) ∧
    (s.chip.ord.work = some (.reload p) → s.chip.serves .reload = true →
      let a := s.chip.base + s.chip.shc.hdr.plans + 10 * p.val
      let n := s.chip.ord.read.length
      a + 10 ≤ Config.ramWords →
      (n < 9 →
        ∃ t, exec (.reloadPlanReadComplete 0) s = .next t ∧
          t.chip.ord = { s.chip.ord with read := s.chip.ord.read ++ [readWord s.ram (a + n)] } ∧
          t.chip.mpt.reqs = s.chip.mpt.reqs.filter (· ≠ .reload) ++ [.reload] ∧
          t.chip.mpt.coreReads = s.chip.mpt.coreReads ∧ OnlyChanges [.orders, .port] s t) ∧
      ∀ more, n ≤ 9 → 9 - n ≤ more →
        n = 9 ∨ s.chip.mpt.reqs = [.reload] ∧ s.chip.journalWants = false ∧ s.chip.shc.run = .running →
        let ws := s.chip.ord.read ++ (List.range (10 - n)).map fun j => readWord s.ram (a + n + j)
        let w := fun j => (ws.getD j 0).toNat
        let segs := (List.range (w 0)).map fun j => w (1 + j)
        let good := w 0 ∈ [2, 4, 6, 8] ∧ (∀ d ∈ segs, 1 ≤ d ∧ d ≤ 60) ∧ segs.sum = s.chip.shc.hdr.n
        let answered := fun r : Result => { s.chip.ord with read := [], work := none, result := some r }
        ∃ t, exec (.reloadPlanReadComplete more) s = .next t ∧ t.chip.mpt.reqs = s.chip.mpt.reqs.filter (· ≠ .reload) ∧
          (good → ¬used → s.chip.ord.cell ≠ none →
            t.chip.ctb = s.chip.ctb ∧ t.chip.ord = { answered .ok with staging := some (p, segs) }) ∧
          (good → ¬used → s.chip.ord.cell = none →
            t.chip.ctb = { s.chip.ctb with staged := s.chip.ctb.staged.set p (some segs) } ∧
              t.chip.ord = answered .ok) ∧
          (¬good → t.chip.ctb = s.chip.ctb ∧ t.chip.ord = answered .badOrder) ∧
          (good → used → t.chip.ctb = s.chip.ctb ∧ t.chip.ord = answered .planInUse) ∧
          OnlyChanges [.timebase, .orders, .port] s t)

/-! ## Order cells -/

/-- A pass begins at cell 0 with the timer started when the timer has run out and no pass is in progress. A visited cell that reads
POSTED is held, and TAKEN written to it; any other is passed by, the pass ending after cell 31; where the timer has run out by then the
next pass begins as it ends. The six words of the cell in hand
are read one by one; with the last the order is taken, and a result or work is in hand: what that order's own command does, the
model's reading (log 3). The result is written to word 6, with which a plan read by RELOAD_PLAN is staged; then DONE to the state
word, ORDER_DONE set, and the pass goes on. Each write is an access of its own; without another request they follow one another
(logs 9, 27), and a request of a higher class comes between. No other word of RAM changes. -/
def Obligations.OrderCellsAreServed : Prop :=
  ∀ s : State,
    let c := s.chip
    let again : Bool := c.ord.pos == 31 && timerDue c.ord.timer
    let passed : Ord :=
      { c.ord with
        inPass := if c.ord.pos = 31 then again else c.ord.inPass
        pos := if c.ord.pos = 31 then 0 else c.ord.pos + 1
        timer := if again then some ⟨0, c.ord.period⟩ else c.ord.timer }
    let alone := Undisturbed s ∧ c.shc.run = .running
    let crossed := c.journalWants = true ∨ ∃ b, c.readWants = some b ∧ b ≠ .order
    (c.shc.run = .running → c.ord.inPass = false → timerDue c.ord.timer = true →
      ∃ t, exec .orderPass s = .next t ∧
        t.chip.ord = { c.ord with inPass := true, pos := 0, timer := some ⟨0, c.ord.period⟩ } ∧
        OnlyChanges [.orders] s t) ∧
    (c.serves .order = true → c.ord.cell = none → ∀ more,
      let a := c.base + c.shc.hdr.cells + 8 * c.ord.pos.val
      let held : Ord :=
        { c.ord with cell := some c.ord.pos, stage := .found, read := [], copy := none, result := none, staging := none }
      a + 8 ≤ Config.ramWords →
      (readWord s.ram a = 1 → more = 0 ∨ crossed →
        ∃ t, exec (.orderCellVisit more) s = .next t ∧ t.chip.ord = held ∧ OnlyChanges [.orders] s t) ∧
      (readWord s.ram a = 1 → 1 ≤ more → alone → Memory.wf s.ram →
        ∃ t, exec (.orderCellVisit more) s = .next t ∧ readWord t.ram a = 2 ∧ RamKeptOutside a 1 s t ∧
          t.chip.ord = { held with stage := .taken } ∧ OnlyChanges [.orders, .ram] s t) ∧
      (readWord s.ram a ≠ 1 →
        ∃ t, exec (.orderCellVisit more) s = .next t ∧ t.chip.ord = passed ∧ OnlyChanges [.orders] s t)) ∧
    ∀ k, c.ord.cell = some k → c.serves .order = true → ∀ more,
      let a := c.base + c.shc.hdr.cells + 8 * k.val
      a + 8 ≤ Config.ramWords →
      (c.ord.stage = .found → Memory.wf s.ram →
        ∃ t, exec (.orderCellVisit more) s = .next t ∧ readWord t.ram a = 2 ∧ RamKeptOutside a 1 s t ∧
          t.chip.ord = { c.ord with stage := .taken } ∧ OnlyChanges [.orders, .ram] s t) ∧
      (ReadsCell k s →
        let n := c.ord.read.length
        let places := [a + 1, a + 2, a + 3, a + 4, a + 5, a + 7]
        let o := orderOfWords (c.ord.read ++ (places.drop n).map (readWord s.ram))
        (n < 5 → more = 0 ∨ crossed →
          ∃ t, exec (.orderTaken more) s = .next t ∧
            t.chip.ord = { c.ord with read := c.ord.read ++ [readWord s.ram (places.getD n 0)] } ∧
            OnlyChanges [.orders] s t) ∧
        (n ≤ 5 → 5 - n ≤ more → n = 5 ∨ alone →
          (∃ t, exec (.orderTaken more) s = .next t ∧ t.chip.ord.copy = some o ∧ t.chip.ord.cell = some k ∧
            t.chip.ord.read = [] ∧
            OrderOnly { s with chip := { s.chip with sst := t.chip.sst, mpt := t.chip.mpt, ctb := t.chip.ctb } } t ∧
            (t.chip.ord.result.isSome = true ∧ t.chip.ord.work = none ∨
              t.chip.ord.result = none ∧ t.chip.ord.work.isSome = true)) ∧
          ∀ i, Machine.orderOf i = some o → c.shc.run = .running →
            exec (.orderTaken more) s = exec i { s with chip := { c with mpt := { c.mpt with busy := none } } })) ∧
      (∀ r, c.ord.result = some r → Memory.wf s.ram →
        let staged := match c.ord.staging with
          | some (p, segs) => { c.ctb with staged := c.ctb.staged.set p (some segs) }
          | none => c.ctb
        let done : Ord :=
          { passed with
            cell := none
            stage := .found
            read := []
            copy := none
            work := none
            staging := none
            result := none }
        (c.ord.stage = .taken → more = 0 ∨ crossed →
          ∃ t, exec (.orderDone more) s = .next t ∧ readWord t.ram (a + 6) = word r.code ∧ RamKeptOutside (a + 6) 1 s t ∧
            t.chip.ctb = staged ∧ t.chip.ord = { c.ord with stage := .answered, staging := none } ∧
            OnlyChanges [.orders, .timebase, .ram] s t) ∧
        (c.ord.stage = .answered →
          ∃ t, exec (.orderDone more) s = .next t ∧ readWord t.ram a = 3 ∧ RamKeptOutside a 1 s t ∧ t.chip.ord = done ∧
            t.chip.shc = { c.shc with attention := c.shc.attention ||| attnOrderDone } ∧
            OnlyChanges [.orders, .shelf, .ram] s t) ∧
        (c.ord.stage = .taken → 1 ≤ more → alone →
          ∃ t, exec (.orderDone more) s = .next t ∧ readWord t.ram a = 3 ∧ readWord t.ram (a + 6) = word r.code ∧
            (∀ b, b ≠ 2 * a → b ≠ 2 * a + 1 → b ≠ 2 * a + 12 → b ≠ 2 * a + 13 → byteAt t.ram b = byteAt s.ram b) ∧
            t.chip.ctb = staged ∧ t.chip.ord = done ∧
            t.chip.shc = { c.shc with attention := c.shc.attention ||| attnOrderDone } ∧
            OnlyChanges [.orders, .timebase, .shelf, .ram] s t))

/-! ## The journal and the mirror -/

/-- The words of a record: kind, length and line in the first, the time-stamp, then the body of Table 10-12, the digits of a DIGITS
record as Table 10-10 places them (words whose fields the table joins by commas are left out: log 6). The head record of the queue
is written into the open page behind the words used, if it fits in the 62, a word an access (log 9); the last access raises the
words used in the second header word: the record leaves the queue, a summary it carries is gone, the first record of a page starts
the close timer, and a close that waited comes next; the last record of a queue stall ends it by resume. If it does not fit, or a close is asked for, the page is closed by two
accesses: the words used, then CLOSED, with JOURNAL set, the queue kept, the next page to be opened. -/
def Obligations.HeadRecordIsWritten : Prop :=
  (∀ (j : Jwr) (r : Rec),
    let w := fun k : Nat => (r.words j).getD k 0
    let tones := [Tone.none, .dial, .specialDial, .progress, .howler]
    let states := [LineSt.unequipped, .idle, .blocked, .seizeWait, .dialTone, .dialling, .routing, .ringWait, .ringing, .talk,
      .recall, .parked, .releaseGuard]
    let head := fun kind len : Nat => r.body.length = len ∧ (r.words j).length = len ∧ field (w 0) 11 5 = kind ∧
      field (w 0) 8 3 = len - 1 ∧ field (w 0) 0 7 = (match r.line with | some x => x.val | none => 127) ∧ w 1 = r.stamp
    match r.body with
    | .seize => head 1 2
    | .toneReady delay bus => head 2 4 ∧ w 2 = word delay ∧ tones[(w 3).toNat]? = some bus
    | .digits ds f overflow => ds.length ≤ 8 →
      head 3 (3 + (ds.length + 3) / 4) ∧ flag (w 2) 7 = overflow ∧ flag (w 2) 6 = (f == some .error) ∧
        flag (w 2) 5 = (f == some .timeout) ∧ flag (w 2) 4 = (f == some .final) ∧ field (w 2) 0 4 = ds.length ∧
        ∀ k d, ds[k]? = some d →
          field (w (3 + k / 4)) (12 - 4 * (k % 4)) 4 = (match d with | .value n => n.val | .error => 15)
    | .dialRestart n => head 4 3 ∧ w 2 = word n
    | .abandon st n => head 5 4 ∧ states[(w 2).toNat]? = some st ∧ w 3 = word n
    | .park why => head 6 3 ∧ w 2 = (match why with | .dialToneTimeout => 1 | .recordInvalid => 2 | .cleared => 3)
    | .ringStarted _ _ _ _ _ delay left => head 7 6 ∧ w 4 = word delay ∧ w 5 = word left
    | .answer rung _ _ => head 8 4 ∧ w 2 = word rung
    | .ringExpired _ _ rung => head 9 4 ∧ w 3 = word rung
    | .ringFailed _ _ => head 10 3
    | .shed _ _ _ rung carried => head 11 5 ∧ w 3 = word rung ∧ w 4 = word carried
    | .flash st n => head 12 4 ∧ states[(w 2).toNat]? = some st ∧ w 3 = word n
    | .clear st n => head 13 4 ∧ states[(w 2).toNat]? = some st ∧ w 3 = word n
    | .genState _ _ _ _ => head 14 4
    | .fault _ _ => head 15 3
    | .heldSummary code => head 16 5 ∧ w 2 = word code ∧
      ∀ x s, r.line = some x → j.summaries[x] = some s → w 3 = s.kinds
    | .journalResumed n => head 17 3 ∧ w 2 = word n
    | .restartDone warm n => head 18 4 ∧ w 2 = (if warm then 1 else 0) ∧ w 3 = word n) ∧
  ∀ s : State, Memory.wf s.ram → s.chip.serves .journal = true → s.chip.jwr.page = .opened →
    let a := s.chip.base + s.chip.shc.hdr.journal + 64 * s.chip.jwr.index
    let used := s.chip.jwr.used
    let at' := s.chip.jwr.written
    let next := s.chip.jwr.closing = .asked ∨ (s.chip.jwr.closing = .no ∨ s.chip.jwr.closing = .after) ∧
      ∃ r rest, s.chip.jwr.queue = r :: rest ∧ 62 < used + r.body.length
    a + 64 ≤ Config.ramWords →
    (∀ r rest, s.chip.jwr.queue = r :: rest → used + r.body.length ≤ 62 →
      s.chip.jwr.closing = .no ∨ s.chip.jwr.closing = .after →
      (at' < r.body.length →
        ∃ t, exec (.journalWrite 0) s = .next t ∧ readWord t.ram (a + 2 + used + at') = (r.words s.chip.jwr).getD at' 0 ∧
          RamKeptOutside (a + 2 + used + at') 1 s t ∧ t.chip.jwr = { s.chip.jwr with written := at' + 1 } ∧
          OnlyChanges [.journal, .ram] s t) ∧
      (∀ more, at' ≤ r.body.length → r.body.length - at' ≤ more → at' = r.body.length ∨ s.chip.journalOpen = true →
        ∃ t, exec (.journalWrite more) s = .next t ∧
          (∀ j, at' ≤ j → j < r.body.length → readWord t.ram (a + 2 + used + j) = (r.words s.chip.jwr).getD j 0) ∧
          readWord t.ram (a + 1) = pageWord1 (used + r.body.length) ∧
          (∀ b, b < 2 * (a + 1) ∨ 2 * (a + 2) ≤ b →
            b < 2 * (a + 2 + used + at') ∨ 2 * (a + 2 + used + r.body.length) ≤ b → byteAt t.ram b = byteAt s.ram b) ∧
          let wrote : Jwr :=
              { s.chip.jwr with
                queue := rest
                used := used + r.body.length
                written := 0
                closing := if s.chip.jwr.closing = .after then .asked else .no
                closeTimer := if used = 0 then some ⟨0, s.chip.jwr.closeDelay⟩ else s.chip.jwr.closeTimer
                summaries :=
                  if r.body.kind = 16 then
                    match r.line with
                    | some x => s.chip.jwr.summaries.set x none
                    | none => s.chip.jwr.summaries
                  else s.chip.jwr.summaries
                shelf := if r.body.kind = 16 ∧ r.line = none then none else s.chip.jwr.shelf }
          (s.chip.jwr.stall ≠ .queue ∨ rest ≠ [] → t.chip.jwr = wrote ∧ OnlyChanges [.journal, .ram] s t) ∧
          (s.chip.jwr.stall = .queue → rest = [] →
            Resumed { s.chip with jwr := wrote } t.chip ∧ OnlyChanges [.slots, .journal, .shelf, .ram] s t))) ∧
    ((next →
        ∃ t, exec (.journalWrite 0) s = .next t ∧ readWord t.ram (a + 1) = pageWord1 used ∧
          RamKeptOutside (a + 1) 1 s t ∧ t.chip.jwr = { s.chip.jwr with closing := .begun } ∧
          OnlyChanges [.journal, .ram] s t) ∧
      ∀ more, s.chip.jwr.closing = .begun ∨ next ∧ 1 ≤ more ∧ s.chip.journalOpen = true →
        ∃ t, exec (.journalWrite more) s = .next t ∧ readWord t.ram a = pageWord0 pageClosed s.chip.jwr.seq ∧
          (s.chip.jwr.closing ≠ .begun → readWord t.ram (a + 1) = pageWord1 used) ∧
          RamKeptOutside a (if s.chip.jwr.closing = .begun then 1 else 2) s t ∧
          t.chip.shc = { s.chip.shc with attention := s.chip.shc.attention ||| attnJournal } ∧
          t.chip.jwr =
            { s.chip.jwr with
              page := .opening
              closing := .no
              closeTimer := none
              index := if s.chip.shc.hdr.pages ≤ s.chip.jwr.index + 1 then 0 else s.chip.jwr.index + 1 } ∧
          OnlyChanges [.journal, .shelf, .ram] s t)

/-- The header of the page to be opened is read. EMPTY: two accesses follow (log 9), FILLING with the next sequence number (0 for
the first, then modulo 256), and 0, and the page is open. Anything else: a page stall with the STALL flag, set also where a queue
stall becomes one, the model's choice (log 20), the queue keeping only its DIGITS records and the others folded
in order into the summaries of their lines or of the shelf: kind joined, count raised by one up to 255. Read again during a page stall, EMPTY
opens the page and the stall ends by resume: JOURNAL_RESUMED with the number of summaries, a HELD_SUMMARY of each line in ascending number, the
shelf's, then the DIGITS records kept, then digit blocks now due; anything else leaves the stall and starts the
10 ms again. The first page of a start procedure is opened or stalled the same way; with it the records kept in STARTING head the
queue (without the limit of 32: log 30), the clock stands at 0, the power mode is chosen and, in a cold start, the first readings
begin. -/
def Obligations.PageIsOpenedOrStalls : Prop :=
  (∀ (j : Jwr) (r : Rec), j.fold r =
    match r.line with
    | some x => { j with summaries := j.summaries.set x (summaryAfter j.summaries[x] r) }
    | none => { j with shelf := summaryAfter j.shelf r }) ∧
  ∀ s : State, Memory.wf s.ram → s.chip.serves .journal = true → s.chip.jwr.page = .opening →
    let a := s.chip.base + s.chip.shc.hdr.journal + 64 * s.chip.jwr.index
    let seq := if s.chip.jwr.opened then (s.chip.jwr.seq + 1) % 256 else 0
    let empty := field (readWord s.ram a) 14 2 = 0
    let at' := s.chip.jwr.written
    let goes := fun more => at' ≤ 2 ∧ 2 - at' ≤ more ∧ (at' = 2 ∨ s.chip.journalOpen = true) ∧ (at' = 0 → empty)
    let headed := fun t : State => readWord t.ram (a + 1) = 0 ∧ (at' < 2 → readWord t.ram a = pageWord0 pageFilling seq) ∧
      RamKeptOutside (if at' = 2 then a + 1 else a) (if at' = 2 then 1 else 2) s t
    let opened : Jwr := { s.chip.jwr with page := .opened, seq := seq, used := 0, written := 0, opened := true }
    let firstPage := s.chip.shc.run = .starting ∧ s.chip.shc.start = .page
    let folds := fun (q : List Rec) (t : State) =>
      let told := fun line : Option LineNo => q.filter fun r => r.line == line && !(r.body.kind ∈ [3, 16, 17])
      t.chip.jwr.queue = q.filter (fun r => r.body.kind == 3) ∧
        (∀ x : LineNo, t.chip.jwr.summaries[x] = (told (some x)).foldl summaryAfter s.chip.jwr.summaries[x]) ∧
        t.chip.jwr.shelf = (told none).foldl summaryAfter s.chip.jwr.shelf
    let i := fun more => if s.chip.jwr.stall = .page then Instr.pageStallRetry more else .pageOpen more
    a + 64 ≤ Config.ramWords →
    (s.chip.jwr.stall = .page → 10 ≤ s.chip.jwr.retry ∨ at' ≠ 0) →
    (at' = 0 → empty →
      ∃ t, exec (i 0) s = .next t ∧ t.chip.jwr = { s.chip.jwr with written := 1 } ∧ OnlyChanges [.journal] s t) ∧
    (at' = 1 →
      ∃ t, exec (i 0) s = .next t ∧ readWord t.ram a = pageWord0 pageFilling seq ∧ RamKeptOutside a 1 s t ∧
        t.chip.jwr = { s.chip.jwr with written := 2 } ∧ OnlyChanges [.journal, .ram] s t) ∧
    (s.chip.jwr.stall ≠ .page → ¬firstPage → ∀ more,
      (goes more →
        ∃ t, exec (.pageOpen more) s = .next t ∧ headed t ∧ t.chip.jwr = opened ∧ OnlyChanges [.journal, .ram] s t) ∧
      (at' = 0 → ¬empty →
        ∃ t, exec (.pageOpen more) s = .next t ∧ t.chip.jwr.stall = .page ∧ t.chip.jwr.page = .opening ∧
          t.chip.jwr.retry = 0 ∧ t.chip.jwr.seq = s.chip.jwr.seq ∧
          folds s.chip.jwr.queue t ∧
          t.chip.shc = { s.chip.shc with attention := s.chip.shc.attention ||| attnStall } ∧
          OnlyChanges [.journal, .shelf] s t)) ∧
    (s.chip.jwr.stall ≠ .page → firstPage → ∀ more,
      let ran := fun t : State =>
        let mode := if s.chip.shc.warm = true ∧ s.chip.rsc.hold = true ∨
          s.chip.rsc.autoConserve = true ∧ s.chip.shc.mains = true then PowerMode.conserve else .normal
        t.chip.rsc = { s.chip.rsc with mode := mode, stagedMode := mode } ∧
        ∀ x, t.chip.line x =
          if s.chip.shc.warm = false ∧ (s.chip.line x).equipped = true ∧ (s.chip.line x).st = .unequipped then
            { s.chip.line x with sampling := .first, run := 0 }
          else s.chip.line x
      (goes more →
        ∃ t, exec (.pageOpen more) s = .next t ∧ headed t ∧ ran t ∧
          t.chip.jwr = { opened with queue := s.chip.jwr.startRecs ++ s.chip.jwr.queue, startRecs := [] } ∧
          t.chip.shc = { s.chip.shc with start := .readings, ms := 0 } ∧
          OnlyChanges [.lines, .scheduler, .journal, .shelf, .ram] s t) ∧
      (at' = 0 → ¬empty →
        ∃ t, exec (.pageOpen more) s = .next t ∧ ran t ∧ t.chip.jwr.stall = .page ∧ t.chip.jwr.page = .opening ∧
          t.chip.jwr.retry = 0 ∧ t.chip.jwr.startRecs = [] ∧
          folds (s.chip.jwr.startRecs ++ s.chip.jwr.queue) t ∧
          t.chip.shc =
            { s.chip.shc with start := .readings, ms := 0, attention := s.chip.shc.attention ||| attnStall } ∧
          OnlyChanges [.lines, .scheduler, .journal, .shelf] s t)) ∧
    (s.chip.jwr.stall = .page → ∀ more,
      (goes more →
        ∃ t, exec (.pageStallRetry more) s = .next t ∧ headed t ∧ t.chip.jwr.page = .opened ∧ t.chip.jwr.seq = seq ∧
          t.chip.jwr.used = 0 ∧ t.chip.jwr.written = 0 ∧ t.chip.jwr.opened = true ∧ Resumed s.chip t.chip ∧
          OnlyChanges [.slots, .journal, .shelf, .ram] s t) ∧
      (at' = 0 → ¬empty →
        ∃ t, exec (.pageStallRetry more) s = .next t ∧ t.chip.jwr = { s.chip.jwr with retry := 0 } ∧
          OnlyChanges [.journal] s t))

/-- The mirror serves the next marked line above the last served, wrapping: its mark is cleared and its status word, state, hook, tone,
relay and slot, is written to its place in the status array; no other byte of RAM changes. -/
def Obligations.MirrorWritesTheStatusWord : Prop :=
  ∀ (s : State) (x : LineNo), Memory.wf s.ram → s.chip.serves .mirror = true → (s.chip.line x).mark = true →
    (s.chip.mpt.last < x ∧ (∀ y, s.chip.mpt.last < y → y < x → (s.chip.line y).mark = false) ∨
      x ≤ s.chip.mpt.last ∧ (∀ y, s.chip.mpt.last < y ∨ y < x → (s.chip.line y).mark = false)) →
    let a := s.chip.base + s.chip.shc.hdr.status + x.val
    a + 1 ≤ Config.ramWords →
    ∃ t, exec .mirrorWrite s = .next t ∧
      field (readWord t.ram a) 12 4 = (s.chip.line x).st.code ∧
      flag (readWord t.ram a) 11 = ((s.chip.line x).hook == .off && (s.chip.line x).st != .unequipped) ∧
      field (readWord t.ram a) 8 3 = (s.chip.line x).tone.toCode ∧ flag (readWord t.ram a) 7 = (s.chip.line x).relay ∧
      field (readWord t.ram a) 0 5 = (match (s.chip.line x).slot with | some k => k.val | none => 31) ∧
      RamKeptOutside a 1 s t ∧ t.chip.line x = { s.chip.line x with mark := false } ∧ OthersKept x s t ∧
      t.chip.mpt.last = x ∧ t.chip.mpt.reqs = s.chip.mpt.reqs ∧ t.chip.mpt.coreReads = s.chip.mpt.coreReads ∧
      OnlyChanges [.lines, .port, .ram] s t

/-- An access that fails while RUNNING makes the shelf ISOLATED: MEMORY_TIMEOUT is offered, with FAULT set; the queue keeps only its
DIGITS records; a page stays as far as it is written in RAM; the order in hand is abandoned and the pass ended; the core-field and
plan reads end. A failed mirror write leaves its line marked and served last; a failed fetch empties its slot, and a holder asks again at once with its purpose and class: a slot that no other
has of its own comes back to it as a fetch still to be made, behind the fetches held; without a holder the slot stays EMPTY at
the LRU end. While STARTING a failure ends in FAILED with every line UNEQUIPPED (log 32), the generator OFF and the cycle at step 0;
in the plan read, the plans read before it keep their new states and the others are ABSENT, and the timing sets are replaced only
together (log 23; the tenth word of a plan: log 40). -/
def Obligations.MemoryTimeoutIsolatesOrFails : Prop :=
  ∀ s : State,
    (s.chip.shc.run = .running →
      (∀ a ∈ [Access.journal, .core, .reload, .order, .mirror], s.chip.serves a = true →
        ∃ t, exec (.memoryTimeout a) s = .next t ∧ t.chip.shc.run = .isolated ∧
          (t.chip.shc.fault, t.chip.shc.further) =
            offered s.chip.shc.fault s.chip.shc.further ⟨.memoryTimeout, none, 0, s.chip.shc.ms⟩ ∧
          t.chip.shc.attention = s.chip.shc.attention ||| attnFault ∧
          t.chip.jwr.queue = s.chip.jwr.queue.filter (fun r => r.body.kind == 3) ∧ t.chip.jwr.page = s.chip.jwr.page ∧
          t.chip.jwr.used = s.chip.jwr.used ∧ t.chip.jwr.written = 0 ∧ t.chip.jwr.closing = .no ∧
          t.chip.ord = { Ord.reset with period := s.chip.ord.period } ∧ t.chip.mpt.coreReads = [] ∧
          t.chip.mpt.busy = none ∧ (∀ b ∈ t.chip.mpt.reqs, ∃ i, b = .fetch i ∧ b ∈ s.chip.mpt.reqs) ∧
          (∀ x, a = .mirror → s.chip.nextMarked = some x → (t.chip.line x).mark = true ∧ t.chip.mpt.last = x) ∧
          OnlyChanges [.orders, .journal, .port, .shelf] s t) ∧
      (∀ i, s.chip.serves (.fetch i) = true →
        ∃ t, exec (.memoryTimeout (.fetch i)) s = .next t ∧ t.chip.shc.run = .isolated ∧
          (∃ f, t.chip.shc.fault = some f ∧ f.kind.major = true) ∧
          t.chip.ord = { Ord.reset with period := s.chip.ord.period } ∧
          ((s.chip.slot i).holder = none → s.chip.sst.waitList = [] →
            (t.chip.slot i).status = .empty ∧ (t.chip.slot i).holder = none ∧ (t.chip.slot i).recLine = none ∧
              t.chip.sst.lru = i :: s.chip.sst.lru.filter (· ≠ i) ∧ OtherSlotsKept i s t ∧
              OnlyChanges [.slots, .orders, .journal, .port, .shelf] s t) ∧
          (∀ x, (s.chip.slot i).holder = some x → (s.chip.slot i).lock = none ∨ (s.chip.slot i).lock = some x →
            (∀ j, j ≠ i → (s.chip.slot j).lock ≠ some x ∧ (s.chip.slot j).recLine ≠ some x) →
            t.chip.slot i =
              { s.chip.slot i with
                status := .bound
                phase := .fetching
                recLine := some x
                words := 0
                refetch := false
                failed := false
                ctx := Ctx.fresh } ∧
              t.chip.sst.lru = s.chip.sst.lru.filter (· ≠ i) ++ [i] ∧ t.chip.sst.waitList = s.chip.sst.waitList ∧
              (t.chip.line x).slot = some i ∧ (t.chip.line x).st = (s.chip.line x).st ∧
              t.chip.mpt.reqs = s.chip.mpt.reqs.filter (fun a => a matches .fetch _ && a ≠ .fetch i) ++ [.fetch i] ∧
              t.chip.rsc.queue = s.chip.rsc.queue.map (fun e =>
                if e.line = x then { e with needsSlot := false, fetching := true } else e) ∧
              OthersKept x s t ∧ OtherSlotsKept i s t ∧
              OnlyChanges [.lines, .slots, .scheduler, .orders, .journal, .port, .shelf] s t))) ∧
    (s.chip.shc.run = .starting → ∀ a : Access, a = .journal ∨ a = .core ∨ a = .start → s.chip.serves a = true →
      let k := s.chip.mpt.read.length / 10
      let read := fun p : PlanNo => parsePlan s.chip.shc.hdr.n ((s.chip.mpt.read.drop (10 * p.val)).take 10)
      let bad := if s.chip.shc.start = .plans then
        (List.finRange 8).filter fun p => decide (p.val < k) && read p == .malformed else []
      let told := bad.foldl (fun q p => offered q.1 q.2 ⟨.planInvalid, none, p.val, s.chip.stamp⟩)
        (s.chip.shc.fault, s.chip.shc.further)
      ∃ t, exec (.memoryTimeout a) s = .next t ∧ t.chip.shc.run = .failed ∧
        (t.chip.shc.fault, t.chip.shc.further) = offered told.1 told.2 ⟨.memoryTimeout, none, 0, s.chip.stamp⟩ ∧
        t.chip.shc.attention = s.chip.shc.attention ||| attnFault ∧
        (∀ x, (t.chip.line x).st = .unequipped ∧ (t.chip.line x).tone = .none ∧ (t.chip.line x).relay = false ∧
          (t.chip.line x).sampling = .off) ∧
        t.chip.gen.state = .off ∧ t.chip.genEnable = false ∧ t.chip.ctb.step = 0 ∧ t.chip.mpt.busy = none ∧
        t.chip.sets = s.chip.sets ∧
        (s.chip.shc.start ≠ .plans → t.chip.ctb.active = s.chip.ctb.active) ∧
        (s.chip.shc.start = .plans → ∀ p : PlanNo, t.chip.ctb.staged[p] = none ∧ ∀ segs : Plan,
          t.chip.ctb.active[p] = some segs ↔ p.val < k ∧ read p = .good segs) ∧
        t.pending = s.pending ∧ (∀ b, byteAt t.ram b = byteAt s.ram b))

/-! ## The start procedure -/

/-- The header is read, a word an access (log 9). With version 3, equipped count 1 to 96, N 12 to 60, P 2 to 16 and every area
inside the RAM and apart from the others, its structural values are kept, the tuning values are clamped and taken with a Phase Load
Table of N counters at 0, and the timing sets are to be read. Else, and also where the header itself would leave the RAM (log 28),
HEADER_INVALID is offered and the shelf is FAILED with every line UNEQUIPPED. -/
def Obligations.HeaderIsCheckedAndTaken : Prop :=
  ∀ s : State, s.chip.serves .start = true → s.chip.shc.start = .header → s.chip.shc.run = .starting →
    let b := s.chip.base
    let n := s.chip.mpt.read.length
    (n < 47 →
      ∃ t, exec (.headerReadComplete 0) s = .next t ∧
        { t.chip.mpt with busy := none } =
          { s.chip.mpt with busy := none, read := s.chip.mpt.read ++ [readWord s.ram (b + n)] } ∧
        OnlyChanges [.port] s t) ∧
    ∀ more, n ≤ 47 → 47 - n ≤ more →
      let ws := s.chip.mpt.read ++ (List.range (48 - n)).map fun j => readWord s.ram (b + n + j)
      let w := fun j => (ws.getD j 0).toNat
      let areas := [(b, 48), (b + w 18, 64), (b + w 19, 80), (b + w 20, 768), (b + w 21, 96), (b + w 22, 256),
        (b + w 23, 64 * w 16)]
      let ok := w 0 = 3 ∧ (1 ≤ w 1 ∧ w 1 ≤ 96) ∧ (12 ≤ w 2 ∧ w 2 ≤ 60) ∧ (2 ≤ w 16 ∧ w 16 ≤ 16) ∧
        (∀ a ∈ areas, a.1 + a.2 ≤ 32768) ∧ areas.Pairwise (fun a c => a.1 + a.2 ≤ c.1 ∨ c.1 + c.2 ≤ a.1)
      let cap := max 1 (min 255 (w 3))
      let boost := min 15 (w 8)
      let press := min 15 (w 9)
      (ok →
        ∃ t, exec (.headerReadComplete more) s = .next t ∧
          t.chip.shc =
            { s.chip.shc with
              start := .timing
              hdr := ⟨w 1, w 2, w 16, w 18, w 19, w 20, w 21, w 22, w 23⟩ } ∧
          t.chip.rsc =
            { s.chip.rsc with
              plt := List.replicate (w 2) 0
              capacity := cap
              reserve := min cap (w 4)
              conserveCap := max 1 (min 255 (w 5))
              conserveMax := max 1 (min 255 (w 6))
              autoConserve := w 7 % 2 == 1
              boost := boost
              press := if press ≠ 0 ∧ boost ≠ 0 ∧ press < boost then boost else press
              waitLimit := min 120 (w 10)
              staged := none } ∧
          t.chip.gen.startTime = 100 * max 1 (min 20 (w 11)) ∧ t.chip.gen.idleStop = min 600 (w 12) ∧
          t.chip.gen.tripHold = max 1 (min 30 (w 13)) ∧ t.chip.gen.tripWindow = max 10 (min 300 (w 14)) ∧
          t.chip.gen.state = s.chip.gen.state ∧ t.chip.ord = { s.chip.ord with period := max 2 (min 40 (w 15)) } ∧
          t.chip.jwr = { s.chip.jwr with closeDelay := max 1 (min 100 (w 17)) } ∧
          { t.chip.mpt with busy := none } = { s.chip.mpt with busy := none, read := [] } ∧
          OnlyChanges [.scheduler, .generator, .orders, .journal, .port, .shelf] s t) ∧
      (¬ok →
        ∃ t, exec (.headerReadComplete more) s = .next t ∧ t.chip.shc.run = .failed ∧
          (t.chip.shc.fault, t.chip.shc.further) =
            offered s.chip.shc.fault s.chip.shc.further ⟨.headerInvalid, none, 0, s.chip.stamp⟩ ∧
          t.chip.shc.hdr = s.chip.shc.hdr ∧ (∀ x, (t.chip.line x).st = .unequipped) ∧ t.chip.gen.state = .off ∧
          t.chip.ctb.step = 0 ∧ t.pending = s.pending ∧ (∀ c, byteAt t.ram c = byteAt s.ram c))

/-- The timing sets are read, a word an access, the next requested where the step does not make it, as the model has it (log 9), and
words 14 and 15 of each set, not read by Table 10-6, have their accesses too, its choice (log 40); with the last of the 64 words, and not before, by the model's choice (log 23), every value is clamped to its range, then pulse max, flash
min, flash max and interdigit min are repaired in that order. -/
def Obligations.TimingSetsAreClampedAndRepaired : Prop :=
  ∀ s : State, s.chip.serves .start = true → s.chip.shc.start = .timing → s.chip.shc.run = .starting →
    let a := s.chip.base + s.chip.shc.hdr.timing
    let n := s.chip.mpt.read.length
    a + 64 ≤ Config.ramWords →
    (n < 63 →
      ∃ t, exec (.timingSetReadComplete 0) s = .next t ∧
        { t.chip.mpt with busy := none } =
          { s.chip.mpt with busy := none, read := s.chip.mpt.read ++ [readWord s.ram (a + n)] } ∧
        OnlyChanges [.port] s t) ∧
    ∀ more, n ≤ 63 → 63 - n ≤ more →
      let ws := s.chip.mpt.read ++ (List.range (64 - n)).map fun j => readWord s.ram (a + n + j)
      ∃ t, exec (.timingSetReadComplete more) s = .next t ∧ t.chip.shc = { s.chip.shc with start := .plans } ∧
        (∀ k : SetNo,
          let w := fun j => (ws.getD (16 * k.val + j) 0).toNat
          let lim := fun lo hi n => max lo (min hi n)
          let T := t.chip.sets[k]
          T.debounce = lim 2 15 (w 0) ∧ T.pulseMin = lim 10 60 (w 1) ∧ T.pulseMax = max (lim 40 150 (w 2)) T.pulseMin ∧
            T.flashMin = (if lim 60 400 (w 4) ≤ T.pulseMax then T.pulseMax + 2 else lim 60 400 (w 4)) ∧
            T.flashMax = max (lim 200 1500 (w 5)) T.flashMin ∧
            T.interdigit = (if lim 150 600 (w 3) ≤ T.pulseMax then T.pulseMax + 2 else lim 150 600 (w 3)) ∧
            T.dialTone = lim 5 60 (w 6) ∧ T.dialling = lim 3 30 (w 7) ∧ T.releaseGuard = lim 100 2000 (w 8) ∧
            T.postRing = lim 0 1000 (w 9) ∧ T.tripConfirm = lim 2 10 (w 10) ∧ T.burstBlank = lim 0 10 (w 11) ∧
            T.parkDelay = lim 0 120 (w 12) ∧ T.howler = lim 5 120 (w 13)) ∧
        { t.chip.mpt with busy := none } = { s.chip.mpt with busy := none, read := [] } ∧
        OnlyChanges [.sets, .port, .shelf] s t

/-- The plans are read, a word an access (log 9), ten for each plan, the tenth for word 9, which Table 10-7 has not read: that it has an
access is the model's choice (log 40), and with it the 80 words and the bound of 79. With the last of the 80 a well-formed plan is the active copy, one with count 0 or
malformed is ABSENT, nothing stays staged; a malformed one raises PLAN_INVALID with its number, in ascending order, its record kept
ahead of the others. The core fields of every line below the equipped count are to be read. -/
def Obligations.PlansAreReadAtStart : Prop :=
  ∀ s : State, s.chip.serves .start = true → s.chip.shc.start = .plans → s.chip.shc.run = .starting →
    let a := s.chip.base + s.chip.shc.hdr.plans
    let n := s.chip.mpt.read.length
    a + 80 ≤ Config.ramWords →
    (n < 79 →
      ∃ t, exec (.planReadComplete 0) s = .next t ∧
        { t.chip.mpt with busy := none } =
          { s.chip.mpt with busy := none, read := s.chip.mpt.read ++ [readWord s.ram (a + n)] } ∧
        OnlyChanges [.port] s t) ∧
    ∀ more, n ≤ 79 → 79 - n ≤ more →
      let ws := s.chip.mpt.read ++ (List.range (80 - n)).map fun j => readWord s.ram (a + n + j)
      let w := fun (p : PlanNo) j => (ws.getD (10 * p.val + j) 0).toNat
      let segs := fun p => (List.range (w p 0)).map fun j => w p (1 + j)
      let good := fun p =>
        (w p 0 == 2 || w p 0 == 4 || w p 0 == 6 || w p 0 == 8) && (segs p).all (fun d => 1 ≤ d && d ≤ 60) &&
          (segs p).sum == s.chip.shc.hdr.n
      let bad := (List.finRange 8).filter fun p => w p 0 != 0 && !good p
      ∃ t, exec (.planReadComplete more) s = .next t ∧
        (∀ p : PlanNo, t.chip.ctb.staged[p] = none ∧
          t.chip.ctb.active[p] = if w p 0 ≠ 0 ∧ good p = true then some (segs p) else none) ∧
        t.chip.ctb.step = s.chip.ctb.step ∧
        t.chip.jwr =
          { s.chip.jwr with
            startRecs := bad.map (fun p => (⟨none, 0, .fault .planInvalid p.val⟩ : Rec)) ++ s.chip.jwr.startRecs } ∧
        (bad = [] → t.chip.shc = { s.chip.shc with start := .core }) ∧
        (bad ≠ [] → t.chip.shc.attention = s.chip.shc.attention ||| attnFault ∧ t.chip.shc.fault.isSome = true) ∧
        (s.chip.shc.fault = none → s.chip.shc.further ≤ 255 → ∀ p more, bad = p :: more →
          t.chip.shc.fault = some ⟨.planInvalid, none, p.val, s.chip.stamp⟩ ∧
            t.chip.shc.further = min 255 (s.chip.shc.further + more.length)) ∧
        t.chip.shc.start = .core ∧ t.chip.shc.run = s.chip.shc.run ∧
        t.chip.mpt.coreReads = (List.finRange 96).filter (fun y => y.val < s.chip.shc.hdr.equipped) ∧
        t.chip.mpt.reqs = s.chip.mpt.reqs ∧ t.chip.mpt.read = [] ∧ OnlyChanges [.timebase, .journal, .port, .shelf] s t

/-- The start procedure ends when no first reading is left, or at once in a warm restart: RUNNING at cycle step 0 with the first
pass begun at cell 0, every line marked, the lines at and above the equipped count and the unequipped IDLE ones UNEQUIPPED, and
RESTART_DONE with the number of lines in TALK formed before any other record. The SEIZE records of the lines in SEIZE_WAIT follow in
ascending line number, their seizures counted from here, and no other; then the slot requests held are made, each with the class
that the line then has (log 31): with every slot EMPTY each asking line is bound to a slot that is fetched, or listed. -/
def Obligations.ShelfRunningBeginsTheRun : Prop :=
  ∀ s : State, s.chip.shc.run = .starting → s.chip.shc.start = .readings →
    s.chip.shc.warm = true ∨ (∀ x, (s.chip.line x).sampling ≠ .first) →
    let supervised := fun x : LineNo => x.val < s.chip.shc.hdr.equipped
    let st := fun x : LineNo =>
      if ¬supervised x ∨ (s.chip.line x).st = .idle ∧ (s.chip.line x).equipped = false then LineSt.unequipped
      else (s.chip.line x).st
    let done : Rec := ⟨none, s.chip.shc.ms,
      .restartDone s.chip.shc.warm ((List.finRange 96).filter fun x =>
        x.val < s.chip.shc.hdr.equipped && (s.chip.line x).st == .talk).length⟩
    let seizers := (List.finRange 96).filter fun x => x.val < s.chip.shc.hdr.equipped && (s.chip.line x).st == .seizeWait
    ∃ t, exec .shelfRunning s = .next t ∧ t.chip.shc.run = .running ∧ t.chip.shc.start = .none ∧ t.chip.ctb.step = 0 ∧
      t.chip.ctb.periods = 0 ∧
      t.chip.ord = { s.chip.ord with inPass := true, pos := 0, timer := some ⟨0, s.chip.ord.period⟩ } ∧
      t.chip.sets = s.chip.sets ∧ t.pending = s.pending ∧
      (∀ a, byteAt t.ram a = byteAt s.ram a) ∧
      ((∀ x, (s.chip.line x).asking = false ∧ (s.chip.line x).st ≠ .seizeWait) → s.chip.jwr.stall = .none →
        s.chip.jwr.full = false →
        (∀ x, (t.chip.line x).mark = true) ∧ (∀ x, (t.chip.line x).st = st x) ∧
        t.chip.jwr = { s.chip.jwr with queue := s.chip.jwr.queue ++ [done] } ∧
        OnlyChanges [.lines, .timebase, .orders, .journal, .port, .shelf] s t) ∧
      ((∀ x, (s.chip.line x).asking = true → (s.chip.line x).st = .seizeWait ∧ (s.chip.line x).slot = none) →
        (∀ k, (s.chip.slot k).status = .empty ∧ (s.chip.slot k).lock = none) → s.chip.sst.lru.Perm allSlots →
        s.chip.sst.waitList = [] → s.chip.rsc.queue = [] →
        s.chip.jwr.stall = .none → s.chip.jwr.counted + 1 + seizers.length ≤ 32 →
        (∀ x ∈ seizers, s.chip.jwr.summaries[x] = none) →
        t.chip.jwr =
          { s.chip.jwr with
            queue := s.chip.jwr.queue ++ done :: seizers.map fun x => (⟨some x, s.chip.shc.ms, .seize⟩ : Rec) } ∧
        (∀ x, (t.chip.line x).mark = true ∧ (t.chip.line x).st = st x ∧ (t.chip.line x).asking = false) ∧
        (∀ x ∈ seizers, (t.chip.line x).seizure = 0) ∧
        (∀ x, (s.chip.line x).asking = true → supervised x →
          (∃ k, (t.chip.line x).slot = some k ∧ (t.chip.slot k).status = .bound ∧ (t.chip.slot k).phase = .fetching ∧
            (t.chip.slot k).holder = some x ∧ (t.chip.slot k).recLine = some x ∧ .fetch k ∈ t.chip.mpt.reqs) ∨
          (t.chip.line x).slot = none ∧ (⟨x, .originate, (s.chip.line x).cls⟩ : SlotWait) ∈ t.chip.sst.waitList ∧
            (List.finRange 96).countP (fun y => y.val < s.chip.shc.hdr.equipped && (s.chip.line y).asking) > 16) ∧
        OnlyChanges [.lines, .slots, .timebase, .orders, .journal, .port, .shelf] s t)

/-! ## What every step keeps -/

/-- Every step keeps the RAM in its canonical form. -/
def Obligations.StepKeepsRamCanonical : Prop :=
  ∀ s t : State, Memory.wf s.ram → step s = .next t → Memory.wf t.ram

/-- Every step keeps the Slot Store's laws: the LRU stack orders the sixteen slots, at most twelve are locked, and a locked slot holds
no record but its owner's. -/
def Obligations.StepKeepsSlotLaws : Prop := ∀ s t : State, SlotLaws s → step s = .next t → SlotLaws t

/-- The machine never stops: where the Memory Port stands as the start procedure leaves it, every command and the idle step answer a
next state, and it stands so again. No access leaves the RAM. -/
def Obligations.StepNeverStops : Prop :=
  ∀ s : State, Placed s.chip → ∃ t, step s = .next t ∧ Placed t.chip

/-- A MAJOR fault stays in the fault record through every step but FAULT_CLEAR, the write to Control of its command, and power-on
reset. -/
def Obligations.MajorFaultStaysHeld : Prop :=
  ∀ (s t : State) (f : FaultRec), s.chip.shc.fault = some f → f.kind.major = true → step s = .next t →
    (∀ i rest, s.pending = i :: rest → i ≠ .powerOnReset ∧ (∀ sel mask, i ≠ .faultClear sel mask) ∧
      ∀ (w : Word) (more : Nat), w.toNat % 8 = 6 → i ≠ .controlRegisterWrite w more) →
    t.chip.shc.fault = some f

/-- Every step keeps: the millisecond counter even, the idle stop timer stopped unless the generator is idle, and the FAULT flag set
while a fault is held. -/
def Obligations.StepKeepsClockTimerAndFlag : Prop :=
  ∀ s t : State, EvenClock s → IdleTimerLaw s → FaultFlagLaw s → step s = .next t →
    EvenClock t ∧ IdleTimerLaw t ∧ FaultFlagLaw t

/-- Power-on reset, the RESET input, STOP and COLD_RESTART in a run state that takes them leave every slot EMPTY, its holder, record line and
lock owner none, its marks clear and its context fresh, the LRU stack in its reset order, the Slot Wait List empty, every fetch ended,
every line without a slot, and Status with 0 BOUND and 0 locked slots. START, and COLD_RESTART in HALTED, take the Slot Store as they
find it. -/
def Obligations.ResetsAndStopEmptyTheSlotStore : Prop :=
  ∀ (s : State) (sel : Bool) (mask : BitVec 5),
    (∀ i, i = .powerOnReset ∨ i = .resetInput ∨ i = .stop sel mask ∧ s.chip.shc.run ≠ .halted ∨
        i = .coldRestart sel mask ∧ s.chip.shc.run ≠ .halted ∧ s.chip.shc.run ≠ .failed →
      ∃ t, exec i s = .next t ∧ SlotsAtReset t) ∧
    ∀ i, i = .start sel mask ∨ i = .coldRestart sel mask ∧ s.chip.shc.run = .halted →
      ∃ t, exec i s = .next t ∧ t.chip.sst = s.chip.sst ∧ (∀ x, (t.chip.line x).slot = (s.chip.line x).slot) ∧
        (SlotsAtReset s → SlotsAtReset t)
end

