-- ==== Sys2Proof/Laws/State.lean ====
section
/-! SUPPORT. The reads of a chip after each update of one of its parts. -/

namespace Sys2Proof.Machine

/-! ### Chip.modLine -/

@[simp] theorem Chip.modLine_sets (c : Chip) (x : LineNo) (f : Line → Line) : (c.modLine x f).sets = c.sets := rfl
@[simp] theorem Chip.modLine_sst (c : Chip) (x : LineNo) (f : Line → Line) : (c.modLine x f).sst = c.sst := rfl
@[simp] theorem Chip.modLine_ctb (c : Chip) (x : LineNo) (f : Line → Line) : (c.modLine x f).ctb = c.ctb := rfl
@[simp] theorem Chip.modLine_rsc (c : Chip) (x : LineNo) (f : Line → Line) : (c.modLine x f).rsc = c.rsc := rfl
@[simp] theorem Chip.modLine_gen (c : Chip) (x : LineNo) (f : Line → Line) : (c.modLine x f).gen = c.gen := rfl
@[simp] theorem Chip.modLine_ord (c : Chip) (x : LineNo) (f : Line → Line) : (c.modLine x f).ord = c.ord := rfl
@[simp] theorem Chip.modLine_jwr (c : Chip) (x : LineNo) (f : Line → Line) : (c.modLine x f).jwr = c.jwr := rfl
@[simp] theorem Chip.modLine_mpt (c : Chip) (x : LineNo) (f : Line → Line) : (c.modLine x f).mpt = c.mpt := rfl
@[simp] theorem Chip.modLine_shc (c : Chip) (x : LineNo) (f : Line → Line) : (c.modLine x f).shc = c.shc := rfl
@[simp] theorem Chip.modLine_slot (c : Chip) (x : LineNo) (f : Line → Line) (j : SlotNo) : (c.modLine x f).slot j = c.slot j := rfl

/-! ### Chip.mapLines -/

@[simp] theorem Chip.mapLines_sets (c : Chip) (f : Line → Line) : (c.mapLines f).sets = c.sets := rfl
@[simp] theorem Chip.mapLines_sst (c : Chip) (f : Line → Line) : (c.mapLines f).sst = c.sst := rfl
@[simp] theorem Chip.mapLines_ctb (c : Chip) (f : Line → Line) : (c.mapLines f).ctb = c.ctb := rfl
@[simp] theorem Chip.mapLines_rsc (c : Chip) (f : Line → Line) : (c.mapLines f).rsc = c.rsc := rfl
@[simp] theorem Chip.mapLines_gen (c : Chip) (f : Line → Line) : (c.mapLines f).gen = c.gen := rfl
@[simp] theorem Chip.mapLines_ord (c : Chip) (f : Line → Line) : (c.mapLines f).ord = c.ord := rfl
@[simp] theorem Chip.mapLines_jwr (c : Chip) (f : Line → Line) : (c.mapLines f).jwr = c.jwr := rfl
@[simp] theorem Chip.mapLines_mpt (c : Chip) (f : Line → Line) : (c.mapLines f).mpt = c.mpt := rfl
@[simp] theorem Chip.mapLines_shc (c : Chip) (f : Line → Line) : (c.mapLines f).shc = c.shc := rfl
@[simp] theorem Chip.mapLines_slot (c : Chip) (f : Line → Line) (j : SlotNo) : (c.mapLines f).slot j = c.slot j := rfl

/-! ### Chip.modSlot -/

@[simp] theorem Chip.modSlot_lines (c : Chip) (i : SlotNo) (f : Slot → Slot) : (c.modSlot i f).lines = c.lines := rfl
@[simp] theorem Chip.modSlot_sets (c : Chip) (i : SlotNo) (f : Slot → Slot) : (c.modSlot i f).sets = c.sets := rfl
@[simp] theorem Chip.modSlot_ctb (c : Chip) (i : SlotNo) (f : Slot → Slot) : (c.modSlot i f).ctb = c.ctb := rfl
@[simp] theorem Chip.modSlot_rsc (c : Chip) (i : SlotNo) (f : Slot → Slot) : (c.modSlot i f).rsc = c.rsc := rfl
@[simp] theorem Chip.modSlot_gen (c : Chip) (i : SlotNo) (f : Slot → Slot) : (c.modSlot i f).gen = c.gen := rfl
@[simp] theorem Chip.modSlot_ord (c : Chip) (i : SlotNo) (f : Slot → Slot) : (c.modSlot i f).ord = c.ord := rfl
@[simp] theorem Chip.modSlot_jwr (c : Chip) (i : SlotNo) (f : Slot → Slot) : (c.modSlot i f).jwr = c.jwr := rfl
@[simp] theorem Chip.modSlot_mpt (c : Chip) (i : SlotNo) (f : Slot → Slot) : (c.modSlot i f).mpt = c.mpt := rfl
@[simp] theorem Chip.modSlot_shc (c : Chip) (i : SlotNo) (f : Slot → Slot) : (c.modSlot i f).shc = c.shc := rfl
@[simp] theorem Chip.modSlot_line (c : Chip) (i : SlotNo) (f : Slot → Slot) (y : LineNo) : (c.modSlot i f).line y = c.line y := rfl

/-! ### Chip.setLru -/

@[simp] theorem Chip.setLru_lines (c : Chip) (l : List SlotNo) : (c.setLru l).lines = c.lines := rfl
@[simp] theorem Chip.setLru_sets (c : Chip) (l : List SlotNo) : (c.setLru l).sets = c.sets := rfl
@[simp] theorem Chip.setLru_ctb (c : Chip) (l : List SlotNo) : (c.setLru l).ctb = c.ctb := rfl
@[simp] theorem Chip.setLru_rsc (c : Chip) (l : List SlotNo) : (c.setLru l).rsc = c.rsc := rfl
@[simp] theorem Chip.setLru_gen (c : Chip) (l : List SlotNo) : (c.setLru l).gen = c.gen := rfl
@[simp] theorem Chip.setLru_ord (c : Chip) (l : List SlotNo) : (c.setLru l).ord = c.ord := rfl
@[simp] theorem Chip.setLru_jwr (c : Chip) (l : List SlotNo) : (c.setLru l).jwr = c.jwr := rfl
@[simp] theorem Chip.setLru_mpt (c : Chip) (l : List SlotNo) : (c.setLru l).mpt = c.mpt := rfl
@[simp] theorem Chip.setLru_shc (c : Chip) (l : List SlotNo) : (c.setLru l).shc = c.shc := rfl
@[simp] theorem Chip.setLru_line (c : Chip) (l : List SlotNo) (y : LineNo) : (c.setLru l).line y = c.line y := rfl

/-! ### Chip.setWaitList -/

@[simp] theorem Chip.setWaitList_lines (c : Chip) (l : List SlotWait) : (c.setWaitList l).lines = c.lines := rfl
@[simp] theorem Chip.setWaitList_sets (c : Chip) (l : List SlotWait) : (c.setWaitList l).sets = c.sets := rfl
@[simp] theorem Chip.setWaitList_ctb (c : Chip) (l : List SlotWait) : (c.setWaitList l).ctb = c.ctb := rfl
@[simp] theorem Chip.setWaitList_rsc (c : Chip) (l : List SlotWait) : (c.setWaitList l).rsc = c.rsc := rfl
@[simp] theorem Chip.setWaitList_gen (c : Chip) (l : List SlotWait) : (c.setWaitList l).gen = c.gen := rfl
@[simp] theorem Chip.setWaitList_ord (c : Chip) (l : List SlotWait) : (c.setWaitList l).ord = c.ord := rfl
@[simp] theorem Chip.setWaitList_jwr (c : Chip) (l : List SlotWait) : (c.setWaitList l).jwr = c.jwr := rfl
@[simp] theorem Chip.setWaitList_mpt (c : Chip) (l : List SlotWait) : (c.setWaitList l).mpt = c.mpt := rfl
@[simp] theorem Chip.setWaitList_shc (c : Chip) (l : List SlotWait) : (c.setWaitList l).shc = c.shc := rfl
@[simp] theorem Chip.setWaitList_line (c : Chip) (l : List SlotWait) (y : LineNo) : (c.setWaitList l).line y = c.line y := rfl

/-! ### Chip.modMpt -/

@[simp] theorem Chip.modMpt_lines (c : Chip) (f : Mpt → Mpt) : (c.modMpt f).lines = c.lines := rfl
@[simp] theorem Chip.modMpt_sets (c : Chip) (f : Mpt → Mpt) : (c.modMpt f).sets = c.sets := rfl
@[simp] theorem Chip.modMpt_sst (c : Chip) (f : Mpt → Mpt) : (c.modMpt f).sst = c.sst := rfl
@[simp] theorem Chip.modMpt_ctb (c : Chip) (f : Mpt → Mpt) : (c.modMpt f).ctb = c.ctb := rfl
@[simp] theorem Chip.modMpt_rsc (c : Chip) (f : Mpt → Mpt) : (c.modMpt f).rsc = c.rsc := rfl
@[simp] theorem Chip.modMpt_gen (c : Chip) (f : Mpt → Mpt) : (c.modMpt f).gen = c.gen := rfl
@[simp] theorem Chip.modMpt_ord (c : Chip) (f : Mpt → Mpt) : (c.modMpt f).ord = c.ord := rfl
@[simp] theorem Chip.modMpt_jwr (c : Chip) (f : Mpt → Mpt) : (c.modMpt f).jwr = c.jwr := rfl
@[simp] theorem Chip.modMpt_shc (c : Chip) (f : Mpt → Mpt) : (c.modMpt f).shc = c.shc := rfl
@[simp] theorem Chip.modMpt_line (c : Chip) (f : Mpt → Mpt) (y : LineNo) : (c.modMpt f).line y = c.line y := rfl
@[simp] theorem Chip.modMpt_slot (c : Chip) (f : Mpt → Mpt) (j : SlotNo) : (c.modMpt f).slot j = c.slot j := rfl
@[simp] theorem Chip.modMpt_mpt (c : Chip) (f : Mpt → Mpt) : (c.modMpt f).mpt = f c.mpt := rfl

/-! ### Chip.modJwr -/

@[simp] theorem Chip.modJwr_lines (c : Chip) (f : Jwr → Jwr) : (c.modJwr f).lines = c.lines := rfl
@[simp] theorem Chip.modJwr_sets (c : Chip) (f : Jwr → Jwr) : (c.modJwr f).sets = c.sets := rfl
@[simp] theorem Chip.modJwr_sst (c : Chip) (f : Jwr → Jwr) : (c.modJwr f).sst = c.sst := rfl
@[simp] theorem Chip.modJwr_ctb (c : Chip) (f : Jwr → Jwr) : (c.modJwr f).ctb = c.ctb := rfl
@[simp] theorem Chip.modJwr_rsc (c : Chip) (f : Jwr → Jwr) : (c.modJwr f).rsc = c.rsc := rfl
@[simp] theorem Chip.modJwr_gen (c : Chip) (f : Jwr → Jwr) : (c.modJwr f).gen = c.gen := rfl
@[simp] theorem Chip.modJwr_ord (c : Chip) (f : Jwr → Jwr) : (c.modJwr f).ord = c.ord := rfl
@[simp] theorem Chip.modJwr_mpt (c : Chip) (f : Jwr → Jwr) : (c.modJwr f).mpt = c.mpt := rfl
@[simp] theorem Chip.modJwr_shc (c : Chip) (f : Jwr → Jwr) : (c.modJwr f).shc = c.shc := rfl
@[simp] theorem Chip.modJwr_line (c : Chip) (f : Jwr → Jwr) (y : LineNo) : (c.modJwr f).line y = c.line y := rfl
@[simp] theorem Chip.modJwr_slot (c : Chip) (f : Jwr → Jwr) (j : SlotNo) : (c.modJwr f).slot j = c.slot j := rfl
@[simp] theorem Chip.modJwr_jwr (c : Chip) (f : Jwr → Jwr) : (c.modJwr f).jwr = f c.jwr := rfl

/-! ### Chip.modRsc -/

@[simp] theorem Chip.modRsc_lines (c : Chip) (f : Rsc → Rsc) : (c.modRsc f).lines = c.lines := rfl
@[simp] theorem Chip.modRsc_sets (c : Chip) (f : Rsc → Rsc) : (c.modRsc f).sets = c.sets := rfl
@[simp] theorem Chip.modRsc_sst (c : Chip) (f : Rsc → Rsc) : (c.modRsc f).sst = c.sst := rfl
@[simp] theorem Chip.modRsc_ctb (c : Chip) (f : Rsc → Rsc) : (c.modRsc f).ctb = c.ctb := rfl
@[simp] theorem Chip.modRsc_gen (c : Chip) (f : Rsc → Rsc) : (c.modRsc f).gen = c.gen := rfl
@[simp] theorem Chip.modRsc_ord (c : Chip) (f : Rsc → Rsc) : (c.modRsc f).ord = c.ord := rfl
@[simp] theorem Chip.modRsc_jwr (c : Chip) (f : Rsc → Rsc) : (c.modRsc f).jwr = c.jwr := rfl
@[simp] theorem Chip.modRsc_mpt (c : Chip) (f : Rsc → Rsc) : (c.modRsc f).mpt = c.mpt := rfl
@[simp] theorem Chip.modRsc_shc (c : Chip) (f : Rsc → Rsc) : (c.modRsc f).shc = c.shc := rfl
@[simp] theorem Chip.modRsc_line (c : Chip) (f : Rsc → Rsc) (y : LineNo) : (c.modRsc f).line y = c.line y := rfl
@[simp] theorem Chip.modRsc_slot (c : Chip) (f : Rsc → Rsc) (j : SlotNo) : (c.modRsc f).slot j = c.slot j := rfl
@[simp] theorem Chip.modRsc_rsc (c : Chip) (f : Rsc → Rsc) : (c.modRsc f).rsc = f c.rsc := rfl

/-! ### Chip.modGen -/

@[simp] theorem Chip.modGen_lines (c : Chip) (f : Gen → Gen) : (c.modGen f).lines = c.lines := rfl
@[simp] theorem Chip.modGen_sets (c : Chip) (f : Gen → Gen) : (c.modGen f).sets = c.sets := rfl
@[simp] theorem Chip.modGen_sst (c : Chip) (f : Gen → Gen) : (c.modGen f).sst = c.sst := rfl
@[simp] theorem Chip.modGen_ctb (c : Chip) (f : Gen → Gen) : (c.modGen f).ctb = c.ctb := rfl
@[simp] theorem Chip.modGen_rsc (c : Chip) (f : Gen → Gen) : (c.modGen f).rsc = c.rsc := rfl
@[simp] theorem Chip.modGen_ord (c : Chip) (f : Gen → Gen) : (c.modGen f).ord = c.ord := rfl
@[simp] theorem Chip.modGen_jwr (c : Chip) (f : Gen → Gen) : (c.modGen f).jwr = c.jwr := rfl
@[simp] theorem Chip.modGen_mpt (c : Chip) (f : Gen → Gen) : (c.modGen f).mpt = c.mpt := rfl
@[simp] theorem Chip.modGen_shc (c : Chip) (f : Gen → Gen) : (c.modGen f).shc = c.shc := rfl
@[simp] theorem Chip.modGen_line (c : Chip) (f : Gen → Gen) (y : LineNo) : (c.modGen f).line y = c.line y := rfl
@[simp] theorem Chip.modGen_slot (c : Chip) (f : Gen → Gen) (j : SlotNo) : (c.modGen f).slot j = c.slot j := rfl
@[simp] theorem Chip.modGen_gen (c : Chip) (f : Gen → Gen) : (c.modGen f).gen = f c.gen := rfl

/-! ### Chip.modCtb -/

@[simp] theorem Chip.modCtb_lines (c : Chip) (f : Ctb → Ctb) : (c.modCtb f).lines = c.lines := rfl
@[simp] theorem Chip.modCtb_sets (c : Chip) (f : Ctb → Ctb) : (c.modCtb f).sets = c.sets := rfl
@[simp] theorem Chip.modCtb_sst (c : Chip) (f : Ctb → Ctb) : (c.modCtb f).sst = c.sst := rfl
@[simp] theorem Chip.modCtb_rsc (c : Chip) (f : Ctb → Ctb) : (c.modCtb f).rsc = c.rsc := rfl
@[simp] theorem Chip.modCtb_gen (c : Chip) (f : Ctb → Ctb) : (c.modCtb f).gen = c.gen := rfl
@[simp] theorem Chip.modCtb_ord (c : Chip) (f : Ctb → Ctb) : (c.modCtb f).ord = c.ord := rfl
@[simp] theorem Chip.modCtb_jwr (c : Chip) (f : Ctb → Ctb) : (c.modCtb f).jwr = c.jwr := rfl
@[simp] theorem Chip.modCtb_mpt (c : Chip) (f : Ctb → Ctb) : (c.modCtb f).mpt = c.mpt := rfl
@[simp] theorem Chip.modCtb_shc (c : Chip) (f : Ctb → Ctb) : (c.modCtb f).shc = c.shc := rfl
@[simp] theorem Chip.modCtb_line (c : Chip) (f : Ctb → Ctb) (y : LineNo) : (c.modCtb f).line y = c.line y := rfl
@[simp] theorem Chip.modCtb_slot (c : Chip) (f : Ctb → Ctb) (j : SlotNo) : (c.modCtb f).slot j = c.slot j := rfl
@[simp] theorem Chip.modCtb_ctb (c : Chip) (f : Ctb → Ctb) : (c.modCtb f).ctb = f c.ctb := rfl

/-! ### Chip.modOrd -/

@[simp] theorem Chip.modOrd_lines (c : Chip) (f : Ord → Ord) : (c.modOrd f).lines = c.lines := rfl
@[simp] theorem Chip.modOrd_sets (c : Chip) (f : Ord → Ord) : (c.modOrd f).sets = c.sets := rfl
@[simp] theorem Chip.modOrd_sst (c : Chip) (f : Ord → Ord) : (c.modOrd f).sst = c.sst := rfl
@[simp] theorem Chip.modOrd_ctb (c : Chip) (f : Ord → Ord) : (c.modOrd f).ctb = c.ctb := rfl
@[simp] theorem Chip.modOrd_rsc (c : Chip) (f : Ord → Ord) : (c.modOrd f).rsc = c.rsc := rfl
@[simp] theorem Chip.modOrd_gen (c : Chip) (f : Ord → Ord) : (c.modOrd f).gen = c.gen := rfl
@[simp] theorem Chip.modOrd_jwr (c : Chip) (f : Ord → Ord) : (c.modOrd f).jwr = c.jwr := rfl
@[simp] theorem Chip.modOrd_mpt (c : Chip) (f : Ord → Ord) : (c.modOrd f).mpt = c.mpt := rfl
@[simp] theorem Chip.modOrd_shc (c : Chip) (f : Ord → Ord) : (c.modOrd f).shc = c.shc := rfl
@[simp] theorem Chip.modOrd_line (c : Chip) (f : Ord → Ord) (y : LineNo) : (c.modOrd f).line y = c.line y := rfl
@[simp] theorem Chip.modOrd_slot (c : Chip) (f : Ord → Ord) (j : SlotNo) : (c.modOrd f).slot j = c.slot j := rfl
@[simp] theorem Chip.modOrd_ord (c : Chip) (f : Ord → Ord) : (c.modOrd f).ord = f c.ord := rfl

/-! ### Chip.modShc -/

@[simp] theorem Chip.modShc_lines (c : Chip) (f : Shc → Shc) : (c.modShc f).lines = c.lines := rfl
@[simp] theorem Chip.modShc_sets (c : Chip) (f : Shc → Shc) : (c.modShc f).sets = c.sets := rfl
@[simp] theorem Chip.modShc_sst (c : Chip) (f : Shc → Shc) : (c.modShc f).sst = c.sst := rfl
@[simp] theorem Chip.modShc_ctb (c : Chip) (f : Shc → Shc) : (c.modShc f).ctb = c.ctb := rfl
@[simp] theorem Chip.modShc_rsc (c : Chip) (f : Shc → Shc) : (c.modShc f).rsc = c.rsc := rfl
@[simp] theorem Chip.modShc_gen (c : Chip) (f : Shc → Shc) : (c.modShc f).gen = c.gen := rfl
@[simp] theorem Chip.modShc_ord (c : Chip) (f : Shc → Shc) : (c.modShc f).ord = c.ord := rfl
@[simp] theorem Chip.modShc_jwr (c : Chip) (f : Shc → Shc) : (c.modShc f).jwr = c.jwr := rfl
@[simp] theorem Chip.modShc_mpt (c : Chip) (f : Shc → Shc) : (c.modShc f).mpt = c.mpt := rfl
@[simp] theorem Chip.modShc_line (c : Chip) (f : Shc → Shc) (y : LineNo) : (c.modShc f).line y = c.line y := rfl
@[simp] theorem Chip.modShc_slot (c : Chip) (f : Shc → Shc) (j : SlotNo) : (c.modShc f).slot j = c.slot j := rfl
@[simp] theorem Chip.modShc_shc (c : Chip) (f : Shc → Shc) : (c.modShc f).shc = f c.shc := rfl

/-! ### One line, one slot -/

@[simp] theorem Chip.line_modLine_self (c : Chip) (x : LineNo) (f : Line → Line) :
    (c.modLine x f).line x = f (c.line x) := by
  simp [Chip.line, Chip.modLine]

theorem Chip.line_modLine_ne (c : Chip) {x y : LineNo} (f : Line → Line) (h : y ≠ x) :
    (c.modLine x f).line y = c.line y := by
  have h' : (x : ℕ) ≠ y := fun e => h (Fin.ext e.symm)
  simp [Chip.line, Chip.modLine, Vector.getElem_set_ne _ _ h']

theorem Chip.line_modLine (c : Chip) (x y : LineNo) (f : Line → Line) :
    (c.modLine x f).line y = if y = x then f (c.line x) else c.line y := by
  by_cases h : y = x
  · subst h; simp
  · simp [h, Chip.line_modLine_ne]

@[simp] theorem Chip.slot_modSlot_self (c : Chip) (i : SlotNo) (f : Slot → Slot) :
    (c.modSlot i f).slot i = f (c.slot i) := by
  simp [Chip.slot, Chip.modSlot]

theorem Chip.slot_modSlot_ne (c : Chip) {i j : SlotNo} (f : Slot → Slot) (h : j ≠ i) :
    (c.modSlot i f).slot j = c.slot j := by
  have h' : (i : ℕ) ≠ j := fun e => h (Fin.ext e.symm)
  simp [Chip.slot, Chip.modSlot, Vector.getElem_set_ne _ _ h']

theorem Chip.slot_modSlot (c : Chip) (i j : SlotNo) (f : Slot → Slot) :
    (c.modSlot i f).slot j = if j = i then f (c.slot i) else c.slot j := by
  by_cases h : j = i
  · subst h; simp
  · simp [h, Chip.slot_modSlot_ne]

@[simp] theorem Chip.modSlot_lru (c : Chip) (i : SlotNo) (f : Slot → Slot) : (c.modSlot i f).sst.lru = c.sst.lru := rfl
@[simp] theorem Chip.modSlot_waitList (c : Chip) (i : SlotNo) (f : Slot → Slot) :
    (c.modSlot i f).sst.waitList = c.sst.waitList := rfl
@[simp] theorem Chip.setLru_lru (c : Chip) (l : List SlotNo) : (c.setLru l).sst.lru = l := rfl
@[simp] theorem Chip.setLru_waitList (c : Chip) (l : List SlotNo) : (c.setLru l).sst.waitList = c.sst.waitList := rfl
@[simp] theorem Chip.setLru_slot (c : Chip) (l : List SlotNo) (i : SlotNo) : (c.setLru l).slot i = c.slot i := rfl
@[simp] theorem Chip.setWaitList_lru (c : Chip) (l : List SlotWait) : (c.setWaitList l).sst.lru = c.sst.lru := rfl
@[simp] theorem Chip.setWaitList_waitList (c : Chip) (l : List SlotWait) : (c.setWaitList l).sst.waitList = l := rfl
@[simp] theorem Chip.setWaitList_slot (c : Chip) (l : List SlotWait) (i : SlotNo) :
    (c.setWaitList l).slot i = c.slot i := rfl

@[simp] theorem mapEach_getElem {α β : Type} {n : Nat} (f : α → β) (v : Vector α n) (i : Nat) (h : i < n) :
    (mapEach f v)[i] = f v[i] := by
  simp [mapEach]

@[simp] theorem mapEach_get {α β : Type} {n : Nat} (f : α → β) (v : Vector α n) (i : Fin n) :
    (mapEach f v)[i] = f v[i] := by
  simp [mapEach]

@[simp] theorem Chip.mapLines_line (c : Chip) (f : Line → Line) (x : LineNo) : (c.mapLines f).line x = f (c.line x) := by
  simp [Chip.line, Chip.mapLines]

end Sys2Proof.Machine
end

