-- ==== Sys2Proof/Laws/Memory.lean ====
section
/-! SUPPORT. The shared RAM: a read after a write, and the canonical form that every write keeps. -/

namespace Sys2Proof.Machine

theorem byteAt_setByte (m : Memory) (h : m.Pairwise (fun p q => p.1 < q.1)) (a : Nat) (v : Byte) (b : Nat) :
    byteAt (setByte m a v) b = if b = a then v else byteAt m b := by
  induction m with
  | nil =>
    by_cases hv : v = 0
    · simp [setByte, byteAt, hv]
    · simp only [setByte, hv, if_false, byteAt]
      by_cases hb : b = a
      · simp [hb]
      · simp [hb, Ne.symm hb]
  | cons p m ih =>
    obtain ⟨k, w⟩ := p
    have hp := List.pairwise_cons.1 h
    have below : ∀ c, c ≤ k → byteAt m c = 0 := by
      intro c hc
      have : ∀ q ∈ m, c < q.1 := fun q hq => lt_of_le_of_lt hc (hp.1 q hq)
      clear ih h hp
      induction m with
      | nil => rfl
      | cons q m ih =>
        have hq := this q (by simp)
        simp only [byteAt]
        rw [if_neg (by omega)]
        exact ih fun r hr => this r (List.mem_cons_of_mem _ hr)
    simp only [setByte]
    by_cases h1 : a < k
    · by_cases hv : v = 0
      · simp only [h1, hv, if_true, byteAt]
        by_cases hb : b = a
        · subst hb
          rw [if_neg (by omega), below _ (by omega)]; simp
        · simp [hb]
      · simp only [h1, hv, if_true, if_false, byteAt]
        by_cases hb : b = a
        · simp [hb]
        · simp [hb, Ne.symm hb]
    · by_cases h2 : a = k
      · subst h2
        by_cases hv : v = 0
        · simp only [lt_irrefl, hv, if_true, if_false, byteAt]
          by_cases hb : b = a
          · simp [hb, below]
          · simp [hb, Ne.symm hb]
        · simp only [lt_irrefl, hv, if_true, if_false, byteAt]
          by_cases hb : b = a
          · simp [hb]
          · simp [hb, Ne.symm hb]
      · simp only [h1, h2, if_false, byteAt]
        by_cases hb : k = b
        · subst hb; simp [Ne.symm h2]
        · simp only [hb, if_false]; exact ih hp.2

theorem mem_setByte {m : Memory} {a : Nat} {v : Byte} {p : Host.Cell} (h : p ∈ setByte m a v) :
    (p = (a, v) ∧ v ≠ 0) ∨ p ∈ m := by
  induction m with
  | nil =>
    simp only [setByte] at h
    split at h <;> simp_all
  | cons q m ih =>
    obtain ⟨k, w⟩ := q
    simp only [setByte] at h
    split at h
    · split at h
      · exact .inr h
      · rcases List.mem_cons.1 h with h | h
        · exact .inl ⟨h, ‹_›⟩
        · exact .inr h
    · split at h
      · split at h
        · exact .inr (List.mem_cons_of_mem _ h)
        · rcases List.mem_cons.1 h with h | h
          · exact .inl ⟨h, ‹_›⟩
          · exact .inr (List.mem_cons_of_mem _ h)
      · rcases List.mem_cons.1 h with h | h
        · exact .inr (by simp [h])
        · exact (ih h).imp id (List.mem_cons_of_mem _)

theorem setByte_pairwise {m : Memory} (h : m.Pairwise (fun p q => p.1 < q.1)) (a : Nat) (v : Byte) :
    (setByte m a v).Pairwise (fun p q => p.1 < q.1) := by
  induction m with
  | nil => simp only [setByte]; split <;> simp
  | cons q m ih =>
    obtain ⟨k, w⟩ := q
    have hp := List.pairwise_cons.1 h
    simp only [setByte]
    split
    · split
      · exact h
      · refine List.pairwise_cons.2 ⟨fun r hr => ?_, h⟩
        rcases List.mem_cons.1 hr with hr | hr
        · subst hr; simpa using ‹a < k›
        · have := hp.1 r hr; simp only at this ⊢; omega
    · split
      · split
        · exact hp.2
        · refine List.pairwise_cons.2 ⟨fun r hr => ?_, hp.2⟩
          have := hp.1 r hr; simp only at this ⊢; omega
      · refine List.pairwise_cons.2 ⟨fun r hr => ?_, ih hp.2⟩
        rcases mem_setByte hr with hr | hr
        · simp only [hr.1]; omega
        · exact hp.1 r hr

/-- A byte write keeps the canonical form. -/
theorem setByte_wf {m : Memory} (h : m.wf) (a : Nat) (v : Byte) : (setByte m a v).wf :=
  ⟨setByte_pairwise h.1 a v, fun p hp => by
    rcases mem_setByte hp with hp | hp
    · rw [hp.1]; exact hp.2
    · exact h.2 p hp⟩

/-- A word write keeps the canonical form. -/
theorem writeWord_wf {m : Memory} (h : m.wf) (a : Nat) (w : Word) : (writeWord m a w).wf :=
  setByte_wf (setByte_wf h _ _) _ _

/-- A write of consecutive words keeps the canonical form. -/
theorem writeWords_wf {m : Memory} (h : m.wf) (a : Nat) (ws : List Word) : (writeWords m a ws).wf := by
  induction ws generalizing m a with
  | nil => exact h
  | cons w ws ih => exact ih (writeWord_wf h a w) (a + 1)

/-- A byte after a word write. -/
theorem byteAt_writeWord {m : Memory} (h : m.wf) (a : Nat) (w : Word) (b : Nat) :
    byteAt (writeWord m a w) b =
      if b = 2 * a + 1 then w.extractLsb' 8 8 else if b = 2 * a then w.extractLsb' 0 8 else byteAt m b := by
  rw [writeWord, byteAt_setByte _ (setByte_pairwise h.1 _ _), byteAt_setByte _ h.1]

/-- A word is its two halves. -/
theorem halves_append (w : Word) : (w.extractLsb' 8 8 ++ w.extractLsb' 0 8 : Word) = w := by
  apply BitVec.eq_of_getLsbD_eq
  intro i hi
  rw [BitVec.getLsbD_append]
  simp only [BitVec.getLsbD_extractLsb']
  by_cases h : i < 8
  · simp [h]
  · simp [h, show i - 8 < 8 by omega, show 8 + (i - 8) = i by omega]

/-- A word reads as it was written. -/
theorem readWord_writeWord {m : Memory} (h : m.wf) (a : Nat) (w : Word) : readWord (writeWord m a w) a = w := by
  rw [readWord, byteAt_writeWord h, byteAt_writeWord h, if_pos rfl, if_neg (by omega), if_pos rfl]
  exact halves_append w

/-- A word write leaves every other word alone. -/
theorem readWord_writeWord_ne {m : Memory} (h : m.wf) {a b : Nat} (w : Word) (hb : b ≠ a) :
    readWord (writeWord m a w) b = readWord m b := by
  rw [readWord, byteAt_writeWord h, byteAt_writeWord h, readWord, if_neg (by omega), if_neg (by omega),
    if_neg (by omega), if_neg (by omega)]

/-- Bytes outside the words written stand as they were. -/
theorem byteAt_writeWords {m : Memory} (h : m.wf) (a : Nat) (ws : List Word) (b : Nat)
    (hb : b < 2 * a ∨ 2 * (a + ws.length) ≤ b) : byteAt (writeWords m a ws) b = byteAt m b := by
  induction ws generalizing m a with
  | nil => rfl
  | cons w ws ih =>
    simp only [List.length_cons] at hb
    rw [writeWords, ih (writeWord_wf h a w) (a + 1) (by omega), byteAt_writeWord h, if_neg (by omega), if_neg (by omega)]

/-- The empty RAM is in canonical form. -/
theorem reset_ram_wf : State.reset.ram.wf := ⟨List.Pairwise.nil, by simp [State.reset]⟩

end Sys2Proof.Machine
end

