-- ==== Sys2Proof/WellFormed.lean ====
section
/-! DEFINITION. Well-formed commands: an order's argument words lie in the ranges of 10 Table 10-11. The machine does not
rely on it: it answers an ill-formed order BAD_ORDER (R151). -/

namespace Sys2Proof

/-- A line argument names a line position (Table 10-11: 0..95). -/
def lineArgOk (w : Word) : Bool := w.toNat < 96

/-- The argument words of RING (Table 10-11): party 1..4, plan 0..7 or 8 (from record), cycles 0..255, flag 0 or 1. -/
def ringArgsOk (line party plan cycles priority : Word) : Bool :=
  lineArgOk line && (1 ≤ party.toNat && party.toNat ≤ 4) && plan.toNat ≤ 8 && cycles.toNat ≤ 255 &&
    priority.toNat ≤ 1

/-- The checks of a command. A command without argument words is well formed. -/
def Instr.wellFormed : Instr → Bool
  | .ring line party plan cycles priority => ringArgsOk line party plan cycles priority
  | .tone line bus => lineArgOk line && (bus.toNat == 0 || bus.toNat == 3)
  | .invalidate line => lineArgOk line || line.toNat == 255
  | .reloadPlan plan => plan.toNat < 8
  | .setCapacity capacity reserve => (1 ≤ capacity.toNat && capacity.toNat ≤ 255) && reserve.toNat ≤ 255
  | .powerMode mode => mode.toNat ≤ 1
  | .stopRing line | .digitSeen line | .enddial line | .connect line | .clear line | .block line | .unblock line
  | .lockSlot line | .unlockSlot line => lineArgOk line
  | .areaBaseWrite w => w.toNat < 32768
  | .attentionWrite w => w.toNat < 32
  | .controlRegisterWrite w _ => w.toNat < 512 && w.toNat % 8 ≤ 6
  | .powerOnReset | .resetInput | .start _ _ | .stop _ _ | .coldRestart _ _ | .warmRestart _ _ | .flush _ _ _
  | .faultClear _ _ | .mainsFailAsserted | .mainsFailReleased
  | .overloadAsserted _ | .lineSample _ _ _ | .hookTransition _ _ _ | .firstDebouncedState _ _ _
  | .tripConfirm _ _ _ | .clearExpiry _ _ _ | .digitExpiry _ _ _ | .dialToneTimeout _ | .diallingTimeout _
  | .guardExpiry _ | .parkTimerExpiry _ | .howlerTimerExpiry _ | .fetchComplete _ | .coreFieldReadComplete
  | .stepBoundary | .ringExpiry _ | .waitExpiry _ | .notBeforeExpiry _ | .genStartDone | .idleStop | .holdEnd
  | .freeLocks | .invalidateAll | .reloadPlanReadComplete _ | .genReset | .orderPass | .orderCellVisit _ | .orderTaken _
  | .orderDone _ | .journalWrite _ | .pageCloseTimerExpiry _ | .pageOpen _ | .pageStallRetry _ | .mirrorWrite
  | .memoryTimeout _ | .headerReadComplete _ | .timingSetReadComplete _ | .planReadComplete _ | .shelfRunning
  | .fetchWordRead _ => true

end Sys2Proof
end

