-- ==== Sys2Proof/Laws/PerInstr.lean ====
section
/-! SUPPORT. Per command: an order command is well formed exactly if every argument word of its order lies in its range
(10 Table 10-11); a command that is no order stands for none. -/

namespace Sys2Proof.Laws.Checked

open Sys2Proof Sys2Proof.Machine

/-- The checks of a command are the range tests of its order. -/
def Statement (i : Instr) : Prop := ∀ o, orderOf i = some o → (i.wellFormed = true ↔ o.ArgsOk)

theorem of_no_order {i : Instr} (h : orderOf i = none) : Statement i := fun o k => by simp [h] at k

theorem of_line {i : Instr} {w : Word} (n : Word) (hn : argTests n.toNat = [fun a => decide (a ≤ 95)]) (h : orderOf i = some ⟨n, w, 0, 0, 0, 0⟩)
    (hw : i.wellFormed = lineArgOk w) : Statement i := by
  intro o k
  obtain rfl : (⟨n, w, 0, 0, 0, 0⟩ : OrderCopy) = o := by simpa [h] using k
  rw [hw, OrderCopy.ArgsOk, hn]
  simp [lineArgOk]
  omega

theorem powerOnReset : Statement .powerOnReset := of_no_order rfl
theorem resetInput : Statement .resetInput := of_no_order rfl
theorem start (a b : _) : Statement (.start a b) := of_no_order rfl
theorem stop (a b : _) : Statement (.stop a b) := of_no_order rfl
theorem coldRestart (a b : _) : Statement (.coldRestart a b) := of_no_order rfl
theorem warmRestart (a b : _) : Statement (.warmRestart a b) := of_no_order rfl
theorem flush (a b c : _) : Statement (.flush a b c) := of_no_order rfl
theorem faultClear (a b : _) : Statement (.faultClear a b) := of_no_order rfl
theorem areaBaseWrite (a : _) : Statement (.areaBaseWrite a) := of_no_order rfl
theorem attentionWrite (a : _) : Statement (.attentionWrite a) := of_no_order rfl
theorem mainsFailAsserted : Statement .mainsFailAsserted := of_no_order rfl
theorem mainsFailReleased : Statement .mainsFailReleased := of_no_order rfl
theorem overloadAsserted (a : _) : Statement (.overloadAsserted a) := of_no_order rfl
theorem lineSample (a b c : _) : Statement (.lineSample a b c) := of_no_order rfl
theorem hookTransition (a b c : _) : Statement (.hookTransition a b c) := of_no_order rfl
theorem firstDebouncedState (a b c : _) : Statement (.firstDebouncedState a b c) := of_no_order rfl
theorem tripConfirm (a b c : _) : Statement (.tripConfirm a b c) := of_no_order rfl
theorem clearExpiry (a b c : _) : Statement (.clearExpiry a b c) := of_no_order rfl
theorem digitExpiry (a b c : _) : Statement (.digitExpiry a b c) := of_no_order rfl
theorem dialToneTimeout (a : _) : Statement (.dialToneTimeout a) := of_no_order rfl
theorem diallingTimeout (a : _) : Statement (.diallingTimeout a) := of_no_order rfl
theorem guardExpiry (a : _) : Statement (.guardExpiry a) := of_no_order rfl
theorem parkTimerExpiry (a : _) : Statement (.parkTimerExpiry a) := of_no_order rfl
theorem howlerTimerExpiry (a : _) : Statement (.howlerTimerExpiry a) := of_no_order rfl
theorem fetchComplete (a : _) : Statement (.fetchComplete a) := of_no_order rfl
theorem coreFieldReadComplete : Statement .coreFieldReadComplete := of_no_order rfl
theorem stepBoundary : Statement .stepBoundary := of_no_order rfl
theorem ringExpiry (a : _) : Statement (.ringExpiry a) := of_no_order rfl
theorem waitExpiry (a : _) : Statement (.waitExpiry a) := of_no_order rfl
theorem notBeforeExpiry (a : _) : Statement (.notBeforeExpiry a) := of_no_order rfl
theorem genStartDone : Statement .genStartDone := of_no_order rfl
theorem idleStop : Statement .idleStop := of_no_order rfl
theorem holdEnd : Statement .holdEnd := of_no_order rfl
theorem ring (a b c d e : Word) : Statement (.ring a b c d e) := by
  rintro o ⟨⟩
  simp [Instr.wellFormed, OrderCopy.ArgsOk, argTests, ringArgsOk, lineArgOk]
  omega
theorem stopRing (a : Word) : Statement (.stopRing a) := of_line 2 rfl rfl rfl
theorem digitSeen (a : Word) : Statement (.digitSeen a) := of_line 3 rfl rfl rfl
theorem enddial (a : Word) : Statement (.enddial a) := of_line 4 rfl rfl rfl
theorem connect (a : Word) : Statement (.connect a) := of_line 5 rfl rfl rfl
theorem tone (a b : Word) : Statement (.tone a b) := by
  rintro o ⟨⟩
  simp [Instr.wellFormed, OrderCopy.ArgsOk, argTests, lineArgOk]
  omega
theorem clear (a : Word) : Statement (.clear a) := of_line 7 rfl rfl rfl
theorem block (a : Word) : Statement (.block a) := of_line 8 rfl rfl rfl
theorem unblock (a : Word) : Statement (.unblock a) := of_line 9 rfl rfl rfl
theorem lockSlot (a : Word) : Statement (.lockSlot a) := of_line 10 rfl rfl rfl
theorem unlockSlot (a : Word) : Statement (.unlockSlot a) := of_line 11 rfl rfl rfl
theorem freeLocks : Statement .freeLocks := by
  rintro o ⟨⟩
  simp [Instr.wellFormed, OrderCopy.ArgsOk, argTests]
theorem invalidate (a : Word) : Statement (.invalidate a) := by
  rintro o ⟨⟩
  simp [Instr.wellFormed, OrderCopy.ArgsOk, argTests, lineArgOk]
  omega
theorem invalidateAll : Statement .invalidateAll := by
  rintro o ⟨⟩
  simp [Instr.wellFormed, OrderCopy.ArgsOk, argTests]
theorem reloadPlan (a : Word) : Statement (.reloadPlan a) := by
  rintro o ⟨⟩
  simp [Instr.wellFormed, OrderCopy.ArgsOk, argTests]
  omega
theorem reloadPlanReadComplete (a : _) : Statement (.reloadPlanReadComplete a) := of_no_order rfl
theorem setCapacity (a b : Word) : Statement (.setCapacity a b) := by
  rintro o ⟨⟩
  simp [Instr.wellFormed, OrderCopy.ArgsOk, argTests]

theorem powerMode (a : Word) : Statement (.powerMode a) := by
  rintro o ⟨⟩
  simp [Instr.wellFormed, OrderCopy.ArgsOk, argTests]

theorem genReset : Statement .genReset := by
  rintro o ⟨⟩
  simp [Instr.wellFormed, OrderCopy.ArgsOk, argTests]
theorem orderPass : Statement .orderPass := of_no_order rfl
theorem orderCellVisit (a : _) : Statement (.orderCellVisit a) := of_no_order rfl
theorem orderTaken (a : _) : Statement (.orderTaken a) := of_no_order rfl
theorem orderDone (a : _) : Statement (.orderDone a) := of_no_order rfl
theorem journalWrite (a : _) : Statement (.journalWrite a) := of_no_order rfl
theorem pageCloseTimerExpiry (a : _) : Statement (.pageCloseTimerExpiry a) := of_no_order rfl
theorem pageOpen (a : _) : Statement (.pageOpen a) := of_no_order rfl
theorem pageStallRetry (a : _) : Statement (.pageStallRetry a) := of_no_order rfl
theorem mirrorWrite : Statement .mirrorWrite := of_no_order rfl
theorem memoryTimeout (a : _) : Statement (.memoryTimeout a) := of_no_order rfl
theorem headerReadComplete (a : _) : Statement (.headerReadComplete a) := of_no_order rfl
theorem timingSetReadComplete (a : _) : Statement (.timingSetReadComplete a) := of_no_order rfl
theorem planReadComplete (a : _) : Statement (.planReadComplete a) := of_no_order rfl
theorem shelfRunning : Statement .shelfRunning := of_no_order rfl
theorem controlRegisterWrite (a b : _) : Statement (.controlRegisterWrite a b) := of_no_order rfl
theorem fetchWordRead (a : _) : Statement (.fetchWordRead a) := of_no_order rfl

end Sys2Proof.Laws.Checked
end

