-- ==== Sys2Proof/Laws/Quiet.lean ====
section
/-! SUPPORT. What the operations of the lines, the slots, the ringing and the journal can do, said once: they leave the timing
sets, the Cadence Timebase, the Order Reader, the journal's page and the pass of the mirror alone, keep every lock and the LRU
stack whole, and touch Shelf Control only by raising flags and faults. -/

namespace Sys2Proof.Machine

theorem Shc.Raised.refl (a : Shc) : a.Raised a :=
  ⟨rfl, rfl, rfl, rfl, rfl, rfl, rfl, rfl, rfl, by simp, fun _ h _ => h, fun h => h⟩

theorem Shc.Raised.trans {a b c : Shc} (h : a.Raised b) (k : b.Raised c) : a.Raised c where
  run := k.run.trans h.run
  start := k.start.trans h.start
  warm := k.warm.trans h.warm
  mask := k.mask.trans h.mask
  sel := k.sel.trans h.sel
  areaBase := k.areaBase.trans h.areaBase
  ms := k.ms.trans h.ms
  mains := k.mains.trans h.mains
  hdr := k.hdr.trans h.hdr
  attention := by
    have e : a.attention ||| c.attention = a.attention ||| (b.attention ||| c.attention) := by rw [k.attention]
    rw [e, ← BitVec.or_assoc, h.attention, k.attention]
  major := fun f e m => k.major f (h.major f e m) m
  held := fun e => k.held (h.held e)

theorem Quiet.refl (c : Chip) : Quiet c c :=
  ⟨Shc.Raised.refl _, rfl, rfl, rfl, rfl, rfl, rfl, rfl, rfl, rfl, rfl, rfl, rfl, fun h => h, fun _ => rfl, fun _ h => h⟩

theorem Quiet.trans {c d e : Chip} (h : Quiet c d) (k : Quiet d e) : Quiet c e where
  shc := h.shc.trans k.shc
  sets := k.sets.trans h.sets
  ctb := k.ctb.trans h.ctb
  ord := k.ord.trans h.ord
  last := k.last.trans h.last
  coreReads := k.coreReads.trans h.coreReads
  index := k.index.trans h.index
  seq := k.seq.trans h.seq
  opened := k.opened.trans h.opened
  page := k.page.trans h.page
  used := k.used.trans h.used
  written := k.written.trans h.written
  closing := k.closing.trans h.closing
  lru := fun p => k.lru (h.lru p)
  locks := fun i => (k.locks i).trans (h.locks i)
  own := fun i o => k.own i (h.own i o)

variable {c d : Chip}

/-! ### The updates -/

/-- An update of the lines, of the Ring Scheduler and of the Generator Controller is quiet. -/
theorem Quiet.parts (h : Quiet c d) (lines : Vector Line 96) (rsc : Rsc) (gen : Gen) :
    Quiet c { d with lines := lines, rsc := rsc, gen := gen } :=
  ⟨h.shc, h.sets, h.ctb, h.ord, h.last, h.coreReads, h.index, h.seq, h.opened, h.page, h.used,
    h.written, h.closing, h.lru, h.locks, h.own⟩

theorem Quiet.modLine (h : Quiet c d) (x : LineNo) (f : Line → Line) : Quiet c (d.modLine x f) := h.parts _ _ _

theorem Quiet.modRsc (h : Quiet c d) (f : Rsc → Rsc) : Quiet c (d.modRsc f) := h.parts _ _ _

theorem Quiet.modGen (h : Quiet c d) (f : Gen → Gen) : Quiet c (d.modGen f) := h.parts _ _ _

theorem Quiet.modJwr (h : Quiet c d) (f : Jwr → Jwr)
    (hf : (f d.jwr).index = d.jwr.index ∧ (f d.jwr).seq = d.jwr.seq ∧ (f d.jwr).opened = d.jwr.opened ∧
      (f d.jwr).page = d.jwr.page ∧ (f d.jwr).used = d.jwr.used ∧ (f d.jwr).written = d.jwr.written ∧
      (f d.jwr).closing = d.jwr.closing) : Quiet c (d.modJwr f) :=
  ⟨h.shc, h.sets, h.ctb, h.ord, h.last, h.coreReads, hf.1.trans h.index, hf.2.1.trans h.seq, hf.2.2.1.trans h.opened,
    hf.2.2.2.1.trans h.page, hf.2.2.2.2.1.trans h.used, hf.2.2.2.2.2.1.trans h.written, hf.2.2.2.2.2.2.trans h.closing,
    h.lru, h.locks, h.own⟩

theorem Quiet.addRequest (h : Quiet c d) (a : Access) : Quiet c (addRequest a d) :=
  ⟨h.shc, h.sets, h.ctb, h.ord, h.last, h.coreReads, h.index, h.seq, h.opened, h.page, h.used,
    h.written, h.closing, h.lru, h.locks, h.own⟩

theorem Quiet.dropRequest (h : Quiet c d) (a : Access) : Quiet c (dropRequest a d) :=
  ⟨h.shc, h.sets, h.ctb, h.ord, h.last, h.coreReads, h.index, h.seq, h.opened, h.page, h.used,
    h.written, h.closing, h.lru, h.locks, h.own⟩

theorem Quiet.setWaitList (h : Quiet c d) (l : List SlotWait) : Quiet c (d.setWaitList l) :=
  ⟨h.shc, h.sets, h.ctb, h.ord, h.last, h.coreReads, h.index, h.seq, h.opened, h.page, h.used,
    h.written, h.closing, h.lru, h.locks, h.own⟩

theorem Quiet.setLru (h : Quiet c d) (l : List SlotNo) (hl : d.sst.lru.Perm allSlots → l.Perm allSlots) :
    Quiet c (d.setLru l) :=
  ⟨h.shc, h.sets, h.ctb, h.ord, h.last, h.coreReads, h.index, h.seq, h.opened, h.page, h.used, h.written, h.closing, fun p => hl (h.lru p),
    h.locks, h.own⟩

theorem Quiet.modSlot (h : Quiet c d) (i : SlotNo) (f : Slot → Slot) (hl : (f (d.slot i)).lock = (d.slot i).lock)
    (ho : (d.slot i).Own → (f (d.slot i)).Own) : Quiet c (d.modSlot i f) where
  shc := h.shc
  sets := h.sets
  ctb := h.ctb
  ord := h.ord
  last := h.last
  coreReads := h.coreReads
  index := h.index
  seq := h.seq
  opened := h.opened
  page := h.page
  used := h.used
  written := h.written
  closing := h.closing
  lru := h.lru
  locks := fun j => by
    by_cases e : j = i
    · subst e; rw [Chip.slot_modSlot_self, hl]; exact h.locks _
    · rw [Chip.slot_modSlot_ne _ _ e]; exact h.locks j
  own := fun j o => by
    by_cases e : j = i
    · subst e; rw [Chip.slot_modSlot_self]; exact ho (h.own _ o)
    · rw [Chip.slot_modSlot_ne _ _ e]; exact h.own j o

/-- Slots that keep lock and record line. -/
theorem Quiet.modSlotKeep (h : Quiet c d) (i : SlotNo) (f : Slot → Slot) (hl : ∀ s, (f s).lock = s.lock)
    (hr : ∀ s, (f s).recLine = s.recLine) : Quiet c (d.modSlot i f) :=
  h.modSlot i f (hl _) fun o y e => by rw [hr]; exact o y ((hl _).symm.trans e)

/-! ### Lines -/

theorem Quiet.setSt (h : Quiet c d) (x : LineNo) (st : LineSt) : Quiet c (setSt x st d) := h.modLine _ _
theorem Quiet.setTone (h : Quiet c d) (x : LineNo) (t : Tone) : Quiet c (setTone x t d) := h.modLine _ _
theorem Quiet.setSlotRef (h : Quiet c d) (x : LineNo) (i : Option SlotNo) : Quiet c (setSlotRef x i d) := h.modLine _ _
theorem Quiet.setRelay (h : Quiet c d) (x : LineNo) (b : Bool) : Quiet c (setRelay x b d) := h.modLine _ _
theorem Quiet.setSelector (h : Quiet c d) (x : LineNo) (s : Option Selector) : Quiet c (setSelector x s d) := h.modLine _ _
theorem Quiet.setThreshold (h : Quiet c d) (x : LineNo) (t : Threshold) : Quiet c (setThreshold x t d) := h.modLine _ _
theorem Quiet.armDigit (h : Quiet c d) (x : LineNo) : Quiet c (armDigit x d) := h.setThreshold _ _
theorem Quiet.armClear (h : Quiet c d) (x : LineNo) : Quiet c (armClear x d) := h.setThreshold _ _
theorem Quiet.openRelays (h : Quiet c d) : Quiet c (openRelays d) := h.parts _ _ _

theorem Quiet.modCtx (h : Quiet c d) (x : LineNo) (f : Ctx → Ctx) : Quiet c (modCtx x f d) := by
  unfold Machine.modCtx
  split
  · exact h.modSlotKeep _ _ (fun _ => rfl) (fun _ => rfl)
  · exact h

/-! ### The LRU stack -/

theorem perm_to_end {l : List SlotNo} (h : l.Perm allSlots) (i : SlotNo) : (l.filter (· ≠ i) ++ [i]).Perm allSlots := by
  have hn : l.Nodup := h.nodup_iff.2 (List.nodup_finRange 16)
  have hi : i ∈ l := h.mem_iff.2 (List.mem_finRange i)
  refine List.Perm.trans ?_ h
  rw [List.perm_ext_iff_of_nodup]
  · intro a
    by_cases e : a = i
    · simp [e, hi]
    · simp [e]
  · rw [List.nodup_append]
    refine ⟨hn.filter _, by simp, ?_⟩
    intro a ha b hb
    simp only [List.mem_singleton] at hb
    subst hb
    simp only [List.mem_filter, decide_eq_true_eq] at ha
    exact ha.2
  · exact hn

theorem perm_to_front {l : List SlotNo} (h : l.Perm allSlots) (i : SlotNo) : (i :: l.filter (· ≠ i)).Perm allSlots :=
  (List.perm_append_comm (l₁ := [i])).trans (perm_to_end h i)

theorem Quiet.toMru (h : Quiet c d) (i : SlotNo) : Quiet c (toMru i d) := h.setLru _ fun p => perm_to_end p i
theorem Quiet.toLru (h : Quiet c d) (i : SlotNo) : Quiet c (toLru i d) := h.setLru _ fun p => perm_to_front p i

/-! ### Flags, faults and records -/

theorem Quiet.setAttention (h : Quiet c d) (f : BitVec 5) : Quiet c (setAttention f d) :=
  ⟨h.shc.trans ⟨rfl, rfl, rfl, rfl, rfl, rfl, rfl, rfl, rfl, by simp [Machine.setAttention, ← BitVec.or_assoc],
      fun _ e _ => e, fun e => e⟩,
    h.sets, h.ctb, h.ord, h.last, h.coreReads, h.index, h.seq, h.opened, h.page, h.used,
    h.written, h.closing, h.lru, h.locks, h.own⟩

theorem offered_keeps_major {held : Option FaultRec} {n : Nat} {f g : FaultRec} (h : held = some g)
    (m : g.kind.major = true) : (offered held n f).1 = some g := by
  subst h
  simp [offered, m]

theorem offered_isSome (held : Option FaultRec) (n : Nat) (f : FaultRec) : (offered held n f).1.isSome = true := by
  unfold offered
  split
  · rfl
  · split <;> rfl

theorem Quiet.offerFault (h : Quiet c d) (k : FaultKind) (x : Option LineNo) (n : Nat) :
    Quiet c (offerFault k x n d) := by
  refine Quiet.setAttention (d := { d with shc := { d.shc with fault := _, further := _ } }) ?_ _
  exact
    ⟨h.shc.trans ⟨rfl, rfl, rfl, rfl, rfl, rfl, rfl, rfl, rfl, by simp,
        fun _ e m => offered_keeps_major e m, fun _ => offered_isSome _ _ _⟩,
      h.sets, h.ctb, h.ord, h.last, h.coreReads, h.index, h.seq, h.opened, h.page, h.used,
    h.written, h.closing, h.lru, h.locks, h.own⟩

/-- The parts of the Journal Writer that folding leaves alone. -/
theorem Jwr.fold_keeps (j : Jwr) (r : Rec) :
    (j.fold r).index = j.index ∧ (j.fold r).seq = j.seq ∧ (j.fold r).opened = j.opened ∧ (j.fold r).page = j.page ∧
      (j.fold r).used = j.used ∧ (j.fold r).written = j.written ∧ (j.fold r).closing = j.closing := by
  unfold Jwr.fold
  split <;> simp

theorem Quiet.fold (h : Quiet c d) (r : Rec) : Quiet c (d.modJwr (·.fold r)) := h.modJwr _ (Jwr.fold_keeps _ r)

theorem Quiet.beginStall (h : Quiet c d) (k : Stall) : Quiet c (beginStall k d) :=
  (h.modJwr (fun j => { j with stall := k }) (by simp)).setAttention _

theorem Quiet.enqueue (h : Quiet c d) (r : Rec) : Quiet c (enqueue r d) := by
  unfold Machine.enqueue
  split
  · exact h.fold r
  · split
    · exact h.fold r
    · split
      · exact (h.beginStall _).fold r
      · exact h.modJwr _ (by simp)

theorem Quiet.emit (h : Quiet c d) (x : Option LineNo) (b : Body) : Quiet c (emit x b d) := by
  unfold Machine.emit
  split
  · exact h
  · exact h.fold _
  · exact h.fold _
  · exact h.enqueue _
  · split
    · exact h.enqueue _
    · exact h.modJwr _ (by simp)

theorem Quiet.raiseFault (h : Quiet c d) (k : FaultKind) (x : Option LineNo) (n : Nat) :
    Quiet c (raiseFault k x n d) := (h.offerFault k x n).emit _ _

theorem Quiet.markLost (h : Quiet c d) (x : LineNo) : Quiet c (markLost x d) := h.modJwr _ (by simp)

/-! ### Entries to states -/

theorem Quiet.enterUnequipped (h : Quiet c d) (x : LineNo) : Quiet c (enterUnequipped x d) :=
  (((h.setSt x _).setTone x _).setSelector x _).modLine _ _

theorem Quiet.enterIdle (h : Quiet c d) (x : LineNo) : Quiet c (enterIdle x d) := by
  unfold Machine.enterIdle
  split
  · exact (h.setSt x _).setTone x _
  · exact h.enterUnequipped x

theorem Quiet.enterGuard (h : Quiet c d) (x : LineNo) (ms : Nat) : Quiet c (enterGuard x ms d) := by
  unfold Machine.enterGuard
  split
  · exact h.enterIdle x
  · exact ((h.setSt x _).setTone x _).modLine _ _

theorem Quiet.enterReleaseGuard (h : Quiet c d) (x : LineNo) : Quiet c (enterReleaseGuard x d) := h.enterGuard _ _
theorem Quiet.enterPostRingGuard (h : Quiet c d) (x : LineNo) : Quiet c (enterPostRingGuard x d) := h.enterGuard _ _

theorem Quiet.enterParked (h : Quiet c d) (x : LineNo) (w : Option ParkReason) : Quiet c (enterParked x w d) := by
  unfold Machine.enterParked
  split
  · exact Quiet.emit (((h.setSt x _).setTone x _).modLine _ _) _ _
  · exact ((h.setSt x _).setTone x _).modLine _ _

theorem Quiet.enterTalk (h : Quiet c d) (x : LineNo) (b : Bool) : Quiet c (enterTalk x b d) :=
  ((h.setSt x _).setTone x _).modLine _ _

/-! ### Ringing -/

theorem Quiet.dropEntry (h : Quiet c d) (x : LineNo) : Quiet c (dropEntry x d) := h.modRsc _
theorem Quiet.modEntry (h : Quiet c d) (x : LineNo) (f : RingWait → RingWait) : Quiet c (modEntry x f d) := h.modRsc _

theorem Quiet.dropAlloc (h : Quiet c d) (x : LineNo) (a : Alloc) : Quiet c (dropAlloc x a d) :=
  (((h.modRsc _).modCtx x _).setRelay x _).setSelector x _

theorem Quiet.shedLine (h : Quiet c d) (w : ShedReason) (x : LineNo) : Quiet c (shedLine w x d) := by
  unfold Machine.shedLine
  split
  · exact h.modRsc _
  · exact ((((h.dropAlloc x _).modRsc _).modCtx x _).setSt x _).emit _ _

theorem Quiet.setGen (h : Quiet c d) (st : GenSt) (w : GenCause) (n : Nat) : Quiet c (setGen st w n d) := by
  unfold Machine.setGen
  split
  · exact ((h.modGen _).emit _ _).setAttention _
  · exact (h.modGen _).emit _ _

theorem Quiet.foldl {α : Type} (f : Chip → α → Chip) (hf : ∀ (d : Chip) (a : α), Quiet d (f d a)) (l : List α)
    (h : Quiet c d) : Quiet c (l.foldl f d) := by
  induction l generalizing d with
  | nil => exact h
  | cons a l ih => exact ih (h.trans (hf d a))

theorem Quiet.tripGen (h : Quiet c d) : Quiet c (tripGen d) := by
  unfold Machine.tripGen
  refine Quiet.foldl _ (fun d x => (Quiet.refl d).shedLine _ x) _ ?_
  split
  · exact (((h.modGen _).openRelays.modGen _).setGen _ _ _).raiseFault _ _ _
  · exact (((h.modGen _).openRelays.modGen _).setGen _ _ _).raiseFault _ _ _

theorem Quiet.startRequest (h : Quiet c d) : Quiet c (startRequest d) := by
  unfold Machine.startRequest
  split
  · dsimp only
    split
    · exact ((h.modGen _).setGen _ _ _).tripGen
    · exact (h.modGen _).setGen _ _ _
  · exact h

theorem Quiet.admitRing (h : Quiet c d) (e : RingWait) (p : PlanNo) (segs : Plan) (copy : Vector Word 8) (k : Nat) :
    Quiet c (admitRing e p segs copy k d) :=
  ((((h.modCtx _ _).modRsc _).setSelector _ _).setSt _ _).emit _ _

theorem tryAdmit_quiet {e : RingWait} {d' : Chip} (h : tryAdmit e d = some d') : Quiet d d' := by
  unfold tryAdmit at h
  split at h
  · split at h
    · simp only [Option.map_eq_some_iff] at h
      obtain ⟨k, -, rfl⟩ := h
      exact (Quiet.refl d).admitRing _ _ _ _ _
    · simp at h
  · simp at h

theorem Quiet.walkFrom (l : List RingWait) (h : Quiet c d) : Quiet c (walkFrom l d) := by
  induction l generalizing d with
  | nil => exact h
  | cons e es ih =>
    unfold Machine.walkFrom
    split
    · split
      · exact ih (h.trans (tryAdmit_quiet ‹_›))
      · split
        · exact h
        · exact ih h
    · exact ih h

theorem Quiet.walk (h : Quiet c d) : Quiet c (walk d) := by
  unfold Machine.walk
  split
  · exact h.walkFrom _
  · split
    · exact h.startRequest
    · exact h
  all_goals exact h

theorem Quiet.removeAlloc (h : Quiet c d) (x : LineNo) : Quiet c (removeAlloc x d) := by
  unfold Machine.removeAlloc
  split
  · exact (h.dropAlloc x _).walk
  · exact h

theorem Quiet.settleIdle (h : Quiet c d) (e : Chip) : Quiet c (settleIdle e d) := by
  unfold Machine.settleIdle
  split
  · split
    · exact h
    · exact h.modGen _
  · exact h.modGen _

/-! ### Slots -/

theorem Quiet.emptied (h : Quiet c d) (i : SlotNo) : Quiet c (d.modSlot i Slot.emptied) :=
  h.modSlot i _ rfl fun _ _ _ => .inl rfl

theorem Quiet.dropFetching (h : Quiet c d) (x : LineNo) (i : SlotNo) : Quiet c (dropFetching x i d) := by
  unfold Machine.dropFetching
  simp only []
  split
  · exact (h.setSlotRef x _).modSlotKeep _ _ (fun _ => rfl) (fun _ => rfl)
  · exact (((h.setSlotRef x _).emptied i).toLru i).dropRequest _

theorem Quiet.dropValid (h : Quiet c d) (x : LineNo) (i : SlotNo) : Quiet c (dropValid x i d) := by
  unfold Machine.dropValid
  dsimp only
  have h1 : Quiet c
      (Machine.setSlotRef x none
        (if (!(d.slot i).ctx.buffer.isEmpty || (d.slot i).ctx.mark.isSome) && !d.taking then Machine.markLost x d
          else d)) := by
    refine Quiet.setSlotRef ?_ x _
    split
    · exact h.markLost x
    · exact h
  split
  · exact (h1.emptied i).toLru i
  · exact (h1.modSlotKeep i (fun s => { s with status := .warm, holder := none, ctx := Ctx.fresh }) (fun _ => rfl)
      (fun _ => rfl)).toMru i

theorem Quiet.dropSlot (h : Quiet c d) (x : LineNo) : Quiet c (dropSlot x d).1 := by
  unfold Machine.dropSlot
  split
  · split
    · exact h.dropValid x _
    · exact h.dropFetching x _
  · dsimp only
    exact (h.setWaitList _).modLine _ _

/-! ### Grants -/

theorem Slot.bind_own {s : Slot} {x : LineNo} (k : GrantKind) (hs : s.lock = none ∨ s.lock = some x) :
    (s.bind x k).Own := by
  intro y e
  have e' : s.lock = some y := e
  rcases hs with hs | hs
  · simp [hs] at e'
  · rw [hs] at e'; exact .inr e'

theorem Quiet.bindSlot (h : Quiet c d) (i : SlotNo) (x : LineNo)
    (hs : (d.slot i).lock = none ∨ (d.slot i).lock = some x) : Quiet c (bindSlot i x d) := by
  have h1 : Quiet c (Machine.setSlotRef x (some i) (Machine.toMru i (d.modSlot i fun s => s.bind x ((d.slot i).grantKind x)))) :=
    ((h.modSlot i (fun s => s.bind x ((d.slot i).grantKind x)) rfl fun _ => Slot.bind_own _ hs).toMru i).setSlotRef x _
  unfold Machine.bindSlot
  dsimp only
  split
  · exact h1.addRequest _
  · exact h1
  · exact h1

theorem Quiet.giveDialTone (h : Quiet c d) (x : LineNo) : Quiet c (giveDialTone x d) :=
  ((h.setSt x _).setTone x _).modLine _ _

theorem Quiet.applyDialTone (h : Quiet c d) (x : LineNo) : Quiet c (applyDialTone x d) := (h.giveDialTone x).emit _ _

theorem Quiet.startDialling (h : Quiet c d) (x : LineNo) : Quiet c (startDialling x d) := h.modLine _ _

theorem Quiet.markFailed (h : Quiet c d) (x : LineNo) : Quiet c (markFailed x d) := by
  unfold Machine.markFailed
  split
  · exact h.modSlotKeep _ _ (fun _ => rfl) (fun _ => rfl)
  · exact h

theorem Quiet.refuseSeizure (h : Quiet c d) (x : LineNo) : Quiet c (refuseSeizure x d).1 := by
  unfold Machine.refuseSeizure
  dsimp only
  exact (((h.markFailed x).raiseFault _ _ _).dropSlot x).enterParked x _

theorem Quiet.acceptRing (h : Quiet c d) (x : LineNo) (copy : Vector Word 8) : Quiet c (acceptRing x copy d) :=
  (h.modEntry x _).walk

theorem Quiet.refuseRing (h : Quiet c d) (x : LineNo) (w : RingFail) (p : Nat) : Quiet c (refuseRing x w p d).1 := by
  unfold Machine.refuseRing
  dsimp only
  refine Quiet.enterIdle (Quiet.dropSlot (Quiet.dropEntry (Quiet.emit (Quiet.raiseFault ?_ _ _ _) _ _) x) x) x
  split
  · exact h.markFailed x
  · exact h

theorem Quiet.acceptRecall (h : Quiet c d) (x : LineNo) (copy : Vector Word 8) : Quiet c (acceptRecall x copy d) := by
  refine Quiet.startDialling ?_ x
  split
  · exact h.setTone x _
  · exact h

theorem Quiet.refuseRecall (h : Quiet c d) (x : LineNo) : Quiet c (refuseRecall x d).1 :=
  ((h.markFailed x).raiseFault _ _ _).dropSlot x

theorem Quiet.takeRecord (h : Quiet c d) (x : LineNo) : Quiet c (takeRecord x d).1 := by
  unfold Machine.takeRecord
  split
  · exact h
  · dsimp only
    split
    · split
      · exact h.applyDialTone x
      · exact h.refuseSeizure x
    · split
      · exact h
      · split
        · exact h.refuseRing x _ _
        · split
          · exact h.refuseRing x _ _
          · exact h.acceptRing x _
    · split
      · exact h.acceptRecall x _
      · exact h.refuseRecall x
    · exact h

theorem Quiet.takeGrant (h : Quiet c d) (i : SlotNo) (x : LineNo) : Quiet c (takeGrant i x d).1 := by
  unfold Machine.takeGrant
  dsimp only
  split
  · exact h.modEntry x _
  · exact (h.modEntry x _).takeRecord x

theorem Quiet.settleFreed (n : Nat) (i : SlotNo) (h : Quiet c d) : Quiet c (settleFreed n i d) := by
  induction n generalizing i d with
  | zero => exact h
  | succ n ih =>
    unfold Machine.settleFreed
    split
    · exact h
    · rename_i e rest _
      split
      · rename_i hf
        have hl : (d.slot i).lock = none := by
          simp only [Slot.free, Bool.and_eq_true, Option.isNone_iff_eq_none] at hf; exact hf.1
        have hq : Quiet c (Machine.takeGrant i e.line (Machine.bindSlot i e.line (d.setWaitList rest))).1 :=
          Quiet.takeGrant ((h.setWaitList rest).bindSlot i e.line (.inl hl)) i e.line
        dsimp only
        split
        · exact ih _ hq
        · exact hq
      · exact h

theorem Quiet.grantFreed {r : Chip × Option SlotNo} (h : Quiet c r.1) : Quiet c (grantFreed r) := by
  unfold Machine.grantFreed
  split
  · exact h.settleFreed _ _
  · exact h

theorem Quiet.releaseSlot (h : Quiet c d) (x : LineNo) : Quiet c (releaseSlot x d) := (h.dropSlot x).grantFreed

/-- A slot chosen for a line is unlocked or locked to it (04 R58). -/
theorem chooseSlot_lock {x : LineNo} {i : SlotNo} (h : d.chooseSlot x = some i) :
    (d.slot i).lock = none ∨ (d.slot i).lock = some x := by
  unfold Chip.chooseSlot at h
  dsimp only at h
  split at h
  · rename_i j hj
    have := List.find?_some hj
    simp only [Bool.and_eq_true, beq_iff_eq] at this
    cases h
    exact .inr this.1
  · split at h
    · rename_i j hj
      have := List.find?_some hj
      simp only [Bool.and_eq_true, Option.isNone_iff_eq_none] at this
      cases h
      exact .inl this.1.1
    · have := List.find?_some h
      simp only [Slot.free, Bool.and_eq_true, Option.isNone_iff_eq_none] at this
      exact .inl this.1

theorem Quiet.requestSlot (h : Quiet c d) (x : LineNo) (p : Purpose) (k : LineClass) :
    Quiet c (requestSlot x p k d) := by
  unfold Machine.requestSlot
  dsimp only
  have h1 := h.modLine x fun l => { l with askClass := k }
  split
  · exact h1.modLine _ _
  · split
    · rename_i i hi
      exact ((h1.bindSlot i x (chooseSlot_lock hi)).takeGrant i x).grantFreed
    · exact h1.setWaitList _

theorem Quiet.seize (h : Quiet c d) (x : LineNo) : Quiet c (seize x d) := by
  unfold Machine.seize
  dsimp only
  refine Quiet.requestSlot (Quiet.modLine (Quiet.setTone (Quiet.setSt ?_ x _) x _) x _) x _ _
  split
  · exact h
  · exact h.emit _ _

/-! ### Digits -/

theorem Quiet.writeDigits (h : Quiet c d) (x : LineNo) (ds : List Digit) (f : Option EndFlag) :
    Quiet c (writeDigits x ds f d).1 := by
  unfold Machine.writeDigits
  split
  · exact h
  · split
    · exact h.beginStall _
    · dsimp only
      exact (Quiet.modJwr h _ ⟨rfl, rfl, rfl, rfl, rfl, rfl, rfl⟩).modCtx x _

theorem Quiet.flushRecords (x : LineNo) (f : EndFlag) (b n : Nat) (ds : List Digit) (h : Quiet c d) :
    Quiet c (flushRecords x f b n ds d).1 := by
  induction n generalizing ds d with
  | zero => exact h
  | succ n ih =>
    unfold Machine.flushRecords
    split
    · dsimp only
      split
      · exact ih _ (h.writeDigits x _ _)
      · exact h.writeDigits x _ _
    · exact h.writeDigits x _ _

theorem Quiet.flushUpTo (h : Quiet c d) (x : LineNo) (f : EndFlag) (n : Nat) : Quiet c (flushUpTo x f n d) := by
  unfold Machine.flushUpTo
  split
  · exact h
  · dsimp only
    rename_i k _
    have hq := Quiet.flushRecords x f (d.blockSize x) (Config.bufferLimit + 1) (k.buffer.take n) h
    split
    · rename_i e; rw [e] at hq; exact hq.modCtx x _
    · rename_i e; rw [e] at hq; exact hq.modCtx x _

theorem Quiet.terminalFlush (h : Quiet c d) (x : LineNo) (f : EndFlag) : Quiet c (terminalFlush x f d) := h.flushUpTo x f _

theorem Quiet.dropPulses (h : Quiet c d) (x : LineNo) : Quiet c (dropPulses x d) := h.modCtx x _
theorem Quiet.emptyBuffer (h : Quiet c d) (x : LineNo) : Quiet c (emptyBuffer x d) := h.modCtx x _
theorem Quiet.enterRouting (h : Quiet c d) (x : LineNo) : Quiet c (enterRouting x d) := (h.setSt x _).setTone x _
theorem Quiet.stopDialling (h : Quiet c d) (x : LineNo) : Quiet c (stopDialling x d) := h.modLine _ _

theorem Quiet.writeDueBlock (h : Quiet c d) (x : LineNo) : Quiet c (writeDueBlock x d) := by
  unfold Machine.writeDueBlock
  split
  · exact h
  · split
    · dsimp only
      split
      · exact (h.writeDigits x _ _).modCtx x _
      · exact h.writeDigits x _ _
    · exact h

theorem Quiet.completeDigit (h : Quiet c d) (x : LineNo) : Quiet c (completeDigit x d) := by
  unfold Machine.completeDigit
  split
  · exact h
  · dsimp only
    split
    · split
      · exact (((h.modCtx x _).stopDialling x).terminalFlush x _).enterRouting x
      · exact ((h.modCtx x _).stopDialling x).terminalFlush x _
    · exact ((h.modCtx x _).writeDueBlock x).startDialling x

theorem Quiet.digitExpired (h : Quiet c d) (x : LineNo) : Quiet c (digitExpired x d) := by
  unfold Machine.digitExpired
  split
  · exact h.completeDigit x
  · exact h

theorem Quiet.countPulse (h : Quiet c d) (x : LineNo) : Quiet c (countPulse x d) := (h.modCtx x _).armDigit x

theorem Quiet.writeHeldBlocks (x : LineNo) (n : Nat) (h : Quiet c d) : Quiet c (writeHeldBlocks x n d) := by
  induction n generalizing d with
  | zero => exact h
  | succ n ih =>
    unfold Machine.writeHeldBlocks
    split
    · exact h
    · dsimp only
      split
      · split
        · exact ih ((h.writeDigits x _ _).modCtx x _)
        · exact h.writeDigits x _ _
      · exact h

theorem Quiet.resumeDigits (h : Quiet c d) (x : LineNo) : Quiet c (resumeDigits x d) := by
  unfold Machine.resumeDigits
  split
  · exact h
  · dsimp only
    rename_i k _
    have hq : Quiet c (match k.mark with
        | some (f, pos) => Machine.flushUpTo x f pos d
        | none => d) := by
      split
      · exact h.flushUpTo x _ _
      · exact h
    split
    · split
      · exact Quiet.writeHeldBlocks x _ hq
      · exact hq
    · exact hq

theorem Quiet.resume (h : Quiet c d) : Quiet c (resume d) := by
  unfold Machine.resume
  dsimp only
  refine Quiet.foldl _ (fun e x => ?_) _ (h.modJwr _ (by simp))
  split
  · exact (Quiet.refl e).resumeDigits x
  · exact Quiet.refl e

/-! ### Hooks -/

theorem Quiet.answer (h : Quiet c d) (x : LineNo) (m : AnswerMeans) : Quiet c (answer x m d) :=
  (((h.emit _ _).removeAlloc x).releaseSlot x).enterTalk x _

theorem Quiet.earlyAnswer (h : Quiet c d) (x : LineNo) : Quiet c (earlyAnswer x d) :=
  (((h.emit _ _).dropEntry x).releaseSlot x).enterTalk x _

theorem Quiet.hit (h : Quiet c d) (x : LineNo) : Quiet c (hit x d) := by
  unfold Machine.hit
  split
  · exact h.armDigit x
  · exact h

theorem Quiet.firstPulse (h : Quiet c d) (x : LineNo) : Quiet c (firstPulse x d) :=
  (((h.setSt x _).setTone x _).startDialling x).countPulse x

theorem Quiet.recallPulse (h : Quiet c d) (x : LineNo) : Quiet c (recallPulse x d) := by
  refine Quiet.countPulse ?_ x
  split
  · exact h.setTone x _
  · exact h

theorem Quiet.dialRestart (h : Quiet c d) (x : LineNo) : Quiet c (dialRestart x d) :=
  (((h.emptyBuffer x).stopDialling x).emit _ _).giveDialTone x

theorem Quiet.talkFlash (h : Quiet c d) (x : LineNo) : Quiet c (talkFlash x d) :=
  ((h.emit _ _).setSt x _).requestSlot x _ _

theorem Quiet.secondFlash (h : Quiet c d) (x : LineNo) : Quiet c (secondFlash x d) := by
  unfold Machine.secondFlash
  split
  · exact (((h.emptyBuffer x).emit _ _).setTone x _).startDialling x
  · dsimp only
    split
    · exact h.emit _ _
    · exact (h.emit _ _).requestSlot x _ _

theorem Quiet.judgeBreak (h : Quiet c d) (x : LineNo) (n : Nat) : Quiet c (judgeBreak x n d) := by
  unfold Machine.judgeBreak
  dsimp only
  split
  · split
    · exact h.firstPulse x
    · exact h.hit x
  · split
    · exact h.countPulse x
    · exact h.hit x
  · exact h.dialRestart x
  · exact h.emit _ _
  · exact h.talkFlash x
  · split
    · exact h.recallPulse x
    · exact h.hit x
  · exact h.secondFlash x
  · exact h.hit x

theorem Quiet.offHook (h : Quiet c d) (x : LineNo) (n : Nat) : Quiet c (offHook x n d) := by
  unfold Machine.offHook
  split
  · exact h.seize x
  · exact h.earlyAnswer x
  · exact h.answer x _
  all_goals first | exact h.judgeBreak x n | exact h

theorem Quiet.onHook (h : Quiet c d) (x : LineNo) : Quiet c (onHook x d) := by
  unfold Machine.onHook
  split
  · exact h.armClear x
  · exact h

theorem Quiet.abandon (h : Quiet c d) (x : LineNo) : Quiet c (abandon x d) := by
  unfold Machine.abandon
  dsimp only
  refine Quiet.enterReleaseGuard (Quiet.releaseSlot ?_ x) x
  split
  · exact h.setTone x _
  · exact (h.setTone x _).emit _ _

theorem Quiet.subscriberClear (h : Quiet c d) (x : LineNo) : Quiet c (subscriberClear x d) :=
  (((h.setTone x _).emit _ _).releaseSlot x).enterReleaseGuard x

theorem Quiet.clearExpired (h : Quiet c d) (x : LineNo) : Quiet c (clearExpired x d) := by
  unfold Machine.clearExpired
  split
  all_goals first | exact h.abandon x | exact h.subscriberClear x | exact h.enterReleaseGuard x | exact h

theorem Quiet.deliverExpiry (h : Quiet c d) (x : LineNo) : Quiet c (deliverExpiry x d) := by
  unfold Machine.deliverExpiry
  dsimp only
  split
  · split
    · exact (h.setThreshold x _).clearExpired x
    · exact (h.setThreshold x _).digitExpired x
    · exact h.setThreshold x _
  · exact h

theorem Quiet.discardTrip (h : Quiet c d) (x : LineNo) : Quiet c (discardTrip x d) := by
  unfold Machine.discardTrip
  dsimp only
  split
  · exact ((h.modLine _ _).modCtx x _).raiseFault _ _ _
  · exact (h.modLine _ _).modCtx x _

theorem Quiet.confirmTrip (h : Quiet c d) (x : LineNo) : Quiet c (confirmTrip x d) := by
  unfold Machine.confirmTrip
  dsimp only
  split
  · exact (h.modLine _ _).answer x _
  · exact h.modLine _ _

theorem Quiet.tripSense (h : Quiet c d) (x : LineNo) (b : Bool) : Quiet c (tripSense x b d) := by
  unfold Machine.tripSense
  dsimp only
  split
  · split
    · exact h.confirmTrip x
    · exact h.modLine _ _
  · split
    · exact h.discardTrip x
    · exact h

theorem Quiet.recognise (h : Quiet c d) (x : LineNo) (k : Hook) : Quiet c (recognise x k d) := by
  unfold Machine.recognise
  dsimp only
  split
  · exact (h.modLine _ _).offHook x _
  · exact (h.modLine _ _).onHook x

theorem Quiet.loopSense (h : Quiet c d) (x : LineNo) (b : Bool) : Quiet c (loopSense x b d) := by
  unfold Machine.loopSense
  dsimp only
  split
  · exact h.modLine _ _
  · split
    · exact h.recognise x _
    · exact h.modLine _ _

theorem Quiet.firstState (h : Quiet c d) (x : LineNo) (k : Hook) : Quiet c (firstState x k d) := by
  unfold Machine.firstState
  dsimp only
  split
  · split
    · exact (h.modLine _ _).enterIdle x
    · exact (h.modLine _ _).enterParked x _
  · exact h.modLine _ _

theorem Quiet.firstSense (h : Quiet c d) (x : LineNo) (b : Bool) : Quiet c (firstSense x b d) := by
  unfold Machine.firstSense
  dsimp only
  split
  · exact h.firstState x _
  · exact h.modLine _ _

theorem Quiet.senseLine (h : Quiet c d) (x : LineNo) (b t : Bool) : Quiet c (senseLine x b t d) := by
  unfold Machine.senseLine
  dsimp only
  split
  · exact h
  · split
    · exact h.tripSense x t
    · split
      · exact h.modLine _ _
      · exact h.loopSense x b

/-- A sample is quiet. -/
theorem Quiet.sample (h : Quiet c d) (x : LineNo) (b t : Bool) : Quiet c (sample x b t d) := by
  unfold Machine.sample
  split
  · exact h
  · exact h.firstSense x b
  · exact Quiet.senseLine (Quiet.deliverExpiry (h.modLine x _) x) x b t

/-! ### Boundaries -/

theorem Quiet.ringExpired (h : Quiet c d) (x : LineNo) : Quiet c (ringExpired x d) := by
  unfold Machine.ringExpired
  split
  · exact h
  · exact (((h.emit _ _).removeAlloc x).releaseSlot x).enterPostRingGuard x

theorem Quiet.shedOver (n : Nat) (h : Quiet c d) : Quiet c (shedOver n d) := by
  induction n generalizing d with
  | zero => exact h
  | succ n ih =>
    unfold Machine.shedOver
    split
    · split
      · exact ih (h.shedLine _ _)
      · exact h
    · exact h

theorem Quiet.boundaryLine (h : Quiet c d) (x : LineNo) : Quiet c (boundaryLine x d) := by
  unfold Machine.boundaryLine
  split
  · dsimp only
    split
    · split
      · split
        · exact (h.modCtx x _).ringExpired x
        · exact (h.modCtx x _).setRelay x _
      · exact h.setRelay x _
    · split
      · exact (h.modCtx x _).setRelay x _
      · exact h
  · exact h

/-- The per-line work of a boundary is quiet. -/
theorem Quiet.boundaryLines (l : List LineNo) (h : Quiet c d) : Quiet c (l.foldl (fun c x => Machine.boundaryLine x c) d) :=
  Quiet.foldl _ (fun d x => (Quiet.refl d).boundaryLine x) l h

end Sys2Proof.Machine
end

