-- ==== Sys2Proof/Laws/Settle.lean ====
section
/-! SUPPORT. What settling a command does: it changes the idle stop timer and the access in progress, and nothing else; and how a
frame is shown. -/

namespace Sys2Proof.Machine

/-! ### The idle stop timer -/

theorem settleIdle_eq (c0 c : Chip) :
    settleIdle c0 c = { c with gen := { c.gen with idleTimer := (settleIdle c0 c).gen.idleTimer } } := by
  unfold settleIdle
  split
  · split <;> rfl
  · rfl

/-- After a command the idle stop timer runs only while the generator is idle (08 R130). -/
theorem settleIdle_none (c0 c : Chip) (h : c.genIdle = false) : (settleIdle c0 c).gen.idleTimer = none := by
  simp [settleIdle, h]

/-! ### The access in progress -/

theorem arbitrate_eq (c : Chip) : arbitrate c = { c with mpt := { c.mpt with busy := (arbitrate c).mpt.busy } } := by
  unfold arbitrate
  split
  · split <;> rfl
  · rfl

theorem settle_eq (c0 c : Chip) :
    settle c0 c =
      { c with
        gen := { c.gen with idleTimer := (settleIdle c0 c).gen.idleTimer }
        mpt := { c.mpt with busy := (settle c0 c).mpt.busy } } := by
  have h := arbitrate_eq (settleIdle c0 c)
  have k := settleIdle_eq c0 c
  unfold settle
  rw [h]
  generalize (arbitrate (settleIdle c0 c)).mpt.busy = b
  rw [k]

variable (c0 c : Chip)

@[simp] theorem settle_lines : (settle c0 c).lines = c.lines := by rw [settle_eq]
@[simp] theorem settle_sets : (settle c0 c).sets = c.sets := by rw [settle_eq]
@[simp] theorem settle_sst : (settle c0 c).sst = c.sst := by rw [settle_eq]
@[simp] theorem settle_ctb : (settle c0 c).ctb = c.ctb := by rw [settle_eq]
@[simp] theorem settle_rsc : (settle c0 c).rsc = c.rsc := by rw [settle_eq]
@[simp] theorem settle_ord : (settle c0 c).ord = c.ord := by rw [settle_eq]
@[simp] theorem settle_jwr : (settle c0 c).jwr = c.jwr := by rw [settle_eq]
@[simp] theorem settle_shc : (settle c0 c).shc = c.shc := by rw [settle_eq]
@[simp] theorem settle_line (x : LineNo) : (settle c0 c).line x = c.line x := by rw [settle_eq]; rfl
@[simp] theorem settle_slot (i : SlotNo) : (settle c0 c).slot i = c.slot i := by rw [settle_eq]; rfl
@[simp] theorem settle_gen_state : (settle c0 c).gen.state = c.gen.state := by rw [settle_eq]
@[simp] theorem settle_gen_startTimer : (settle c0 c).gen.startTimer = c.gen.startTimer := by rw [settle_eq]
@[simp] theorem settle_gen_holdTimer : (settle c0 c).gen.holdTimer = c.gen.holdTimer := by rw [settle_eq]
@[simp] theorem settle_gen_history : (settle c0 c).gen.history = c.gen.history := by rw [settle_eq]
@[simp] theorem settle_gen_overload : (settle c0 c).gen.overload = c.gen.overload := by rw [settle_eq]
@[simp] theorem settle_gen_startTime : (settle c0 c).gen.startTime = c.gen.startTime := by rw [settle_eq]
@[simp] theorem settle_gen_idleStop : (settle c0 c).gen.idleStop = c.gen.idleStop := by rw [settle_eq]
@[simp] theorem settle_gen_tripHold : (settle c0 c).gen.tripHold = c.gen.tripHold := by rw [settle_eq]
@[simp] theorem settle_gen_tripWindow : (settle c0 c).gen.tripWindow = c.gen.tripWindow := by rw [settle_eq]
@[simp] theorem settle_mpt_last : (settle c0 c).mpt.last = c.mpt.last := by rw [settle_eq]
@[simp] theorem settle_mpt_coreReads : (settle c0 c).mpt.coreReads = c.mpt.coreReads := by rw [settle_eq]
@[simp] theorem settle_mpt_reqs : (settle c0 c).mpt.reqs = c.mpt.reqs := by rw [settle_eq]
@[simp] theorem settle_mpt_read : (settle c0 c).mpt.read = c.mpt.read := by rw [settle_eq]
@[simp] theorem settle_genEnable : (settle c0 c).genEnable = c.genEnable := by rw [settle_eq]; rfl
@[simp] theorem settle_interrupt : (settle c0 c).interrupt = c.interrupt := by rw [settle_eq]; rfl
@[simp] theorem settle_gen_idle :
    { (settle c0 c).gen with idleTimer := none } = { c.gen with idleTimer := none } := by rw [settle_eq]
@[simp] theorem settle_mpt_busy :
    { (settle c0 c).mpt with busy := none } = { c.mpt with busy := none } := by rw [settle_eq]

/-- The idle stop timer after settling. -/
theorem settle_idleTimer : (settle c0 c).gen.idleTimer = (settleIdle c0 c).gen.idleTimer := by rw [settle_eq]

/-! ### The access wanted does not look at the idle stop timer -/

theorem nextAccess_settleIdle : (settleIdle c0 c).nextAccess = c.nextAccess := by rw [settleIdle_eq]; rfl

theorem wants_settleIdle (a : Access) : (settleIdle c0 c).wants a = c.wants a := by
  rw [settleIdle_eq]
  cases a <;> rfl

/-- The access in progress after settling: the one before while it is wanted, else the arbiter's next (10 R160). -/
theorem settle_busy :
    (settle c0 c).mpt.busy =
      match c.mpt.busy with
      | some a => if c.wants a then some a else c.nextAccess
      | none => c.nextAccess := by
  have e : (settleIdle c0 c).mpt = c.mpt := by rw [settleIdle_eq]
  unfold settle arbitrate
  rw [e]
  generalize hb : c.mpt.busy = b
  cases b with
  | none => exact nextAccess_settleIdle c0 c
  | some a =>
    dsimp only
    rw [wants_settleIdle]
    split
    · rw [e, hb]
    · exact nextAccess_settleIdle c0 c

/-! ### Outcomes -/

theorem finish_eq (s : State) (d : Chip) : finish s d = .next { s with chip := settle s.chip d } := rfl

theorem finishRam_eq (s : State) (d : Chip) (m : Memory) :
    finishRam s (d, m) = .next { s with chip := settle s.chip d, ram := m } := rfl

theorem inRam_of_le {a n : Nat} (h : a + n ≤ Config.ramWords) (k : Out) : inRam a n k = k := if_pos h

/-! ### The accesses of a row -/

theorem accesses_zero (u : Chip → Bool) (one : State → Out) (s : State) : accesses u one 0 s = one s := rfl

/-- A row of which an access is made that leaves it under way goes on with the rest. -/
theorem accesses_succ {u : Chip → Bool} {one : State → Out} {s t : State} (h : one s = .next t) (hu : u t.chip = true)
    (n : Nat) : accesses u one (n + 1) s = accesses u one n t := by simp [accesses, h, hu]

/-- A row that an access brings to its end goes no further. -/
theorem accesses_done {u : Chip → Bool} {one : State → Out} {s t : State} (h : one s = .next t) (hu : u t.chip = false)
    (n : Nat) : accesses u one n s = .next t := by
  cases n with
  | zero => exact h
  | succ n => simp [accesses, h, hu]

/-- What every access of a row keeps, the row keeps. -/
theorem accesses_keeps {u : Chip → Bool} {one : State → Out} {P : State → Prop}
    (h : ∀ s t, P s → one s = .next t → P t) (n : Nat) {s t : State} (hs : P s) (e : accesses u one n s = .next t) :
    P t := by
  induction n generalizing s with
  | zero => exact h s t hs e
  | succ n ih =>
    simp only [accesses] at e
    split at e
    · next r hr =>
      split at e
      · exact ih (h s r hs hr) e
      · cases e
        exact h s _ hs hr
    · cases e
    · cases e

/-- A row whose accesses all go on, goes on. -/
theorem accesses_next {u : Chip → Bool} {one : State → Out} {P : State → Prop}
    (h : ∀ s, P s → ∃ t, one s = .next t ∧ P t) (n : Nat) {s : State} (hs : P s) :
    ∃ t, accesses u one n s = .next t ∧ P t := by
  induction n generalizing s with
  | zero => exact h s hs
  | succ n ih =>
    obtain ⟨t, ht, pt⟩ := h s hs
    by_cases hu : u t.chip = true
    · rw [accesses_succ ht hu]
      exact ih pt
    · exact ⟨t, accesses_done ht (by simpa using hu) _, pt⟩

/-! ### Frames -/

/-- A frame holds if every part not named is kept. -/
theorem OnlyChanges.of_chip {ps : List Part} {s : State} {d : Chip} {m : Memory}
    (lines : .lines ∉ ps → d.lines = s.chip.lines) (sets : .sets ∉ ps → d.sets = s.chip.sets)
    (slots : .slots ∉ ps → d.sst = s.chip.sst) (timebase : .timebase ∉ ps → d.ctb = s.chip.ctb)
    (scheduler : .scheduler ∉ ps → d.rsc = s.chip.rsc)
    (generator : .generator ∉ ps → { d.gen with idleTimer := none } = { s.chip.gen with idleTimer := none })
    (orders : .orders ∉ ps → d.ord = s.chip.ord) (journal : .journal ∉ ps → d.jwr = s.chip.jwr)
    (port : .port ∉ ps → { d.mpt with busy := none } = { s.chip.mpt with busy := none })
    (shelf : .shelf ∉ ps → d.shc = s.chip.shc) (ram : .ram ∉ ps → m = s.ram) :
    OnlyChanges ps s { s with chip := settle s.chip d, ram := m } := by
  intro p hp
  cases p with
  | lines => intro x; simp [Chip.line, lines hp]
  | sets => simp [Part.Kept, sets hp]
  | slots => simp [Part.Kept, slots hp]
  | timebase => simp [Part.Kept, timebase hp]
  | scheduler => simp [Part.Kept, scheduler hp]
  | generator => simp [Part.Kept, generator hp]
  | orders => simp [Part.Kept, orders hp]
  | journal => simp [Part.Kept, journal hp]
  | port => simp [Part.Kept, port hp]
  | shelf => simp [Part.Kept, shelf hp]
  | ram => intro a; simp [ram hp]
  | queue => rfl

end Sys2Proof.Machine
end

