-- ==== Sys2Proof/Tests/Slice0.lean ====
section
/-! SUPPORT. The author's own tests: ill-formed commands that the checks refuse, single steps on small states with the outcome the
spec gives, and for every statement with hypotheses a concrete state and operands that meet them (`witness_…`). -/

namespace Sys2Proof.Tests

open Sys2Proof Sys2Proof.Machine

set_option maxRecDepth 8000

/-! ## Small states -/

/-- A header with N = 12 and two pages, areas from word 48 on. -/
def hdr : Header := ⟨96, 12, 2, 48, 128, 208, 976, 1072, 1328⟩

/-- A running shelf in which nothing happens. -/
def chip : Chip := { Chip.reset with shc := { Shc.reset with run := .running, hdr := hdr } }

def ofChip (c : Chip) : State := { State.reset with chip := c }

/-- The running shelf with line 5 and slot 3 as given. -/
def made (l : Line) (k : Slot := Slot.reset) (f : Chip → Chip := id) : State :=
  ofChip (f ((chip.modLine 5 fun _ => l).modSlot 3 fun _ => k))

/-- The state after a command, where it goes on. -/
def after (i : Instr) (s : State) : State :=
  match exec i s with
  | .next t => t
  | _ => s

/-- A supervised line on-hook in a state. -/
def lineIn (st : LineSt) : Line := { Line.reset with st := st, equipped := true, sampling := .on }

/-- The same off-hook. -/
def offIn (st : LineSt) : Line := { lineIn st with hook := .off }

/-- A record of a SINGLE line with block size 1, load 1 and plan 0. -/
def record : Vector Word 8 := #v[0x8020, 1, 1, 0, 0, 0, 0, 0]

/-- A slot held by line 5, its record in hand. -/
def held : Slot :=
  { Slot.reset with status := .bound, holder := some 5, recLine := some 5, copy := record, words := 8 }

/-- Every slot bound to line 9. -/
def full (c : Chip) : Chip := { c with sst := { c.sst with slots := Vector.replicate 16 { held with holder := some 9, recLine := some 9 } } }

def serving (a : Access) (c : Chip) : Chip := c.modMpt fun m => { m with busy := some a }

def planned (c : Chip) : Chip := c.modCtb fun t => { t with active := t.active.set 0 (some [6, 6]) }

def genIn (g : GenSt) (c : Chip) : Chip := c.modGen fun x => { x with state := g }

/-- An allocation of line 5 on plan 0 at offset 1. -/
def alloc : Alloc := ⟨1, 0, 1, 1, .ordinary, 0, 1, .code 0⟩

/-- Line 5 rings from slot 3. -/
def ringing : State :=
  made { lineIn .ringing with slot := some 3, relay := true }
    { held with ctx := { Ctx.fresh with alloc := some alloc, burst := true } }
    fun c => genIn .running (planned (c.modRsc fun r => { r with allocs := [5], plt := List.replicate 12 1 }))

def entry : RingWait := ⟨5, 1, some 0, 0, .ordinary, 0, none, false, false, 0⟩

/-! ## Ill-formed commands are refused by the checks -/

theorem test_ring_line_96 : (Instr.ring 96 1 0 0 0).wellFormed = false := by decide
theorem test_ring_party_0 : (Instr.ring 5 0 0 0 0).wellFormed = false := by decide
theorem test_ring_party_5 : (Instr.ring 5 5 0 0 0).wellFormed = false := by decide
theorem test_ring_plan_9 : (Instr.ring 5 1 9 0 0).wellFormed = false := by decide
theorem test_ring_cycles_256 : (Instr.ring 5 1 0 256 0).wellFormed = false := by decide
theorem test_ring_priority_2 : (Instr.ring 5 1 0 0 2).wellFormed = false := by decide
theorem test_tone_bus_1 : (Instr.tone 5 1).wellFormed = false := by decide
theorem test_invalidate_96 : (Instr.invalidate 96).wellFormed = false := by decide
theorem test_reload_8 : (Instr.reloadPlan 8).wellFormed = false := by decide
theorem test_capacity_0 : (Instr.setCapacity 0 0).wellFormed = false := by decide
theorem test_reserve_256 : (Instr.setCapacity 1 256).wellFormed = false := by decide
theorem test_mode_2 : (Instr.powerMode 2).wellFormed = false := by decide
theorem test_block_96 : (Instr.block 96).wellFormed = false := by decide
theorem test_area_base_32768 : (Instr.areaBaseWrite 32768).wellFormed = false := by decide
theorem test_attention_32 : (Instr.attentionWrite 32).wellFormed = false := by decide
theorem test_control_7 : (Instr.controlRegisterWrite 7).wellFormed = false := by decide

/-! ## Single steps against the spec -/

/-- 02 R28: with pulse min 10 ms a break of 5 samples is a pulse, one of 4 is a hit; the first pulse removes dial tone. -/
theorem test_first_pulse :
    ((after (.hookTransition 5 true false)
      (made { lineIn .dialTone with slot := some 3, run := 1, interval := 4, tone := .dial } held)).chip.line 5).st = .dialling ∧
    ((after (.hookTransition 5 true false)
      (made { lineIn .dialTone with slot := some 3, run := 1, interval := 3, tone := .dial } held)).chip.line 5).tone = .dial := by
  decide

/-- 03 R41: ten pulses are the digit 0, and block size 1 writes it at once. -/
theorem test_ten_pulses :
    (after (.digitExpiry 5 true false)
      (made { offIn .dialling with slot := some 3, interval := 74, threshold := .digit 75 }
        { held with ctx := { Ctx.fresh with pulses := 10 } })).chip.jwr.queue =
      [⟨some 5, 0, .digits [.value 0] none false⟩] := by decide

/-- 06 R94: with one load of 1 at every step and capacity 1 no offset fits, with capacity 2 the first does. -/
theorem test_first_fit :
    findOffset 12 (List.replicate 12 1) [6, 6] 1 1 11 = none ∧ findOffset 12 (List.replicate 12 1) [6, 6] 1 2 11 = some 1 := by
  decide

/-- 05 R75: in the plan 4 ON, 2 OFF, 4 ON, 2 OFF the steps 0, 3, 6, 9 are ON and 4, 5, 10, 11 OFF. -/
theorem test_plan_steps :
    [0, 3, 4, 5, 6, 9, 10, 11].map (planOn [4, 2, 4, 2]) = [true, true, false, false, true, true, false, false] := by decide

/-- 05 R75: five segments, a segment of 0, and a sum other than N are malformed. -/
theorem test_malformed_plans :
    parsePlan 12 [5, 4, 2, 2, 2, 2] = .malformed ∧ parsePlan 12 [2, 12, 0] = .malformed ∧
      parsePlan 12 [2, 6, 7] = .malformed ∧ parsePlan 12 [2, 6, 6] = .good [6, 6] ∧ parsePlan 12 [0, 6, 6] = .absent := by decide

/-- 11 R171: the millisecond counter goes from 65,534 to 0. -/
theorem test_ms_wraps :
    (match step (ofChip { chip with shc := { chip.shc with ms := 65534 } }) with
      | .next t => t.chip.shc.ms
      | _ => 1) = 0 := by decide

/-- 10 Table 10-13: Status shows HALTED as 0 and a running shelf with a locked-out generator as 2 and 4. -/
theorem test_status_word : Chip.reset.readStatus = 0 ∧ (genIn .lockedOut chip).readStatus = 0x22 := by decide

/-- 01 R1: signalling code 3 is taken as BOTH. -/
theorem test_signalling_codes : [0x0000, 0x1000, 0x2000, 0x3000].map recSig = [.pulse, .tone, .both, .both] := by decide

/-! ## Witnesses: the machine and Shelf Control -/

theorem witness_StepRunsFrontCommand :
    ({ State.reset with pending := [.orderPass, .idleStop] } : State).pending = .orderPass :: [.idleStop] := rfl

theorem witness_IdleStepIsOneScanPeriod :
    (made { lineIn .releaseGuard with guard := some ⟨99, 100⟩ }).pending = [] ∧
      ((made (lineIn .idle)).chip.shc.run = .running) ∧ State.reset.chip.shc.run = .halted ∧
      (ofChip (chip.modGen fun g => { g with state := .running })).chip.genIdle = true := by decide

theorem witness_CommandsGoByRunState :
    State.reset.chip.shc.run = .halted ∧ (ofChip chip).chip.shc.run ≠ .halted ∧
      (ofChip { chip with shc := { chip.shc with run := .failed } }).chip.shc.run = .failed ∧
      (after (.start true 31) State.reset).chip.shc.run = .starting := by decide

theorem witness_StopPutsEveryBlockAtRest :
    (ofChip chip).chip.shc.run ≠ .halted ∧ (ofChip chip).chip.shc.run ≠ .failed ∧
      (after (.stop false 0) ringing).chip.shc.run = .halted := by decide

theorem witness_WarmRestartKeepsCalls :
    ringing.chip.shc.run = .running ∧ ((after (.warmRestart false 0) ringing).chip.line 5).st = .idle ∧
      ((after (.warmRestart false 0) (made (offIn .recall))).chip.line 5).st = .seizeWait ∧
      ((after (.warmRestart false 0) (made (lineIn .recall))).chip.line 5).guard = some ⟨0, 100⟩ ∧
      ((after (.warmRestart false 0) (made (lineIn .talk))).chip.line 5).st = .talk := by decide

/-- An open page with `n` words used. -/
def paged (n : Nat) : State :=
  ofChip (chip.modJwr fun j => { j with page := .opened, used := n, closeTimer := some ⟨10, 10⟩ })

theorem witness_FlushAndTimerCloseAHeldPage :
    let busy := ofChip (serving .order (paged 62).chip)
    Memory.wf (paged 62).ram ∧ (paged 62).chip.jwr.page = .opened ∧ 0 < (paged 62).chip.jwr.used ∧
      (paged 62).chip.pageAddr + 64 ≤ Config.ramWords ∧ (paged 62).chip.shc.run = .running ∧
      (paged 62).chip.journalOpen = true ∧ timerDue (paged 62).chip.jwr.closeTimer = true ∧
      (paged 62).chip.jwr.closing = .no ∧ (paged 62).chip.mpt.busy = none ∧ busy.chip.mpt.busy ≠ none ∧
      (paged 0).chip.jwr.used = 0 ∧ (after (.flush true 0) (paged 62)).chip.mpt.busy = some .journal ∧
      (after (.flush true 0 1) (paged 62)).chip.jwr.closing = .begun ∧ (after (.flush true 0 2) (paged 62)).chip.jwr.index = 1 ∧
      (after (.memoryTimeout .journal) (after (.flush true 0) (paged 62))).chip.shc.run = .isolated ∧
      (after (.pageCloseTimerExpiry 2) busy).chip.jwr.closing = .asked := by decide

/-- A held fault. -/
def faulted (k : FaultKind) : Chip := { chip with shc := { chip.shc with fault := some ⟨k, none, 0, 7⟩ } }

theorem witness_FaultRecordCapturesAndClears :
    chip.shc.fault = none ∧ (faulted .genTrip).shc.fault = some ⟨.genTrip, none, 0, 7⟩ ∧ FaultKind.genTrip.major = false ∧
      FaultKind.memoryTimeout.major = true ∧ chip.shc.run = .running ∧ chip.jwr.stall = .none ∧ chip.jwr.full = false ∧
      chip.jwr.summaries[(5 : LineNo)] = none ∧ chip.shc.sel = false ∧
      (offerFault .memoryTimeout none 0 (faulted .genTrip)).shc.fault = some ⟨.memoryTimeout, none, 0, 0⟩ := by decide

theorem witness_ControlWriteActsOnItsCommand : [0x1F8, 1, 2, 3, 4, 5, 6, 7].map commandField = [0, 1, 2, 3, 4, 5, 6, 7] := by
  decide

theorem witness_AreaBaseAndAttentionWrites :
    State.reset.chip.shc.run = .halted ∧ (ofChip chip).chip.shc.run ≠ .halted ∧
      (after (.areaBaseWrite 0xFFFF) State.reset).chip.readAreaBase = 0x7FFF := by decide

/-! ## Witnesses: budget and generator -/

theorem witness_BudgetIsStaged :
    Ready (ofChip chip) ∧ (1 : Word).toNat = 1 ∧ (255 : Word).toNat ≤ 255 ∧
      (after (.setCapacity 1 255) (ofChip chip)).chip.rsc.staged = some (1, 1) := by
  unfold Ready; decide

/-- Two lines that hold a slot hold two slots where only line 5 holds one. -/
theorem apart {s : State} (h : ∀ x, x ≠ 5 → (s.chip.line x).slot = none) (x y : LineNo)
    (e : (s.chip.line x).slot = (s.chip.line y).slot) (n : (s.chip.line x).slot ≠ none) : x = y := by
  by_cases hx : x = 5
  · by_cases hy : y = 5
    · rw [hx, hy]
    · exact absurd (e.trans (h y hy)) n
  · exact absurd (h x hx) n

/-- The Phase Load Table of line 5's allocation. -/
def loaded : State :=
  { ringing with chip := ringing.chip.modRsc fun r => { r with plt := [0, 1, 1, 1, 1, 1, 1, 0, 0, 0, 0, 0] } }

/-- A generator with two overloads behind it, the older of them `age` ms ago, and a window of 10 s. -/
def twice (age : Nat) : State :=
  ofChip (chip.modGen fun g => { g with state := .running, history := [0, age], tripWindow := 10, tripHold := 1 })

theorem witness_OverloadTripsTheGenerator :
    AllocLaw loaded.chip ∧ loaded.chip.rsc.plt = loaded.chip.loads ∧ loaded.chip.jwr.counted + 1 + 2 ≤ 32 ∧ QueuesShelf loaded ∧
      loaded.chip.jwr.summaries[(5 : LineNo)] = none ∧ (twice 10000).chip.gen.state = .running ∧
      2 ≤ ((twice 10000).chip.gen.history.filter (· ≤ 1000 * (twice 10000).chip.gen.tripWindow)).length ∧
      ((twice 10002).chip.gen.history.filter (· ≤ 1000 * (twice 10002).chip.gen.tripWindow)).length < 2 ∧
      (ofChip chip).chip.gen.state ≠ .starting ∧ (ofChip chip).chip.gen.state ≠ .running ∧
      (after (.overloadAsserted false) (twice 10000)).chip.gen.state = .lockedOut ∧
      (after (.overloadAsserted false) (twice 10002)).chip.gen.state = .tripped ∧
      (after (.overloadAsserted true) loaded).chip.rsc.plt = List.replicate 12 0 := by
  refine ⟨⟨by decide, by decide, apart (by decide)⟩, by decide, by decide, ?_, by decide⟩
  unfold QueuesShelf; decide

/-- The generator in a state with every timer run out. -/
def timed (g : GenSt) : State :=
  ofChip (chip.modGen fun x =>
    { x with state := g, startTimer := some ⟨100, 100⟩, idleTimer := some ⟨1000, 1000⟩, holdTimer := some ⟨1000, 1000⟩ })

theorem witness_GeneratorChangesState :
    let asked := fun (g : GenSt) (ov : Bool) =>
      made { lineIn .ringWait with slot := some 3 } held fun c =>
        planned ({ c with gen := { (timed g).chip.gen with overload := ov } : Chip }.modRsc fun r => { r with queue := [entry] })
    timerDue (timed .starting).chip.gen.startTimer = true ∧ (timed .running).chip.genIdle = true ∧
      timerDue (timed .running).chip.gen.idleTimer = true ∧ timerDue (timed .tripped).chip.gen.holdTimer = true ∧
      (timed .tripped).chip.gen.overload = false ∧ (timed .tripped).chip.demand = false ∧
      (asked .tripped true).chip.demand = true ∧ (asked .tripped true).chip.gen.overload = true ∧
      timerDue (asked .tripped true).chip.gen.holdTimer = true ∧ QueuesShelf (asked .tripped true) ∧
      Ready (asked .lockedOut true) ∧ (asked .lockedOut false).chip.demand = true ∧ Ready (ofChip chip) ∧
      (after .holdEnd (asked .tripped true)).chip.gen.state = .tripped ∧
      (after .holdEnd (asked .tripped false)).chip.gen.state = .starting ∧
      (after .genReset (asked .lockedOut true)).chip.gen.state = .tripped ∧
      (after .genReset (timed .lockedOut)).chip.gen.state = .off := by
  unfold Ready QueuesShelf; decide

/-! ## Witnesses: the scanner -/

theorem witness_SampleCounts :
    let idle := { lineIn .idle with interval := 65535 }
    let tripping := { lineIn .ringing with relay := true, tripRun := 1, slot := some 3 }
    let third := made tripping { held with ctx := { Ctx.fresh with tripDiscards := 2 } }
    let first := { lineIn .unequipped with sampling := .first, run := 1 }
    ((made Line.reset).chip.line 5).sampling = .off ∧ idle.sampling = .on ∧
      Line.thresholdDue { idle with interval := min 65535 (idle.interval + 1) } = false ∧
      Line.thresholdDue { tripping with interval := 1 } = false ∧ 0 < tripping.tripRun ∧
      tripping.tripRun < (third.chip.timing 5).tripConfirm ∧ (third.chip.slot 3).ctx.tripDiscards = 2 ∧ Queues 5 third ∧
      { idle with relay := true }.tripRun = 0 ∧ 0 + 1 < ((made idle).chip.timing 5).tripConfirm ∧
      0 < { idle with blank := 1 }.blank ∧ false = (idle.hook == .off) ∧ true = (idle.hook == .on) ∧
      idle.run + 1 < ((made idle).chip.timing 5).debounce ∧ first.tentative ≠ .off ∧ 1 < ((made first).chip.timing 5).debounce ∧
      ((after (.lineSample 5 true false) (made idle)).chip.line 5).run = 1 ∧
      ((after (.lineSample 5 true false) (made first)).chip.line 5).run = 1 ∧
      (after (.lineSample 5 false false) third).chip.shc.fault = some ⟨.unstableTrip, some 5, 0, 0⟩ := by
  unfold Queues; decide

theorem witness_HookTransitionIsRecognised :
    (made { lineIn .blocked with run := 1 }).AboutToTurn 5 true ∧ (made { offIn .talk with run := 1 }).AboutToTurn 5 false ∧
      ((after (.hookTransition 5 false false) (made { offIn .talk with run := 1 })).chip.line 5).threshold = .clear 101 := by
  unfold State.AboutToTurn; decide

/-- A line about to be seized, and one at the end of its guard. -/
def turning : Line := { lineIn .idle with run := 1 }
def guarded : Line := { offIn .releaseGuard with guard := some ⟨100, 100⟩ }

/-- Slot 3 holds a copy of line 5's record, and nobody holds the slot. -/
def kept : Slot := { held with status := .warm, holder := none, lock := none }

theorem witness_SeizureAsksForASlot :
    let loose := made turning { kept with status := .bound, phase := .fetching, words := 3 }
    let warm := made turning kept planned
    let spoilt := made turning kept
    (made turning).Seizes (.hookTransition 5 true false) 5 ∧ (made guarded).Seizes (.guardExpiry 5) 5 ∧
      Queues 5 (made turning) ∧ Queues 5 (made guarded Slot.reset full) ∧ turning.slot = none ∧ (made turning).chip.entry 5 = none ∧
      (made turning).chip.chooseSlot 5 = some 0 ∧ ((made turning).chip.slot 0).Misses 5 ∧
      (made guarded Slot.reset full).chip.chooseSlot 5 = none ∧ loose.chip.chooseSlot 5 = some 3 ∧
      (loose.chip.slot 3).status = .bound ∧ (loose.chip.slot 3).holder = none ∧ warm.chip.chooseSlot 5 = some 3 ∧
      (warm.chip.slot 3).status = .warm ∧ (warm.chip.slot 3).recLine = some 5 ∧
      recordValid warm.chip.planPresent (warm.chip.slot 3).copy = true ∧ warm.chip.jwr.counted + 2 ≤ 32 ∧
      (made turning { kept with recLine := none, status := .empty, lock := some 5 }).chip.chooseSlot 5 = some 3 ∧
      spoilt.chip.chooseSlot 5 = some 3 ∧ spoilt.chip.Spoilt 3 5 ∧ spoilt.chip.sst.waitList = [] ∧ spoilt.chip.jwr.counted + 3 ≤ 32 ∧
      (after (.hookTransition 5 true false) spoilt).chip.jwr.queue =
        [⟨some 5, 0, .seize⟩, ⟨some 5, 0, .fault .recordInvalid 0⟩, ⟨some 5, 0, .park .recordInvalid⟩] ∧
      ((after (.hookTransition 5 true false) loose).chip.line 5).slot = some 3 ∧
      ((after (.hookTransition 5 true false) warm).chip.line 5).tone = .dial := by
  refine ⟨.inl ⟨false, rfl, ?_, by decide⟩, .inr (by decide), ?_⟩
  · unfold State.AboutToTurn; decide
  · unfold Queues Slot.Misses Chip.Spoilt; decide

theorem witness_BreakIsJudged :
    let at' := fun (st : LineSt) (n : Nat) (x : Option SlotNo) =>
      made { lineIn st with slot := x, run := 1, interval := n, tone := .dial } { held with ctx := { Ctx.fresh with pulses := 2 } }
    let brk := fun (st : LineSt) (n : Nat) (x : Option SlotNo) => after (.hookTransition 5 true false) (at' st n x)
    (∀ st ∈ [LineSt.dialTone, .dialling, .recall, .routing, .seizeWait, .parked, .talk], ∀ n ∈ [3, 4, 19, 20, 29, 99, 100],
        (at' st n (some 3)).AboutToTurn 5 true) ∧
      Queues 5 (at' .routing 29 none) ∧ ((at' .dialTone 4 (some 3)).chip.timing 5).InPulse 5 ∧
      ((at' .dialTone 4 (some 3)).chip.timing 5).InPulse 20 ∧ ((at' .dialTone 4 (some 3)).chip.timing 5).InFlash 30 ∧
      ((at' .dialTone 4 (some 3)).chip.timing 5).InFlash 100 ∧ ¬((at' .dialTone 4 (some 3)).chip.timing 5).InFlash 101 ∧
      ¬((at' .dialTone 4 (some 3)).chip.timing 5).InPulse 4 ∧ (at' .recall 29 none).chip.listed 5 = false ∧
      (at' .recall 29 none).chip.chooseSlot 5 = some 0 ∧
      (made { lineIn .recall with run := 1, interval := 29 } Slot.reset full).chip.chooseSlot 5 = none ∧
      ((brk .dialTone 19 (some 3)).chip.line 5).st = .dialling ∧ ((brk .dialTone 20 (some 3)).chip.line 5).st = .dialTone ∧
      ((brk .recall 4 (some 3)).chip.line 5).tone = .none ∧ ((brk .dialling 3 (some 3)).chip.line 5).threshold = .digit 75 ∧
      (brk .dialling 29 (some 3)).chip.jwr.queue = [⟨some 5, 0, .dialRestart 0⟩] ∧
      (brk .routing 99 none).chip.jwr.queue = [⟨some 5, 0, .flash .routing 0⟩] ∧
      (brk .recall 29 (some 3)).chip.jwr.queue = [⟨some 5, 0, .flash .recall 0⟩] ∧
      (brk .talk 100 none).chip.jwr.queue = [] := by
  unfold State.AboutToTurn Queues TimingSet.InPulse TimingSet.InFlash; decide

theorem witness_TalkFlashOpensARecall :
    let l := { lineIn .talk with run := 1, interval := 29 }
    let reclaimed := made l { kept with status := .bound, phase := .fetching }
    (made l).chip.entry 5 = none ∧ (made l).chip.chooseSlot 5 = some 0 ∧ ((made l).chip.slot 0).Misses 5 ∧
      (made l kept planned).chip.chooseSlot 5 = some 3 ∧ ((made l kept planned).chip.slot 3).status = .warm ∧
      recordValid (made l kept planned).chip.planPresent kept.copy = true ∧
      ((after (.hookTransition 5 true false) (made l kept planned)).chip.line 5).dialling = some ⟨0, 3000⟩ ∧
      reclaimed.chip.chooseSlot 5 = some 3 ∧ (reclaimed.chip.slot 3).status = .bound ∧ reclaimed.chip.entry 5 = none ∧
      (made l kept).chip.chooseSlot 5 = some 3 ∧ (made l kept).chip.Spoilt 3 5 ∧ (made l kept).chip.sst.waitList = [] ∧
      (made l kept).chip.jwr.counted + 2 ≤ 32 ∧ ((after (.hookTransition 5 true false) (made l kept)).chip.slot 3).status = .empty ∧
      ((made { l with st := .recall }).chip.listed 5 = false ∧ l.slot = none ∧ l.asking = false) ∧
      (made { l with st := .recall }).chip.chooseSlot 5 = some 0 ∧
      ((after (.hookTransition 5 true false) (made { l with st := .recall })).chip.line 5).slot = some 0 ∧
      ∀ n ∈ [29, 99],
        let s := made { l with interval := n, answered := true } Slot.reset full
        s.AboutToTurn 5 true ∧ Queues 5 s ∧ s.chip.chooseSlot 5 = none ∧ (s.chip.timing 5).InFlash (n + 1) ∧
          (after (.hookTransition 5 true false) s).chip.sst.waitList = [⟨5, .recall, .ordinary⟩] := by
  unfold State.AboutToTurn Queues TimingSet.InFlash Slot.Misses Chip.Spoilt; decide

theorem witness_FirstStatePlacesTheLine :
    let l := { lineIn .unequipped with sampling := .first, run := 1 }
    l.sampling = .first ∧ l.equipped = true ∧
      ((made l).chip.timing 5).debounce ≤ (if l.run ≠ 0 ∧ l.tentative = .on then l.run + 1 else 1) ∧
      ((after (.firstDebouncedState 5 false false) (made l)).chip.line 5).st = .idle := by decide

theorem witness_AnswerEntersTalk :
    let early := made { lineIn .ringWait with slot := some 3, run := 1 } held fun c =>
      planned (c.modRsc fun r => { r with queue := [entry] })
    (ringing.chip.line 5).st = .ringing ∧ (ringing.chip.line 5).sampling = .on ∧ (ringing.chip.line 5).relay = true ∧
      (ringing.chip.line 5).threshold = .none ∧ (ringing.chip.timing 5).tripConfirm ≤ 1 + 1 ∧ Queues 5 ringing ∧
      ringing.chip.sst.waitList = [] ∧ ringing.chip.rsc.queue = [] ∧ (ringing.chip.line 5).slot = some 3 ∧
      (ringing.chip.slot 3).phase = .valid ∧ (ringing.chip.slot 3).ctx.alloc = some alloc ∧
      (made { lineIn .ringing with run := 1 }).AboutToTurn 5 true ∧ early.AboutToTurn 5 true ∧ Queues 5 early ∧
      (early.chip.line 5).st = .ringWait ∧ early.chip.sst.waitList = [] ∧
      (after (.hookTransition 5 true false) early).chip.rsc.queue = [] ∧
      (after (.hookTransition 5 true false) early).chip.jwr.queue = [⟨some 5, 0, .answer 0 true .waiting⟩] ∧
      ((after (.tripConfirm 5 false true) { ringing with chip := ringing.chip.modLine 5 fun l => { l with tripRun := 1 } }).chip.line
        5).answered = true := by
  unfold State.AboutToTurn Queues; decide

theorem witness_ClearExpiryReleasesTheLine :
    let ends := fun (k : Slot) => made { lineIn .talk with interval := 100, threshold := .clear 101, slot := some 3 } k
    (ends held).chip.sst.waitList = [] ∧ (ends { held with lock := some 5 }).chip.sst.waitList = [] ∧
      ((ends held).chip.slot 3).phase = .valid ∧ (ends held).chip.sst.lru.head? = some 0 ∧
      ((after (.clearExpiry 5 false false) (ends held)).chip.slot 3).status = .warm ∧
      (after (.clearExpiry 5 false false) (ends { held with refetch := true })).chip.sst.lru.head? = some 3 ∧
      (let s := { ends { held with ctx := { Ctx.fresh with buffer := [.error] } } with
        chip := (ends { held with ctx := { Ctx.fresh with buffer := [.error] } }).chip.modJwr fun j => { j with stall := .page } }
      s.chip.shc.run = .running ∧ s.chip.jwr.stall ≠ .none ∧ (s.chip.line 5).relay = false ∧ (s.chip.line 5).slot = some 3 ∧
        (s.chip.slot 3).phase = .valid ∧
        (after (.clearExpiry 5 false false) s).chip.jwr.summaries[(5 : LineNo)] = some ⟨0x1000, 1, true⟩) ∧
      ∀ st ∈ [LineSt.seizeWait, .dialTone, .dialling, .routing, .talk, .recall, .parked],
        let s := made { lineIn st with interval := 100, threshold := .clear 101 }
        (101 ≤ min 65535 (100 + 1)) ∧ (s.chip.timing 5).releaseGuard ≠ 0 ∧ Queues 5 s ∧ s.chip.sst.waitList = [] ∧
          ((after (.clearExpiry 5 false false) s).chip.line 5).guard = some ⟨0, 100⟩ := by
  unfold Queues; decide

/-- Line 5 in DIALLING off-hook at the end of a digit of `n` pulses, with `ds` buffered. -/
def atDigit (n : Nat) (ds : List Digit) : State :=
  made { offIn .dialling with slot := some 3, interval := 74, threshold := .digit 75 }
    { held with ctx := { Ctx.fresh with pulses := n, buffer := ds } }

theorem witness_DigitExpiryCompletesTheDigit :
    let stalled := { atDigit 10 [] with chip := (atDigit 10 []).chip.modJwr fun j => { j with stall := .page } }
    let again := { atDigit 11 [] with chip := (atDigit 11 []).chip.modLine 5 fun l => { l with st := .recall } }
    75 ≤ min 65535 (74 + 1) ∧ ((atDigit 11 []).chip.line 5).slot = some 3 ∧ 10 < ((atDigit 11 []).chip.slot 3).ctx.pulses ∧
      ((atDigit 11 []).chip.slot 3).ctx.buffer.length + 1 ≤ field record[1] 0 4 ∧
      ((atDigit 10 []).chip.slot 3).ctx.buffer.length + 1 = field record[1] 0 4 ∧ (atDigit 10 []).chip.taking = true ∧
      ((atDigit 1 [.error, .error]).chip.slot 3).ctx.buffer.length + 1 ≠ field record[1] 0 4 ∧
      20 ≤ ((atDigit 1 (List.replicate 20 .error)).chip.slot 3).ctx.buffer.length ∧ stalled.chip.taking = false ∧
      (again.chip.slot 3).phase = .valid ∧
      ((after (.digitExpiry 5 true false) (atDigit 11 [])).chip.line 5).st = .routing ∧
      (after (.digitExpiry 5 true false) (atDigit 11 [])).chip.jwr.queue = [⟨some 5, 0, .digits [.error] (some .error) false⟩] ∧
      ((after (.digitExpiry 5 true false) stalled).chip.slot 3).ctx.buffer = [.value 0] ∧
      ((after (.digitExpiry 5 true false) again).chip.line 5).st = .recall := by decide

/-! ## Witnesses: line timers and records -/

theorem witness_DialToneTimeoutParksTheLine :
    let s := made { offIn .dialTone with slot := some 3, tone := .dial, dialTone := some ⟨5000, 5000⟩ } held
    let b := made { lineIn .dialTone with interval := 7, threshold := .clear 101, dialTone := some ⟨5000, 5000⟩ }
    let p := made { lineIn .parked with run := 1, interval := 50 }
    let e := made { lineIn .parked with interval := 100, threshold := .clear 101 }
    timerDue (s.chip.line 5).dialTone = true ∧ Queues 5 s ∧ s.chip.sst.waitList = [] ∧
      (s.chip.slot 3).phase = .valid ∧ (b.chip.line 5).hook = .on ∧ p.AboutToTurn 5 true ∧ (e.chip.timing 5).releaseGuard ≠ 0 ∧
      101 ≤ min 65535 (100 + 1) ∧ ((after (.dialToneTimeout 5) s).chip.slot 3).status = .warm ∧
      ((after (.dialToneTimeout 5) b).chip.line 5).threshold = .clear 101 ∧
      ((after (.hookTransition 5 true false) p).chip.line 5).st = .parked ∧
      ((after (.clearExpiry 5 false false) e).chip.line 5).st = .releaseGuard := by
  unfold Queues State.AboutToTurn; decide

theorem witness_DiallingTimeoutEndsCollection :
    ∀ st ∈ [LineSt.dialling, .recall],
      let s := made { offIn st with slot := some 3, dialling := some ⟨3000, 3000⟩ } { held with ctx := { Ctx.fresh with buffer := [.error] } }
      timerDue (s.chip.line 5).dialling = true ∧ (s.chip.line 5).slot = some 3 ∧ s.chip.taking = true ∧ s.chip.jwr.full = false ∧
        (s.chip.slot 3).ctx.buffer.length ≤ field (s.chip.slot 3).copy[1] 0 4 ∧
        (after (.diallingTimeout 5) s).chip.jwr.queue = [⟨some 5, 0, .digits [.error] (some .timeout) false⟩] := by decide

theorem witness_GuardParkAndHowlerTimersExpire :
    let s := made { lineIn .releaseGuard with guard := some ⟨100, 100⟩ }
    let p := made { offIn .parked with park := some ⟨0, 0⟩ }
    let u := made guarded
    let h := made { offIn .parked with howler := some ⟨5000, 5000⟩, tone := .howler }
    timerDue (s.chip.line 5).guard = true ∧ (s.chip.line 5).equipped = true ∧ timerDue (p.chip.line 5).park = true ∧
      timerDue (h.chip.line 5).howler = true ∧ ((after (.guardExpiry 5) s).chip.line 5).st = .idle ∧
      ((after (.howlerTimerExpiry 5) h).chip.line 5).tone = .none ∧ (u.chip.line 5).hook = .off ∧ Queues 5 u ∧
      u.chip.entry 5 = none ∧ u.chip.chooseSlot 5 = some 0 ∧ (u.chip.slot 0).Misses 5 ∧ Queues 5 (made guarded Slot.reset full) ∧
      (made guarded Slot.reset full).chip.chooseSlot 5 = none ∧ ((after (.guardExpiry 5) u).chip.line 5).slot = some 0 ∧
      (after (.guardExpiry 5) u).chip.jwr.queue = [⟨some 5, 0, .seize⟩] := by
  unfold Queues Slot.Misses; decide

/-- Slot 3 is fetching line 5's record with `n` words read, and the fetch is being served. -/
def fetching (n : Nat) (x : Option LineNo) (l : Line) : State :=
  made { l with slot := x.map fun _ => 3 } { held with phase := .fetching, words := n, holder := x }
    fun c => serving (.fetch 3) (planned c)

theorem witness_FetchReadsWordByWord :
    ∀ n ∈ [0, 6],
      let s := fetching n (some 5) (offIn .seizeWait)
      (s.chip.slot 3).recLine = some 5 ∧ s.chip.serves (.fetch 3) = true ∧ (s.chip.slot 3).words < 7 ∧
        s.chip.base + s.chip.shc.hdr.lines + 8 * 5 + 8 ≤ Config.ramWords ∧
        ((after (.fetchWordRead 3) s).chip.slot 3).words = n + 1 := by decide

theorem witness_FetchCompleteTakesTheRecord :
    let s := fetching 7 (some 5) (offIn .seizeWait)
    let r := fetching 7 none (offIn .idle)
    let ring := fun n => { fetching 7 (some 5) (lineIn .ringWait) with
      chip := (fetching 7 (some 5) (lineIn .ringWait)).chip.modRsc fun q => { q with queue := [{ entry with party := n, fetching := true }] } }
    let again := fetching 7 (some 5) (offIn .recall)
    (s.chip.slot 3).words = 7 ∧ (s.chip.slot 3).holder = some 5 ∧ (s.chip.line 5).slot = some 3 ∧ Queues 5 s ∧
      recordValid s.chip.planPresent (s.chip.slot 3).copy = true ∧ recordValid chip.planPresent (s.chip.slot 3).copy = false ∧
      (r.chip.slot 3).holder = none ∧ r.chip.sst.waitList = [] ∧ ((ring 1).chip.entry 5).map (·.party) = some 1 ∧
      field record[0] 5 3 < 2 ∧ (ring 1).chip.gen.state = .off ∧ (ring 1).chip.gen.overload = false ∧ (ring 1).chip.ord.staging = none ∧ (ring 2).chip.sst.waitList = [] ∧
      (again.chip.line 5).slot = some 3 ∧ again.chip.sst.waitList = [] ∧
      ((after (.fetchComplete 3) s).chip.line 5).tone = .dial ∧ ((after (.fetchComplete 3) r).chip.slot 3).status = .warm ∧
      (after (.fetchComplete 3) (ring 1)).chip.gen.state = .starting ∧
      (after (.fetchComplete 3) (ring 2)).chip.jwr.queue.length = 2 ∧
      ((after (.fetchComplete 3) again).chip.line 5).dialling = some ⟨0, 3000⟩ := by
  unfold Queues; decide

/-- The core-field read of line 5 is being served. -/
def coreRead (l : Line) : State :=
  made l Slot.reset fun c => serving .core (c.modMpt fun m => { m with coreReads := [5], reqs := [.core] })

theorem witness_CoreFieldsTakeEffect :
    let idle := coreRead (lineIn .idle)
    let first := { idle with chip := { idle.chip with shc := { idle.chip.shc with run := .starting, start := .core } } }
    let more := { idle with chip := idle.chip.modMpt fun m => { m with coreReads := [5, 6] } }
    idle.chip.shc.run = .running ∧ idle.chip.mpt.coreReads = 5 :: [] ∧ idle.chip.serves .core = true ∧
      more.chip.mpt.coreReads = 5 :: [6] ∧ first.chip.shc.run = .starting ∧ first.chip.serves .core = true ∧
      idle.chip.recordAddr 5 + 8 ≤ Config.ramWords ∧ (readWord [] (idle.chip.recordAddr 5)).getLsbD 15 = false ∧
      ((after .coreFieldReadComplete idle).chip.line 5).st = .unequipped ∧
      (after .coreFieldReadComplete more).chip.mpt.coreReads = [6] ∧
      (after .coreFieldReadComplete first).chip.jwr.page = .opening := by decide

/-! ## Witnesses: the ringing cycle -/

/-- A shelf whose boundary is due at cycle step `n`. -/
def due (n : Nat) (s : State) : State := { s with chip := s.chip.modCtb fun t => { t with step := n, periods := 50 } }

theorem witness_BoundaryDrivesTheRelays :
    let s := due 1 ringing
    let opens := due 6 ringing
    let closes := due 1 { ringing with chip := ringing.chip.modLine 5 fun l => { l with relay := false, blank := 3, tripRun := 1, run := 1 } }
    s.chip.boundaryDue = true ∧ s.chip.ctb.step + 1 < s.chip.shc.hdr.n ∧ (∀ x, s.chip.ringEnds x = false) ∧
      (∀ x y : LineNo, (s.chip.line x).slot = (s.chip.line y).slot → (s.chip.line x).slot ≠ none → x = y) ∧
      5 ∈ s.chip.rsc.allocs ∧ ((after .stepBoundary s).chip.line 5).relay = true ∧
      (closes.chip.line 5).relay = false ∧ ((after .stepBoundary closes).chip.line 5).relay = true ∧
      ((after .stepBoundary closes).chip.line 5).blank = 0 ∧ (opens.chip.line 5).relay = true ∧
      ((after .stepBoundary opens).chip.line 5).relay = false :=
  ⟨by decide, by decide, by decide, apart (by decide), by decide, by decide⟩

theorem witness_WrapAppliesWhatIsStaged :
    let s := due 11 (ofChip (chip.modRsc fun r => { r with staged := some (7, 2), stagedMode := .conserve }))
    let beyond := due 11 { loaded with chip := loaded.chip.modRsc fun r => { r with capacity := 0 } }
    let under := due 11 { loaded with chip := loaded.chip.modRsc fun r => { r with capacity := 1 } }
    s.chip.boundaryDue = true ∧ s.chip.shc.hdr.n ≤ s.chip.ctb.step + 1 ∧ s.chip.rsc.staged = some (7, 2) ∧
      (∀ v ∈ under.chip.rsc.plt, v ≤ 1) ∧ (∀ x, under.chip.ringEnds x = false) ∧ under.chip.rsc.queue = [] ∧
      (∀ x y : LineNo, (under.chip.line x).slot = (under.chip.line y).slot → (under.chip.line x).slot ≠ none → x = y) ∧
      ¬(∀ v ∈ beyond.chip.rsc.plt, v ≤ 0) ∧ beyond.chip.rsc.allocs = [5] ∧ beyond.chip.gen.state = .running ∧ Queues 5 beyond ∧
      (after .stepBoundary s).chip.rsc.capacity = 7 ∧
      (after .stepBoundary beyond).chip.jwr.queue = [⟨some 5, 0, .shed .capacity 1 0 0 1⟩] ∧
      ((after .stepBoundary under).chip.line 5).relay = false := by
  refine ⟨by decide, by decide, by decide, by decide, by decide, by decide, apart (by decide), ?_⟩
  unfold Queues; decide

theorem witness_RingExpiryEndsTheRinging :
    let s := due 0 ringing
    s.chip.boundaryDue = true ∧ s.chip.rsc.allocs = [5] ∧ s.chip.rsc.queue = [] ∧ s.chip.sst.waitList = [] ∧
      (s.chip.slot 3).phase = .valid ∧ (s.chip.slot 3).ctx.alloc = some alloc ∧ alloc.phase = s.chip.ctb.step + 1 ∧
      alloc.cyclesLeft = 1 ∧ Queues 5 s ∧ (s.chip.timing 5).postRing = 0 ∧
      (after (.ringExpiry 5) s).chip.jwr.queue.head? = some ⟨some 5, 0, .ringExpired 1 0 1⟩ := by
  unfold Queues; decide

/-- Line 5 waits to ring with an entry. -/
def waiting (e : RingWait) : State :=
  made { lineIn .ringWait with slot := some 3 } held fun c => planned (c.modRsc fun r => { r with queue := [e], waitLimit := 1 })

theorem witness_QueueTimersRunOut :
    let s := waiting { entry with wait := 1000 }
    let b := waiting { entry with notBefore := some 0 }
    s.chip.entry 5 = some { entry with wait := 1000 } ∧ s.chip.rsc.waitLimit ≠ 0 ∧ 1000 * s.chip.rsc.waitLimit ≤ 1000 ∧
      Queues 5 s ∧ s.chip.sst.waitList = [] ∧ b.chip.entry 5 = some { entry with notBefore := some 0 } ∧
      b.chip.gen.state = .off ∧ b.chip.ready { entry with notBefore := none } = true ∧ b.chip.gen.overload = false ∧
      (after (.notBeforeExpiry 5) b).chip.gen.state = .starting := by
  unfold Queues; decide

theorem witness_OffsetSearchTakesTheFirstFit :
    let w := made { lineIn .ringWait with slot := some 3 } held fun c => genIn .running (planned (c.modRsc fun r =>
      { r with queue := [entry], plt := List.replicate 12 1, capacity := 1, press := 2 }))
    0 < ([6, 6] : Plan).length ∧ ([6, 6] : Plan).sum ≤ 12 ∧ w.chip.ready entry = true ∧
      w.chip.ready { entry with needsSlot := true } = false ∧
      { w.chip with ord := { w.chip.ord with staging := some (0, [6, 6]) } }.ready entry = false ∧ w.chip.ctb.active[(0 : PlanNo)] = some [6, 6] ∧
      (w.chip.line 5).slot = some 3 ∧ findOffset 12 w.chip.rsc.plt [6, 6] 1 1 0 = none ∧
      findOffset 12 (List.replicate 12 0) [6, 6] 1 1 0 = some 1 := by decide

theorem witness_RemovalUndoesAdmission :
    let w := made { lineIn .ringWait with slot := some 3 } held fun c => planned ((c.modGen fun g =>
      { g with state := .starting, startTimer := some ⟨300, 300⟩ }).modRsc fun r =>
        { r with queue := [entry], plt := List.replicate 12 0, capacity := 1 })
    let none' := { w with chip := w.chip.modRsc fun r => { r with plt := List.replicate 12 1 } }
    (List.replicate 12 3).length = 12 ∧ pltAdd 12 (List.replicate 12 0) [1, 11] 11 2 = [0, 0, 0, 0, 0, 0, 0, 0, 0, 0, 0, 2] ∧
      timerDue w.chip.gen.startTimer = true ∧ w.chip.rsc.queue = [entry] ∧ w.chip.ctb.active[(0 : PlanNo)] = some [6, 6] ∧
      w.chip.ctb.staged[(0 : PlanNo)] = none ∧ w.chip.ord.staging = none ∧ (w.chip.line 5).slot = some 3 ∧ QueuesShelf w ∧
      w.chip.jwr.summaries[(5 : LineNo)] = none ∧ w.chip.jwr.counted + 2 ≤ 32 ∧
      findOffset 12 w.chip.rsc.plt [6, 6] 1 (w.chip.rsc.limit entry) 0 = some 1 ∧
      findOffset 12 none'.chip.rsc.plt [6, 6] 1 (none'.chip.rsc.limit entry) 0 = none ∧
      ((after .genStartDone w).chip.line 5).st = .ringing ∧ (after .genStartDone w).chip.rsc.plt = loaded.chip.rsc.plt ∧
      ((after .genStartDone none').chip.line 5).st = .ringWait := by
  unfold QueuesShelf; decide

/-! ## Witnesses: orders -/

/-- Cell 0 is in hand, TAKEN, with `n` words of its order read. -/
def inHand (n : Nat) : State :=
  ofChip (serving .order
    { chip with ord := { chip.ord with cell := some 0, stage := .taken, read := List.replicate n 0, inPass := true } })

theorem witness_CommonValidationRefuses :
    Takes (.orderTaken 0) ⟨0, 0, 0, 0, 0, 0⟩ (inHand 5) ∧ Takes (.tone 5 1) ⟨6, 5, 1, 0, 0, 0⟩ (ofChip chip) ∧
      ¬OrderCopy.ArgsOk ⟨6, 5, 1, 0, 0, 0⟩ ∧ Takes (.block 95) ⟨8, 95, 0, 0, 0, 0⟩ (ofChip chip) ∧
      OrderCopy.names ⟨8, 95, 0, 0, 0, 0⟩ 95 ∧ OrderCopy.ArgsOk ⟨8, 95, 0, 0, 0, 0⟩ ∧ ¬OrderCopy.exempt ⟨8, 95, 0, 0, 0, 0⟩ ∧
      (chip.line 95).st = .unequipped ∧ 95 < chip.shc.hdr.equipped ∧
      (after (.orderTaken 0) (inHand 5)).chip.ord.result = some .badOrder ∧
      (after (.block 95) (ofChip chip)).chip.ord.result = some .noLine := by
  refine ⟨.inr ⟨⟨0, rfl⟩, rfl, 0, ?_, by decide⟩, .inl ⟨rfl, ?_⟩, ?_, .inl ⟨rfl, ?_⟩, ?_, ?_, ?_, ?_⟩ <;>
    first | (unfold ReadsCell; decide) | (unfold Ready; decide) | (unfold OrderCopy.ArgsOk; decide) |
      (unfold OrderCopy.names; decide) | (unfold OrderCopy.exempt; decide) | decide

theorem witness_RingActsByLineState :
    let s := made { lineIn .releaseGuard with guard := some ⟨98, 100⟩ }
    let warm := made (lineIn .idle) kept planned
    let bad := made (lineIn .idle) kept
    let queued := { bad with chip := bad.chip.modRsc fun r => { r with queue := [{ entry with line := 9, cls := .priority }, { entry with line := 7 }] } }
    Ready s ∧ Supervised 5 s ∧ (s.chip.line 5).slot = none ∧ s.chip.entry 5 = none ∧ s.chip.chooseSlot 5 = some 0 ∧
      (s.chip.slot 0).Misses 5 ∧ (made (lineIn .idle) Slot.reset full).chip.chooseSlot 5 = none ∧
      (made (lineIn .idle) { kept with status := .bound, phase := .fetching }).chip.chooseSlot 5 = some 3 ∧
      warm.chip.chooseSlot 5 = some 3 ∧ recordValid warm.chip.planPresent kept.copy = true ∧ 1 ≤ field kept.copy[0] 5 3 ∧
      warm.chip.gen.state ≠ .running ∧ warm.chip.gen.overload = false ∧ recordValid bad.chip.planPresent kept.copy = false ∧
      bad.chip.sst.waitList = [] ∧ Queues 5 bad ∧ bad.chip.jwr.counted + 2 ≤ 32 ∧
      (after (.ring 5 1 0 3 0) warm).chip.rsc.queue = [{ entry with cycles := 3 }] ∧
      (after (.ring 5 1 0 3 0) bad).chip.jwr.queue =
        [⟨some 5, 0, .fault .recordInvalid 0⟩, ⟨some 5, 0, .ringFailed .record 1⟩] ∧
      queued.chip.entry 5 = none ∧ (after (.ring 5 1 0 3 1) queued).chip.rsc = queued.chip.rsc ∧
      (after (.ring 5 4 8 255 1) s).chip.rsc.queue =
        [⟨5, 4, none, 255, .priority, 0, some 2, false, true, 0⟩] := by
  unfold Ready Supervised Queues Slot.Misses; decide

theorem witness_StopRingActsByLineState :
    Ready ringing ∧ Supervised 5 ringing ∧ ringing.chip.sst.waitList = [] ∧ ringing.chip.rsc.queue = [] ∧
      (ringing.chip.line 5).slot = some 3 ∧ (ringing.chip.slot 3).ctx.alloc = some alloc ∧ (ringing.chip.timing 5).postRing = 0 ∧
      Ready (waiting entry) ∧ ((waiting entry).chip.line 5).st = .ringWait ∧
      (after (.stopRing 5) ringing).chip.rsc.plt = [1, 0, 0, 0, 0, 0, 0, 1, 1, 1, 1, 1] := by
  unfold Ready Supervised; decide

theorem witness_DialOrdersEndOrBeginDialling :
    let m := made { offIn .dialling with slot := some 3 } { held with ctx := { Ctx.fresh with buffer := [.value 1, .value 2], overflow := true } }
    let s := made { offIn .dialTone with slot := some 3, sig := .both, tone := .dial } held
    Ready s ∧ Supervised 5 s ∧ (s.chip.line 5).sig ≠ .pulse ∧ (lineIn .dialTone).sig = .pulse ∧ s.chip.jwr.stall = .none ∧
      s.chip.jwr.full = false ∧ (s.chip.slot 3).ctx.buffer.length ≤ field (s.chip.slot 3).copy[1] 0 4 ∧
      Ready m ∧ 1 ≤ field (m.chip.slot 3).copy[1] 0 4 ∧ (m.chip.slot 3).ctx.buffer.length ≤ 20 ∧
      (after (.enddial 5) m).chip.jwr.queue =
        [⟨some 5, 0, .digits [.value 1] none true⟩, ⟨some 5, 0, .digits [.value 2] (some .final) false⟩] ∧
      ((after (.digitSeen 5) s).chip.line 5).st = .dialling ∧
      (after (.enddial 5) s).chip.jwr.queue = [⟨some 5, 0, .digits [] (some .final) false⟩] := by
  unfold Ready Supervised; decide

theorem witness_ConnectEntersTalk :
    let s := made { offIn .recall with slot := some 3 } held
    Ready s ∧ Supervised 5 s ∧ s.chip.sst.waitList = [] ∧ (s.chip.slot 3).phase = .valid ∧
      (after (.connect 5) s).chip.jwr.queue = [⟨some 5, 0, .digits [] (some .final) false⟩] ∧
      (after (.connect 5) (made { offIn .routing with slot := some 3 } held)).chip.jwr.queue = [] := by
  unfold Ready Supervised; decide

theorem witness_ToneBlockUnblockActByLineState :
    Ready (made (offIn .routing)) ∧ 5 < (made (offIn .routing)).chip.shc.hdr.equipped ∧
      ((after (.tone 5 3) (made (offIn .routing))).chip.line 5).tone = .progress ∧
      ((after (.block 5) (made (lineIn .idle))).chip.line 5).st = .blocked ∧
      ((after (.unblock 5) (made (offIn .blocked))).chip.line 5).st = .parked := by
  unfold Ready; decide

theorem witness_ClearOrderEndsACall :
    let s := made (lineIn .talk)
    Ready s ∧ Supervised 5 s ∧ (s.chip.timing 5).releaseGuard ≠ 0 ∧ s.chip.sst.waitList = [] ∧ Queues 5 s ∧
      ((after (.clear 5) s).chip.line 5).st = .releaseGuard ∧
      (after (.clear 5) (made (lineIn .seizeWait))).chip.jwr.queue = [⟨some 5, 0, .park .cleared⟩] := by
  unfold Ready Supervised Queues; decide

/-- Slots 0 to `n` - 1 are locked to the lines of their numbers. -/
def locks (n : Nat) : State :=
  ofChip { chip with sst := { chip.sst with slots := Vector.ofFn fun i => { Slot.reset with lock := if i.val < n then some (Fin.ofNat 96 i.val) else none } } }

theorem witness_LockOrdersSetAndClearLocks :
    Ready (locks 12) ∧ 12 ≤ (locks 12).chip.lockedCount ∧ (locks 11).chip.lockedCount < 12 ∧
      (∀ i, ((locks 12).chip.slot i).lock ≠ some 20) ∧ ((locks 12).chip.slot 0).lock = some 0 ∧
      (made (offIn .talk) { held with status := .warm, holder := none }).chip.ownCopy 5 = some 3 ∧
      (locks 11).chip.sst.lru.find? (fun i => ((locks 11).chip.slot i).free) = some 11 ∧
      (after (.lockSlot 20) (locks 12)).chip.ord.result = some .noSlot ∧
      ((after (.unlockSlot 0) (locks 12)).chip.slot 0).lock = none := by
  unfold Ready; decide

theorem witness_InvalidateDropsRecordCopies :
    let s := made (lineIn .idle) { held with status := .warm, holder := none }
    Ready s ∧ 5 < s.chip.shc.hdr.equipped ∧ ((after (.invalidate 5) s).chip.slot 3).status = .empty ∧
      (after .invalidateAll s).chip.mpt.coreReads.length = 96 ∧
      ((after (.invalidate 5) (made (lineIn .idle) held)).chip.slot 3).refetch = true := by
  unfold Ready; decide

/-- The plan read of a reload of plan 7 is being served, asked for by a cell or by none, the plan area holding a count of `n` and two
segments of 6. -/
def reloading (n : Word) (cell : Option CellNo := none) : State :=
  { ofChip ((serving .reload { chip with ord := { chip.ord with work := some (.reload 7), cell := cell, stage := .taken } }).modMpt
      fun m => { m with reqs := [.reload] }) with
    ram := writeWords [] (128 + 70) [n, 6, 6] }

theorem witness_ReloadPlanStagesAPlan :
    let c := reloading 2 (some 3)
    Ready ringing ∧ (5 : LineNo) ∈ ringing.chip.rsc.allocs ∧ alloc.plan = 0 ∧ (reloading 2).chip.ord.work = some (.reload 7) ∧
      (reloading 2).chip.serves .reload = true ∧ (reloading 2).chip.planAddr 7 + 10 ≤ Config.ramWords ∧
      (reloading 2).chip.ord.read.length = 0 ∧ (reloading 2).chip.mpt.reqs = [.reload] ∧ (reloading 2).chip.journalWants = false ∧
      (reloading 2).chip.shc.run = .running ∧ c.chip.ord.cell ≠ none ∧
      (after (.reloadPlan 0) ringing).chip.ord.result = some .planInUse ∧
      (after (.reloadPlanReadComplete 0) (reloading 2)).chip.ord.read = [2] ∧
      (after (.reloadPlanReadComplete 9) (reloading 2)).chip.planSt 7 = .pending ∧
      (after (.reloadPlanReadComplete 9) c).chip.planSt 7 = .absent ∧
      (after (.reloadPlanReadComplete 9) c).chip.ord.staging = some (7, [6, 6]) ∧
      (after (.reloadPlanReadComplete 9) c).chip.ready { entry with plan := some 7 } = false ∧
      (after (.reloadPlanReadComplete 9) (reloading 0)).chip.ord.result = some .badOrder := by
  unfold Ready; decide

/-- The cell at position `k` is to be visited, its state word being `w`. -/
def visiting (k : CellNo) (w : Word) : State :=
  { ofChip (serving .order { chip with ord := { chip.ord with inPass := true, pos := k } }) with
    ram := writeWord [] (1072 + 8 * k.val) w }

theorem witness_OrderCellsAreServed :
    let p := ofChip { chip with ord := { chip.ord with timer := some ⟨2, 2⟩ } }
    let d := fun st : CellStage => ofChip (serving .order
      { chip with ord := { chip.ord with inPass := true, pos := 31, cell := some 31, stage := st, result := some .ok } })
    let crossed := { visiting 31 1 with chip := (visiting 31 1).chip.modMpt fun m => { m with reqs := [.core] } }
    let late := { visiting 31 2 with chip := { (visiting 31 2).chip with ord := { (visiting 31 2).chip.ord with timer := some ⟨2, 2⟩ } } }
    timerDue p.chip.ord.timer = true ∧ p.chip.ord.inPass = false ∧ (visiting 31 1).chip.serves .order = true ∧
      (visiting 31 1).chip.cellAddr 31 + 8 ≤ Config.ramWords ∧ readWord (visiting 31 1).ram 1320 = 1 ∧
      Memory.wf (visiting 31 1).ram ∧ Undisturbed (visiting 31 1) ∧ crossed.chip.readWants = some .core ∧
      (after (.orderCellVisit 1) crossed).chip.ord.stage = .found ∧
      readWord (after (.orderCellVisit 1) (visiting 31 1)).ram 1320 = 2 ∧
      readWord (after (.orderCellVisit 0) (d .found)).ram 1320 = 2 ∧
      (after (.orderCellVisit 0) (visiting 31 2)).chip.ord.inPass = false ∧ timerDue late.chip.ord.timer = true ∧
      (after (.orderCellVisit 0) late).chip.ord.inPass = true ∧ ReadsCell 0 (inHand 0) ∧ ReadsCell 0 (inHand 5) ∧
      Undisturbed (inHand 0) ∧ (after (.orderTaken 0) (inHand 0)).chip.ord.read = [0] ∧
      (after (.orderTaken 5) (inHand 0)).chip.ord.result = some .badOrder ∧ Undisturbed (d .taken) ∧
      readWord (after (.orderDone 0) (d .taken)).ram 1320 = 0 ∧ readWord (after (.orderDone 1) (d .taken)).ram 1320 = 3 ∧
      (after (.orderDone 0) (d .answered)).chip.shc.attention = attnOrderDone := by
  unfold Undisturbed ReadsCell; decide

/-! ## Witnesses: journal, mirror, start procedure -/

/-- A SEIZE record stands at the head of the queue, with `n` words of the page used. -/
def toWrite (n : Nat) : State :=
  ofChip (serving .journal (chip.modJwr fun j => { j with page := .opened, used := n, queue := [⟨some 5, 0x1234, .seize⟩], closeDelay := 9 }))

theorem witness_HeadRecordIsWritten :
    let asked := fun k : Closing => { toWrite 60 with chip := (toWrite 60).chip.modJwr fun j => { j with closing := k } }
    let queued := { toWrite 0 with chip := (toWrite 0).chip.modJwr fun j => { j with stall := .queue } }
    Memory.wf (toWrite 60).ram ∧ (toWrite 60).chip.serves .journal = true ∧ (toWrite 60).chip.jwr.page = .opened ∧
      (toWrite 60).chip.pageAddr + 64 ≤ Config.ramWords ∧ 60 + Body.seize.length ≤ 62 ∧ 62 < 61 + Body.seize.length ∧
      (toWrite 60).chip.jwr.stall ≠ .queue ∧ (toWrite 60).chip.jwr.closing = .no ∧ (toWrite 60).chip.journalOpen = true ∧
      (after (.journalWrite 0) (toWrite 60)).chip.jwr.written = 1 ∧
      (after (.journalWrite 2) (toWrite 0)).chip.jwr.closeTimer = some ⟨0, 9⟩ ∧
      (after (.journalWrite 2) queued).chip.jwr.queue = [⟨none, 0, .journalResumed 0⟩] ∧
      (after (.journalWrite 2) (asked .after)).chip.jwr.closing = .asked ∧
      (after (.journalWrite 0) (asked .asked)).chip.jwr.closing = .begun ∧
      (after (.journalWrite 0) (asked .begun)).chip.jwr.page = .opening ∧
      (after (.journalWrite 1) (toWrite 61)).chip.jwr.page = .opening := by decide

/-- The header of page 0 is to be read, in or out of a page stall, its first word being `w`. -/
def opening (k : Stall) (w : Word) : State :=
  { ofChip (serving .journal (chip.modJwr fun j => { j with page := .opening, stall := k, retry := 10 })) with
    ram := writeWord [] 1328 w }

theorem witness_PageIsOpenedOrStalls :
    let far := fun (s : State) n => { s with chip := s.chip.modJwr fun j => { j with written := n } }
    let first := fun w => { opening .none w with
      chip := { (opening .none w).chip with shc := { (opening .none w).chip.shc with run := .starting, start := .page } } }
    let told := fun (s : State) => { s with
      chip := s.chip.modJwr fun j => { j with queue := [⟨some 5, 3, .seize⟩, ⟨some 5, 4, .digits [.error] none false⟩, ⟨none, 5, .heldSummary 2⟩] } }
    let summed := fun (s : State) => { s with
      chip := s.chip.modJwr fun j => { j with
        summaries := (j.summaries.set 9 (some ⟨1, 1, false⟩)).set 5 (some ⟨1, 1, false⟩), shelf := some ⟨2, 1, false⟩ } }
    Memory.wf (opening .none 0x8000).ram ∧ (opening .none 0).chip.serves .journal = true ∧
      (opening .none 0).chip.pageAddr + 64 ≤ Config.ramWords ∧ field (readWord (opening .none 0x3FFF).ram 1328) 14 2 = 0 ∧
      field (readWord (opening .none 0x8000).ram 1328) 14 2 ≠ 0 ∧ 10 ≤ (opening .page 0).chip.jwr.retry ∧
      (opening .none 0).chip.jwr.written = 0 ∧ (opening .none 0).chip.journalOpen = true ∧ (first 0).chip.journalOpen = true ∧
      (after (.pageOpen 0) (opening .none 0)).chip.jwr.written = 1 ∧
      (after (.pageStallRetry 0) (far (opening .page 0) 1)).chip.jwr.written = 2 ∧
      (after (.pageOpen 2) (opening .none 0)).chip.jwr.page = .opened ∧
      (after (.pageOpen 0) (opening .queue 0x8000)).chip.jwr.stall = .page ∧
      (after (.pageOpen 2) (first 0)).chip.shc.start = .readings ∧ (after (.pageOpen 0) (first 0x8000)).chip.shc.start = .readings ∧
      (after (.pageStallRetry 0) (opening .page 0x8000)).chip.jwr.retry = 0 ∧
      (after (.pageOpen 0) (told (opening .none 0x8000))).chip.jwr.summaries[(5 : LineNo)] = some ⟨1, 1, false⟩ ∧
      (after (.pageOpen 0) (told (opening .none 0x8000))).chip.jwr.queue = [⟨some 5, 4, .digits [.error] none false⟩] ∧
      (after (.pageStallRetry 2) (opening .page 0)).chip.jwr.stall = .none ∧
      (after (.pageStallRetry 2) (summed (opening .page 0))).chip.jwr.queue =
        [⟨none, 0, .journalResumed 3⟩, ⟨some 5, 0, .heldSummary 0⟩, ⟨some 9, 0, .heldSummary 0⟩, ⟨none, 0, .heldSummary 0⟩] := by decide

theorem witness_MirrorWritesTheStatusWord :
    let s := made { offIn .talk with mark := true } Slot.reset (serving .mirror)
    let r := made { offIn .talk with mark := true } Slot.reset fun c => serving .mirror (c.modMpt fun m => { m with last := 4 })
    Memory.wf s.ram ∧ s.chip.serves .mirror = true ∧ 5 ≤ s.chip.mpt.last ∧
      (∀ y, s.chip.mpt.last < y ∨ y < 5 → (s.chip.line y).mark = false) ∧ r.chip.mpt.last < 5 ∧
      (∀ y, r.chip.mpt.last < y → y < 5 → (r.chip.line y).mark = false) ∧ s.chip.statusAddr 5 + 1 ≤ Config.ramWords ∧
      ((after .mirrorWrite s).chip.line 5).mark = false ∧ (after .mirrorWrite r).chip.mpt.last = 5 := by decide

theorem witness_MemoryTimeoutIsolatesOrFails :
    let s := ofChip (serving .mirror chip)
    let b := fun st => ofChip ((serving .start { chip with shc := { chip.shc with run := .starting, start := st } }).modMpt
      fun m => { m with read := [2, 6, 6, 0, 0, 0, 0, 0, 0, 0, 2, 6] })
    let f := fetching 3 (some 5) (offIn .seizeWait)
    (f.chip.slot 3).holder = some 5 ∧ (f.chip.slot 3).lock = none ∧
      (∀ j, j ≠ 3 → (f.chip.slot j).lock ≠ some 5 ∧ (f.chip.slot j).recLine ≠ some 5) ∧
      (after (.memoryTimeout (.fetch 3)) f).chip.mpt.reqs = [.fetch 3] ∧
      ((after (.memoryTimeout (.fetch 3)) f).chip.slot 3).words = 0 ∧ s.chip.shc.run = .running ∧ s.chip.serves .mirror = true ∧ (b .plans).chip.shc.run = .starting ∧
      (b .plans).chip.serves .start = true ∧ (fetching 3 none (lineIn .idle)).chip.serves (.fetch 3) = true ∧
      (after (.memoryTimeout .mirror) s).chip.shc.run = .isolated ∧
      (after (.memoryTimeout .start) (b .timing)).chip.shc.run = .failed ∧
      (after (.memoryTimeout .start) (b .plans)).chip.planSt 0 = .active ∧
      (after (.memoryTimeout .start) (b .plans)).chip.planSt 1 = .absent ∧
      ((after (.memoryTimeout (.fetch 3)) (fetching 3 none (lineIn .idle))).chip.slot 3).status = .empty := by decide

/-- A header in the RAM: version 3, 96 lines, N = 12, two pages, areas from word 48 on; `v` is the layout version. -/
def headed (v : Word) (st : StartStep) : State :=
  { ofChip (serving .start { chip with shc := { chip.shc with run := .starting, start := st } }) with
    ram := writeWords [] 0 [v, 96, 12, 10, 20, 5, 0, 1, 3, 1, 200, 0, 601, 1, 1, 1, 2, 0, 48, 128, 208, 976, 1072, 1328] }

theorem witness_HeaderIsCheckedAndTaken :
    let done := after (.headerReadComplete 47) (headed 3 .header)
    (headed 3 .header).chip.serves .start = true ∧ (headed 3 .header).chip.shc.run = .starting ∧
      (headed 3 .header).chip.mpt.read = [] ∧ (after (.headerReadComplete 0) (headed 3 .header)).chip.mpt.read = [3] ∧
      done.chip.shc.hdr = hdr ∧ done.chip.rsc.reserve = 10 ∧ done.chip.rsc.press = 3 ∧ done.chip.gen.idleStop = 600 ∧
      (after (.headerReadComplete 47) (headed 2 .header)).chip.shc.run = .failed := by decide

theorem witness_TimingSetsAreClampedAndRepaired :
    (headed 3 .timing).chip.shc.start = .timing ∧ (headed 3 .timing).chip.shc.run = .starting ∧ (headed 3 .timing).chip.base + 48 + 64 ≤ Config.ramWords ∧
      (after (.timingSetReadComplete 63) (headed 3 .timing)).chip.shc.start = .plans ∧
      (parseTiming [1, 60, 40, 150, 150, 100]).pulseMax = 60 ∧ (parseTiming [1, 0, 150, 150, 150, 100]).flashMin = 152 ∧
      (parseTiming [1, 0, 150, 150, 150, 100]).interdigit = 152 := by decide

theorem witness_PlansAreReadAtStart :
    let s := { headed 3 .plans with ram := writeWords [] (128 + 10) [2, 6, 6, 0, 0, 0, 0, 0, 0, 0, 1, 12] }
    s.chip.serves .start = true ∧ s.chip.shc.start = .plans ∧ s.chip.base + s.chip.shc.hdr.plans + 80 ≤ Config.ramWords ∧
      s.chip.shc.run = .starting ∧ s.chip.shc.fault = none ∧ s.chip.shc.further ≤ 255 ∧
      (after (.planReadComplete 79) s).chip.planSt 1 = .active ∧
      (after (.planReadComplete 79) s).chip.jwr.startRecs = [⟨none, 0, .fault .planInvalid 2⟩] := by decide

/-- A start procedure at its last step. -/
def ending : State := made (lineIn .talk) Slot.reset fun c => { c with shc := { c.shc with run := .starting, start := .readings, warm := true } }

theorem witness_ShelfRunningBeginsTheRun :
    let asking := { ending with chip := ending.chip.modLine 5 fun _ => { offIn .seizeWait with asking := true } }
    ending.chip.shc.run = .starting ∧ ending.chip.shc.start = .readings ∧ ending.chip.shc.warm = true ∧
      (∀ x, (ending.chip.line x).sampling ≠ .first) ∧ (∀ x, (ending.chip.line x).asking = false ∧ (ending.chip.line x).st ≠ .seizeWait) ∧
      ending.chip.jwr.stall = .none ∧ ending.chip.jwr.full = false ∧
      (∀ x, (asking.chip.line x).asking = true → (asking.chip.line x).st = .seizeWait ∧ (asking.chip.line x).slot = none) ∧
      (∀ k, (asking.chip.slot k).status = .empty ∧ (asking.chip.slot k).lock = none) ∧ asking.chip.sst.lru.Perm allSlots ∧
      asking.chip.sst.waitList = [] ∧ asking.chip.rsc.queue = [] ∧ asking.chip.jwr.counted + 1 + 1 ≤ 32 ∧
      asking.chip.jwr.summaries[(5 : LineNo)] = none ∧
      (after .shelfRunning ending).chip.jwr.queue = [⟨none, 0, .restartDone true 1⟩] ∧
      (after .shelfRunning asking).chip.jwr.queue = [⟨none, 0, .restartDone true 0⟩, ⟨some 5, 0, .seize⟩] ∧
      ((after .shelfRunning asking).chip.line 5).slot = some 0 := by decide

/-! ## Witnesses: what every step keeps -/

theorem witness_laws :
    Memory.wf (visiting 3 1).ram ∧ step (ofChip chip) = .next (match step (ofChip chip) with | .next t => t | _ => ofChip chip) ∧
      SlotLaws (locks 12) ∧ EvenClock (ofChip chip) ∧ IdleTimerLaw (ofChip chip) ∧ FaultFlagLaw (ofChip chip) := by
  refine ⟨by decide, rfl, ?_, ?_, ?_, ?_⟩
  · exact ⟨by decide, by decide, fun i => by
      have h : ∀ i, ((locks 12).chip.slot i).recLine = none := by decide
      exact fun y _ => .inl (h i)⟩
  · unfold EvenClock; decide
  · unfold IdleTimerLaw; decide
  · unfold FaultFlagLaw; decide

theorem witness_ResetsAndStopEmptyTheSlotStore :
    (ofChip chip).chip.shc.run ≠ .halted ∧ (ofChip chip).chip.shc.run ≠ .failed ∧ State.reset.chip.shc.run = .halted ∧
      SlotsAtReset State.reset ∧ ((locks 12).chip.slot 0).lock ≠ none ∧
      ((after (.stop false 0) (locks 12)).chip.slot 0).lock = none ∧ (after (.stop false 0) (ringing)).chip.line 5 ≠ ringing.chip.line 5 := by
  unfold SlotsAtReset; decide

/-- The running shelf of these tests stands as the start procedure leaves it. -/
theorem witness_StepNeverStops : Placed (ofChip chip).chip where
  areas _ := by unfold AreasFit; decide
  first h := by revert h; decide
  reqs := by decide
  busy _ h := by cases h

theorem witness_MajorFaultStaysHeld :
    (faulted .memoryTimeout).shc.fault = some ⟨.memoryTimeout, none, 0, 7⟩ ∧ FaultKind.memoryTimeout.major = true ∧
      (ofChip (faulted .memoryTimeout)).pending = [] ∧
      (after .resetInput (ofChip (faulted .memoryTimeout))).chip.shc.fault = some ⟨.memoryTimeout, none, 0, 7⟩ := by decide

end Sys2Proof.Tests
end

section
/-! SUPPORT. What the updates of one line do to it: every entry to a state and every drive of a line is one `Chip.modLine`, so
that reads and frames of a chain of them follow from the laws of `modLine`. -/

namespace Sys2Proof.Machine

/-! ### One line -/

/-- Two updates of one line are one. -/
@[simp] theorem Chip.modLine_modLine (c : Chip) (x : LineNo) (f g : Line → Line) :
    (c.modLine x f).modLine x g = c.modLine x fun l => g (f l) := by
  simp [Chip.modLine]

/-- Two updates that agree on the line as it stands are the same. -/
theorem Chip.modLine_congr {c : Chip} {x : LineNo} {f g : Line → Line} (h : f (c.line x) = g (c.line x)) :
    c.modLine x f = c.modLine x g := by
  have h' : f c.lines[x] = g c.lines[x] := h
  simp only [Chip.modLine, h']

/-- A line is governed by the same timing set as before where the update keeps its core field (02 R28). -/
theorem Chip.timing_modLine (c : Chip) (x y : LineNo) (f : Line → Line) (hf : (f (c.line x)).tset = (c.line x).tset) :
    (c.modLine x f).timing y = c.timing y := by
  have h : ((c.modLine x f).line y).tset = (c.line y).tset := by
    rw [Chip.line_modLine]
    split
    · next e => rw [e, hf]
    · rfl
  simp [Chip.timing, h]

/-- The line with a tone-bus connection in place of the one before (09 R145). -/
def Line.toned (l : Line) (t : Tone) : Line := { l with tone := t, mark := l.mark || l.tone != t }

/-- The line with a slot reference in place of the one before. -/
def Line.slotted (l : Line) (i : Option SlotNo) : Line := { l with slot := i, mark := l.mark || l.slot != i }

@[simp] theorem setSt_eq (x : LineNo) (st : LineSt) (c : Chip) :
    setSt x st c = c.modLine x fun l => l.enter (c.timing x).clearAt st := rfl

@[simp] theorem setTone_eq (x : LineNo) (t : Tone) (c : Chip) : setTone x t c = c.modLine x fun l => l.toned t := rfl

@[simp] theorem setSlotRef_eq (x : LineNo) (i : Option SlotNo) (c : Chip) :
    setSlotRef x i c = c.modLine x fun l => l.slotted i := rfl

@[simp] theorem setSelector_eq (x : LineNo) (k : Option Selector) (c : Chip) :
    setSelector x k c = c.modLine x fun l => { l with selector := k } := rfl

/-! ### The fields of a line in a new state -/

section
variable (l : Line) (n : Nat) (st : LineSt)

@[simp] theorem Line.enter_st : (l.enter n st).st = st := rfl
@[simp] theorem Line.enter_mark : (l.enter n st).mark = (l.mark || l.st != st) := rfl
@[simp] theorem Line.enter_answered : (l.enter n st).answered = (l.answered && st == .talk) := rfl
@[simp] theorem Line.enter_dialTone : (l.enter n st).dialTone = if st = .dialTone then l.dialTone else none := rfl
@[simp] theorem Line.enter_dialling :
    (l.enter n st).dialling = if st = .dialling ∨ st = .recall then l.dialling else none := rfl
@[simp] theorem Line.enter_guard : (l.enter n st).guard = if st = .releaseGuard then l.guard else none := rfl
@[simp] theorem Line.enter_park : (l.enter n st).park = if st = .parked then l.park else none := rfl
@[simp] theorem Line.enter_howler : (l.enter n st).howler = if st = .parked then l.howler else none := rfl
@[simp] theorem Line.enter_threshold : (l.enter n st).threshold = entryThreshold st l.hook n l.threshold := rfl
@[simp] theorem Line.enter_equipped : (l.enter n st).equipped = l.equipped := rfl
@[simp] theorem Line.enter_cls : (l.enter n st).cls = l.cls := rfl
@[simp] theorem Line.enter_sig : (l.enter n st).sig = l.sig := rfl
@[simp] theorem Line.enter_tset : (l.enter n st).tset = l.tset := rfl
@[simp] theorem Line.enter_slot : (l.enter n st).slot = l.slot := rfl
@[simp] theorem Line.enter_seizure : (l.enter n st).seizure = l.seizure := rfl
@[simp] theorem Line.enter_sampling : (l.enter n st).sampling = l.sampling := rfl
@[simp] theorem Line.enter_hook : (l.enter n st).hook = l.hook := rfl
@[simp] theorem Line.enter_run : (l.enter n st).run = l.run := rfl
@[simp] theorem Line.enter_tone : (l.enter n st).tone = l.tone := rfl
@[simp] theorem Line.enter_selector : (l.enter n st).selector = l.selector := rfl

end

section
variable (k : Hook) (n : Nat) (t : Threshold)

/-! A state in which no break is judged has no threshold (02 R29). -/

@[simp] theorem entryThreshold_unequipped : entryThreshold .unequipped k n t = .none := rfl
@[simp] theorem entryThreshold_idle : entryThreshold .idle k n t = .none := rfl
@[simp] theorem entryThreshold_blocked : entryThreshold .blocked k n t = .none := rfl

end

/-! ### Entries to states -/

/-- The line as it enters UNEQUIPPED: no tone, no selector, no sampling, a held slot request withdrawn (01 R6). -/
def Line.unequip (l : Line) (clearAt : Nat) : Line :=
  { (l.enter clearAt .unequipped).toned .none with selector := none, sampling := .off, asking := false }

@[simp] theorem enterUnequipped_eq (x : LineNo) (c : Chip) :
    enterUnequipped x c = c.modLine x fun l => l.unequip (c.timing x).clearAt := by
  simp [enterUnequipped, Line.unequip]

/-- IDLE on an equipped line (01 R8). -/
theorem enterIdle_of_equipped {x : LineNo} {c : Chip} (h : (c.line x).equipped = true) :
    enterIdle x c = c.modLine x fun l => (l.enter (c.timing x).clearAt .idle).toned .none := by
  simp [enterIdle, h]

/-- IDLE on a line not equipped is UNEQUIPPED (01 R6). -/
theorem enterIdle_of_not_equipped {x : LineNo} {c : Chip} (h : (c.line x).equipped = false) :
    enterIdle x c = enterUnequipped x c := by
  simp [enterIdle, h]

/-- The line as it enters PARKED with a park delay of `ms` (03 R51). -/
def Line.parked (l : Line) (clearAt ms : Nat) : Line :=
  { (l.enter clearAt .parked).toned .none with park := if ms = 0 then none else some ⟨0, ms⟩, howler := none }

/-- PARKED without a record (03 R51). -/
@[simp] theorem enterParked_none (x : LineNo) (c : Chip) :
    enterParked x none c = c.modLine x fun l => l.parked (c.timing x).clearAt (1000 * (c.timing x).parkDelay) := by
  simp [enterParked, Line.parked, Timer.start]

/-- PARKED with its record (03 R51). -/
@[simp] theorem enterParked_some (x : LineNo) (r : ParkReason) (c : Chip) :
    enterParked x (some r) c = emit (some x) (.park r) (enterParked x none c) := rfl

/-! ### A command that changed one line -/

/-- A command that went on with one line changed left the other lines alone. -/
theorem othersKept_modLine (s : State) (x : LineNo) (f : Line → Line) :
    OthersKept x s { s with chip := settle s.chip (s.chip.modLine x f) } := fun y hy => by
  simp [Chip.line_modLine_ne _ _ hy]

/-- A command that went on with one line changed left every other part alone. -/
theorem onlyChanges_modLine (s : State) (x : LineNo) (f : Line → Line) :
    OnlyChanges [.lines] s { s with chip := settle s.chip (s.chip.modLine x f) } :=
  OnlyChanges.of_chip (m := s.ram) (by simp) (fun _ => rfl) (fun _ => rfl) (fun _ => rfl) (fun _ => rfl) (fun _ => rfl)
    (fun _ => rfl) (fun _ => rfl) (fun _ => rfl) (fun _ => rfl) (fun _ => rfl)

end Sys2Proof.Machine
end

section
/-! SUPPORT. An order taken by its own command (10 R150, R151): what the Order Reader does before and after the block that owns
the order, and the orders TONE, BLOCK and UNBLOCK by line state (01 R11, R13, 09 R145). -/

namespace Sys2Proof.Machine

/-! ### Operands -/

@[simp] theorem word_lineNo_toNat (x : LineNo) : (word x.val).toNat = x.val := by
  simp only [word, BitVec.toNat_ofNat]
  omega

@[simp] theorem lineOf_word (x : LineNo) : lineOf (word x.val) = x := by
  simp [lineOf]

theorem lineInRange_word (x : LineNo) : lineInRange (word x.val) = true := by
  simp only [lineInRange, word_lineNo_toNat, decide_eq_true_eq]
  omega

/-! ### Taking an order -/

theorem Ready.orderReady {s : State} (h : Ready s) : s.chip.orderReady = true := by
  obtain ⟨hrun, hwork, hcell⟩ := h
  rcases hcell with hcell | ⟨hstage, hresult⟩
  · simp [Chip.orderReady, hrun, hwork, hcell]
  · simp [Chip.orderReady, hrun, hwork, hstage, hresult]

theorem orderCommand_of_ready {s : State} (h : Ready s) (k : Nat) (a1 a2 a3 a4 a5 : Word) :
    orderCommand k a1 a2 a3 a4 a5 s = finish s (takeOrder ⟨word k, a1, a2, a3, a4, a5⟩ s.chip) :=
  if_pos h.orderReady

/-- Every order command takes its order as soon as the Order Reader can take one (10 R150, log 3). -/
theorem exec_of_ready {s : State} {i : Instr} {o : OrderCopy} (h : Ready s) (ho : orderOf i = some o) :
    exec i s = finish s (takeOrder o s.chip) := by
  cases i <;> cases ho <;> exact orderCommand_of_ready h _ _ _ _ _ _

@[simp] theorem copyOrder_line (o : OrderCopy) (c : Chip) (x : LineNo) : (copyOrder o c).line x = c.line x := rfl
@[simp] theorem copyOrder_timing (o : OrderCopy) (c : Chip) (x : LineNo) : (copyOrder o c).timing x = c.timing x := rfl
@[simp] theorem copyOrder_shc (o : OrderCopy) (c : Chip) : (copyOrder o c).shc = c.shc := rfl

/-- Common validation of an order that names line x below the equipped count (10 R151). -/
theorem validate_of_names {o : OrderCopy} {k : OrderKind} {x : LineNo} {c : Chip} (hk : orderKind o.kind = some k)
    (ha : argsInRange k o = true) (hl : orderLine k o = some x.val) (hx : lineOf o.a1 = x)
    (he : x.val < c.shc.hdr.equipped) :
    validate o c = if takenUnequipped k = false ∧ (c.line x).st = .unequipped then .error .noLine else .ok k := by
  have hlt : ¬ c.shc.hdr.equipped ≤ x.val := by omega
  simp [validate, hk, ha, hl, hx, hlt]

/-- An order that names line x below the equipped count is refused for an UNEQUIPPED line, unless its kind is taken there,
and else handed to its block (10 R150, R151). -/
theorem takeOrder_of_names {o : OrderCopy} {k : OrderKind} {x : LineNo} {c : Chip} (hk : orderKind o.kind = some k)
    (ha : argsInRange k o = true) (hl : orderLine k o = some x.val) (hx : lineOf o.a1 = x)
    (he : x.val < c.shc.hdr.equipped) :
    takeOrder o c =
      if takenUnequipped k = false ∧ (c.line x).st = .unequipped then setResult .noLine (copyOrder o c)
      else handOver k o (copyOrder o c) := by
  have hv := validate_of_names (c := copyOrder o c) hk ha hl hx he
  rw [copyOrder_line] at hv
  simp only [takeOrder, hv]
  by_cases h : takenUnequipped k = false ∧ (c.line x).st = .unequipped
  · simp only [h, and_self, if_true]
  · simp only [h, if_false]

/-- An order is answered with its result and nothing else happens if taking it gives the result at once. -/
theorem answersOnly_of_takeOrder {s : State} {i : Instr} {o : OrderCopy} {r : Result} (h : Ready s)
    (ho : orderOf i = some o) (ht : takeOrder o s.chip = setResult r (copyOrder o s.chip)) : AnswersOnly i o r s := by
  refine ⟨_, (exec_of_ready h ho).trans (finish_eq _ _), ?_, ?_⟩
  · simp [Answered, ht, setResult, copyOrder]
  · rw [ht]
    exact OnlyChanges.of_chip (m := s.ram) (fun _ => rfl) (fun _ => rfl) (fun _ => rfl) (fun _ => rfl) (fun _ => rfl)
      (fun _ => rfl) (by simp) (fun _ => rfl) (fun _ => rfl) (fun _ => rfl) (fun _ => rfl)

/-- An order that changes one line and is answered at once. -/
theorem answers_modLine {s : State} {i : Instr} {o : OrderCopy} {r : Result} {x : LineNo} {f : Line → Line} (h : Ready s)
    (ho : orderOf i = some o) (ht : takeOrder o s.chip = setResult r ((copyOrder o s.chip).modLine x f)) :
    ∃ t, exec i s = .next t ∧ Answered o r s t ∧ t.chip.line x = f (s.chip.line x) ∧ OthersKept x s t ∧
      OnlyChanges [.lines, .orders] s t := by
  refine ⟨_, (exec_of_ready h ho).trans (finish_eq _ _), ?_, ?_, fun y hy => ?_, ?_⟩
  · simp [Answered, ht, setResult, copyOrder]
  · rw [ht, settle_line]
    exact Chip.line_modLine_self (copyOrder o s.chip) x f
  · rw [ht, settle_line]
    exact Chip.line_modLine_ne (copyOrder o s.chip) f hy
  · rw [ht]
    exact OnlyChanges.of_chip (m := s.ram) (by simp) (fun _ => rfl) (fun _ => rfl) (fun _ => rfl) (fun _ => rfl)
      (fun _ => rfl) (by simp) (fun _ => rfl) (fun _ => rfl) (fun _ => rfl) (fun _ => rfl)

/-! ### TONE, BLOCK and UNBLOCK taken -/

section
variable {c : Chip} {x : LineNo}

theorem takeOrder_tone {bus : Word} (hb : bus = 0 ∨ bus = 3) (he : x.val < c.shc.hdr.equipped) :
    takeOrder ⟨6, word x.val, bus, 0, 0, 0⟩ c =
      if (c.line x).st = .unequipped then setResult .noLine (copyOrder ⟨6, word x.val, bus, 0, 0, 0⟩ c)
      else withResult (orderTone x (toneArg bus) (copyOrder ⟨6, word x.val, bus, 0, 0, 0⟩ c)) := by
  have hbus : (bus.toNat == 0 || bus.toNat == 3) = true := by rcases hb with rfl | rfl <;> decide
  rw [takeOrder_of_names (k := .tone) rfl (by simp [argsInRange, lineInRange_word, hbus]) (by simp [orderLine])
    (lineOf_word x) he]
  by_cases hu : (c.line x).st = .unequipped <;> simp [hu, takenUnequipped, handOver]

theorem takeOrder_block (he : x.val < c.shc.hdr.equipped) :
    takeOrder ⟨8, word x.val, 0, 0, 0, 0⟩ c = withResult (orderBlock x (copyOrder ⟨8, word x.val, 0, 0, 0, 0⟩ c)) := by
  rw [takeOrder_of_names (k := .block) rfl (by simp [argsInRange, lineInRange_word]) (by simp [orderLine])
    (lineOf_word x) he]
  by_cases hu : (c.line x).st = .unequipped <;> simp [hu, takenUnequipped, handOver, orderBlock, withResult]

theorem takeOrder_unblock (he : x.val < c.shc.hdr.equipped) :
    takeOrder ⟨9, word x.val, 0, 0, 0, 0⟩ c = withResult (orderUnblock x (copyOrder ⟨9, word x.val, 0, 0, 0, 0⟩ c)) := by
  rw [takeOrder_of_names (k := .unblock) rfl (by simp [argsInRange, lineInRange_word]) (by simp [orderLine])
    (lineOf_word x) he]
  by_cases hu : (c.line x).st = .unequipped <;> simp [hu, takenUnequipped, handOver, orderUnblock, withResult]

end

theorem orderTone_of_other {c : Chip} {x : LineNo} {t : Tone} (h1 : (c.line x).st ≠ .routing) (h2 : (c.line x).st ≠ .recall) :
    orderTone x t c = (c, .lineBusy) := by
  unfold orderTone
  split <;> simp_all

theorem orderBlock_of_busy {c : Chip} {x : LineNo}
    (h : (c.line x).st ∉ [LineSt.idle, .parked, .releaseGuard, .blocked, .unequipped]) :
    orderBlock x c = (c, .lineBusy) := by
  unfold orderBlock
  split <;> simp_all

theorem orderUnblock_of_other {c : Chip} {x : LineNo} (h1 : (c.line x).st ≠ .blocked) (h2 : (c.line x).st ≠ .unequipped) :
    orderUnblock x c = (c, .ok) := by
  cases hst : (c.line x).st <;> simp_all [orderUnblock]

/-! ### What each does to its line -/

section
variable {s : State} {x : LineNo}

/-- TONE in ROUTING and RECALL (09 R145). -/
theorem tone_connects (hr : Ready s) (he : x.val < s.chip.shc.hdr.equipped) {bus : Word} (hb : bus = 0 ∨ bus = 3)
    (hst : (s.chip.line x).st = .routing ∨ (s.chip.line x).st = .recall) :
    ∃ t, exec (.tone (word x.val) bus) s = .next t ∧ Answered ⟨6, word x.val, bus, 0, 0, 0⟩ .ok s t ∧
      t.chip.line x = (s.chip.line x).toned (if bus = 3 then .progress else .none) ∧ OthersKept x s t ∧
      OnlyChanges [.lines, .orders] s t := by
  have harg : toneArg bus = if bus = 3 then .progress else .none := by rcases hb with rfl | rfl <;> rfl
  refine answers_modLine (f := fun l => l.toned _) hr rfl ?_
  rw [takeOrder_tone hb he, harg]
  rcases hst with hst | hst <;> simp [hst, orderTone, withResult]

/-- TONE in any other state (09 R145, 10 R151). -/
theorem tone_refused (hr : Ready s) (he : x.val < s.chip.shc.hdr.equipped) {bus : Word} (hb : bus = 0 ∨ bus = 3)
    (hst : (s.chip.line x).st ≠ .routing ∧ (s.chip.line x).st ≠ .recall) :
    AnswersOnly (.tone (word x.val) bus) ⟨6, word x.val, bus, 0, 0, 0⟩
      (if (s.chip.line x).st = .unequipped then .noLine else .lineBusy) s := by
  refine answersOnly_of_takeOrder hr rfl ?_
  rw [takeOrder_tone hb he]
  obtain ⟨h1, h2⟩ := hst
  split
  · rfl
  · rw [orderTone_of_other (by simpa using h1) (by simpa using h2)]
    rfl

/-- The line as BLOCK leaves it (01 R11). -/
def Line.blocked (l : Line) : Line :=
  { l with
    st := .blocked
    tone := .none
    answered := false
    dialTone := none
    dialling := none
    guard := none
    park := none
    howler := none
    threshold := .none
    mark := true }

/-- A line that was not BLOCKED, silent in BLOCKED. -/
theorem Line.toned_enter_blocked {l : Line} (n : Nat) (h : l.st ≠ .blocked) :
    (l.enter n .blocked).toned .none = l.blocked := by
  simp [Line.toned, Line.enter, Line.blocked, h]

/-- BLOCK in IDLE, PARKED and RELEASE_GUARD (01 R11). -/
theorem block_blocks (hr : Ready s) (he : x.val < s.chip.shc.hdr.equipped)
    (hst : (s.chip.line x).st = .idle ∨ (s.chip.line x).st = .parked ∨ (s.chip.line x).st = .releaseGuard) :
    ∃ t, exec (.block (word x.val)) s = .next t ∧ Answered ⟨8, word x.val, 0, 0, 0, 0⟩ .ok s t ∧
      t.chip.line x = (s.chip.line x).blocked ∧ OthersKept x s t ∧ OnlyChanges [.lines, .orders] s t := by
  have hne : (s.chip.line x).st ≠ .blocked := by rcases hst with h | h | h <;> simp [h]
  rw [← Line.toned_enter_blocked (s.chip.timing x).clearAt hne]
  refine answers_modLine (f := fun l => (l.enter (s.chip.timing x).clearAt .blocked).toned .none) hr rfl ?_
  rw [takeOrder_block he]
  rcases hst with hst | hst | hst <;> simp [hst, orderBlock, withResult]

/-- BLOCK in a state in which it changes nothing (01 R11). -/
theorem block_answers (hr : Ready s) (he : x.val < s.chip.shc.hdr.equipped) {r : Result}
    (ho : ∀ c : Chip, (c.line x).st = (s.chip.line x).st → orderBlock x c = (c, r)) :
    AnswersOnly (.block (word x.val)) ⟨8, word x.val, 0, 0, 0, 0⟩ r s := by
  refine answersOnly_of_takeOrder hr rfl ?_
  rw [takeOrder_block he, ho _ (by simp)]
  rfl

/-- UNBLOCK in a state in which it changes nothing (01 R13). -/
theorem unblock_answers (hr : Ready s) (he : x.val < s.chip.shc.hdr.equipped) {r : Result}
    (ho : ∀ c : Chip, (c.line x).st = (s.chip.line x).st → orderUnblock x c = (c, r)) :
    AnswersOnly (.unblock (word x.val)) ⟨9, word x.val, 0, 0, 0, 0⟩ r s := by
  refine answersOnly_of_takeOrder hr rfl ?_
  rw [takeOrder_unblock he, ho _ (by simp)]
  rfl

/-- The entry that UNBLOCK makes (01 R13). -/
def Line.unblocked (l : Line) (clearAt ms : Nat) : Line :=
  if l.equipped = false then l.unequip clearAt
  else
    match l.hook with
    | .on => (l.enter clearAt .idle).toned .none
    | .off => l.parked clearAt ms

theorem orderUnblock_of_blocked {c : Chip} {x : LineNo} (h : (c.line x).st = .blocked) :
    orderUnblock x c =
      (c.modLine x fun l => l.unblocked (c.timing x).clearAt (1000 * (c.timing x).parkDelay), .ok) := by
  unfold orderUnblock
  simp only [h]
  by_cases he : (c.line x).equipped = true
  · simp only [he, Bool.not_true, Bool.false_eq_true, if_false]
    split
    · next hk =>
      rw [enterIdle_of_equipped he]
      exact congrArg (·, Result.ok) (Chip.modLine_congr (by simp [Line.unblocked, he, hk]))
    · next hk =>
      rw [enterParked_none]
      exact congrArg (·, Result.ok) (Chip.modLine_congr (by simp [Line.unblocked, he, hk]))
  · simp only [he, Bool.not_false, if_true, enterUnequipped_eq]
    exact congrArg (·, Result.ok) (Chip.modLine_congr (by simp [Line.unblocked, he]))

/-- UNBLOCK of a BLOCKED line (01 R13). -/
theorem unblock_unblocks (hr : Ready s) (he : x.val < s.chip.shc.hdr.equipped) (hst : (s.chip.line x).st = .blocked) :
    ∃ t, exec (.unblock (word x.val)) s = .next t ∧ Answered ⟨9, word x.val, 0, 0, 0, 0⟩ .ok s t ∧
      t.chip.line x = (s.chip.line x).unblocked (s.chip.timing x).clearAt (1000 * (s.chip.timing x).parkDelay) ∧
      OthersKept x s t ∧ OnlyChanges [.lines, .orders] s t := by
  refine answers_modLine (f := fun l => l.unblocked _ _) hr rfl ?_
  rw [takeOrder_unblock he, orderUnblock_of_blocked (by simpa using hst)]
  rfl

end

end Sys2Proof.Machine
end

section
/-! SUPPORT. The line as TONE and UNBLOCK leave it, item by item. -/

namespace Sys2Proof.Machine

/-- A line of which a bus is connected, but for its mark. -/
theorem Line.unmarked_toned (l : Line) (t : Tone) : (l.toned t).unmarked = { l.unmarked with tone := t } := rfl

/-- A change of the tone-bus connection sets the mirror-pending mark (01 R14). -/
theorem Line.toned_mark {l : Line} {t : Tone} (h : l.tone ≠ t) : (l.toned t).mark = true := by
  simp [Line.toned, h]

section
variable (l : Line) (n ms : Nat)

theorem Line.unblocked_st :
    (l.unblocked n ms).st = if l.equipped = false then .unequipped else match l.hook with | .on => .idle | .off => .parked := by
  unfold Line.unblocked
  split
  · rfl
  · cases l.hook <;> rfl

theorem Line.unblocked_park :
    (l.unblocked n ms).park = if l.equipped = true ∧ l.hook = .off ∧ ms ≠ 0 then some ⟨0, ms⟩ else none := by
  unfold Line.unblocked
  cases he : l.equipped
  · rfl
  · cases hk : l.hook
    · rfl
    · by_cases hm : ms = 0 <;> simp [Line.parked, hm]

theorem Line.unblocked_tone : (l.unblocked n ms).tone = .none := by
  unfold Line.unblocked
  split
  · rfl
  · cases l.hook <;> rfl

theorem Line.unblocked_hook : (l.unblocked n ms).hook = l.hook := by
  unfold Line.unblocked
  split
  · rfl
  · split <;> rfl

theorem Line.unblocked_run : (l.unblocked n ms).run = l.run := by
  unfold Line.unblocked
  split
  · rfl
  · cases l.hook <;> rfl

theorem Line.unblocked_mark (h : l.st = .blocked) : (l.unblocked n ms).mark = true := by
  unfold Line.unblocked
  split
  · simp [Line.unequip, Line.toned, h]
  · cases l.hook <;> simp [Line.toned, Line.parked, h]

end
end Sys2Proof.Machine

section
open Sys2Proof Sys2Proof.Machine

/-- Settles O41: TONE, BLOCK and UNBLOCK by the state of the line. -/
theorem toneBlockUnblockActByLineState : Obligations.ToneBlockUnblockActByLineState := by
  unfold Obligations.ToneBlockUnblockActByLineState
  intro s x hr he
  refine ⟨fun bus hb => ⟨fun hst => ?_, fun hu => ?_, fun h1 h2 h3 => ?_⟩,
    ⟨block_blocks hr he, fun hb => ?_, fun hu => ?_, fun hst => ?_⟩, fun hb => ?_, fun hu => ?_, fun h1 h2 => ?_⟩
  · obtain ⟨t, ht, ha, hl, ho, hc⟩ := tone_connects hr he hb hst
    refine ⟨t, ht, ha, by rw [hl, Line.unmarked_toned], fun hne => ?_, ho, hc⟩
    rw [hl] at hne ⊢
    exact Line.toned_mark hne
  · have h := tone_refused hr he hb (by simp [hu])
    rwa [if_pos hu] at h
  · have h := tone_refused hr he hb ⟨h1, h2⟩
    rwa [if_neg h3] at h
  · exact block_answers hr he fun c hc => by simp [orderBlock, hc, hb]
  · exact block_answers hr he fun c hc => by simp [orderBlock, hc, hu]
  · exact block_answers hr he fun c hc => orderBlock_of_busy (by rwa [hc])
  · obtain ⟨t, ht, ha, hl, ho, hc⟩ := unblock_unblocks hr he hb
    refine ⟨t, ht, ha, ?_, ?_, ?_, ?_, ?_, ?_, ho, hc⟩ <;> rw [hl]
    · exact Line.unblocked_st _ _ _
    · rw [Line.unblocked_park]
      simp
    · exact Line.unblocked_tone _ _ _
    · exact Line.unblocked_hook _ _ _
    · exact Line.unblocked_run _ _ _
    · exact Line.unblocked_mark _ _ _ hb
  · exact unblock_answers hr he fun c hc => by simp [orderUnblock, hc, hu]
  · exact unblock_answers hr he fun c hc => orderUnblock_of_other (by rwa [hc]) (by rwa [hc])

end
end

section
/-! SUPPORT. The state after power-on reset (11 R172): every line, slot and plan as its block gives it, and the laws there. -/

namespace Sys2Proof.Machine

@[simp] theorem reset_line (x : LineNo) : State.reset.chip.line x = Line.reset := by
  simp [State.reset, Chip.reset, Chip.line]

@[simp] theorem reset_slot (i : SlotNo) : State.reset.chip.slot i = Slot.reset := by
  simp [State.reset, Chip.reset, Sst.reset, Chip.slot]

theorem reset_planSt (p : PlanNo) : State.reset.chip.planSt p = .absent := by
  have ha : State.reset.chip.ctb.active[p] = none := Vector.getElem_replicate ..
  have hs : State.reset.chip.ctb.staged[p] = none := Vector.getElem_replicate ..
  simp only [Chip.planSt, ha, hs]

/-- The LRU stack is whole and no slot is locked (04 R72). -/
theorem reset_slotLaws : SlotLaws State.reset := by
  refine ⟨List.Perm.of_eq (by decide), ?_, fun i => ?_⟩
  · simp [Chip.lockedCount, Slot.reset]
  · simp [Slot.Own, Slot.reset]

/-- HALTED, the Memory Port goes nowhere (10 R162). -/
theorem reset_placed : Placed State.reset.chip where
  areas h := by simp [State.reset, Chip.reset, Shc.reset] at h
  first h := by cases h
  reqs := by simp [State.reset, Chip.reset, Mpt.reset]
  busy _ h := by cases h

/-- The registers as read after power-on reset (10 Table 10-13). -/
theorem reset_registers :
    State.reset.chip.readControl = 0 ∧ State.reset.chip.readStatus = 0 ∧ State.reset.chip.readAttention = 0 ∧
      State.reset.chip.readAreaBase = 0 ∧ State.reset.chip.readFaultA = 0 ∧ State.reset.chip.readFaultB = 0 := by decide

end Sys2Proof.Machine

section
open Sys2Proof Sys2Proof.Machine

/-- Settles O3: the reset values, block by block, and the laws of the device there. -/
theorem resetHoldsTheSpecsValues : Obligations.ResetHoldsTheSpecsValues := by
  unfold Obligations.ResetHoldsTheSpecsValues
  obtain ⟨hControl, hStatus, hAttention, hBase, hA, hB⟩ := reset_registers
  refine ⟨rfl, hControl, hStatus, hAttention, hBase, hA, hB, rfl, rfl, rfl, rfl, rfl, fun x => ?_, fun i => ?_, rfl, rfl,
    reset_planSt, rfl, rfl, rfl, rfl, rfl, rfl, rfl, rfl, rfl, rfl, rfl, fun _ => rfl, rfl, reset_ram_wf, reset_slotLaws,
    reset_placed, rfl, fun _ => rfl, fun h => ?_⟩
  · rw [reset_line]
    simp [Line.reset]
  · rw [reset_slot]
    simp [Slot.reset]
  · cases h

end
end

section
/-! SUPPORT. What forming a record and raising a fault change and what they leave alone, as the equations of a chip read after them
(10 R154, 11 R165). -/

namespace Sys2Proof.Machine

/-! ### A record is formed (10 R154) -/

theorem enqueue_eq (r : Rec) (c : Chip) :
    enqueue r c =
      { c with jwr := (enqueue r c).jwr, shc := { c.shc with attention := (enqueue r c).shc.attention } } := by
  unfold enqueue
  split
  · rfl
  · split
    · rfl
    · split <;> rfl

/-- A record formed changes the Journal Writer and the attention flags, and nothing else. -/
theorem emit_eq (x : Option LineNo) (b : Body) (c : Chip) :
    emit x b c =
      { c with jwr := (emit x b c).jwr, shc := { c.shc with attention := (emit x b c).shc.attention } } := by
  unfold emit
  simp only []
  split
  · rfl
  · rfl
  · rfl
  · exact enqueue_eq _ c
  · split
    · exact enqueue_eq _ c
    · rfl

section
variable (x : Option LineNo) (b : Body) (c : Chip)

@[simp] theorem emit_lines : (emit x b c).lines = c.lines := by rw [emit_eq]
@[simp] theorem emit_sets : (emit x b c).sets = c.sets := by rw [emit_eq]
@[simp] theorem emit_sst : (emit x b c).sst = c.sst := by rw [emit_eq]
@[simp] theorem emit_ctb : (emit x b c).ctb = c.ctb := by rw [emit_eq]
@[simp] theorem emit_rsc : (emit x b c).rsc = c.rsc := by rw [emit_eq]
@[simp] theorem emit_gen : (emit x b c).gen = c.gen := by rw [emit_eq]
@[simp] theorem emit_ord : (emit x b c).ord = c.ord := by rw [emit_eq]
@[simp] theorem emit_mpt : (emit x b c).mpt = c.mpt := by rw [emit_eq]
@[simp] theorem emit_line (y : LineNo) : (emit x b c).line y = c.line y := by rw [emit_eq]; rfl
@[simp] theorem emit_slot (i : SlotNo) : (emit x b c).slot i = c.slot i := by rw [emit_eq]; rfl
@[simp] theorem emit_timing (y : LineNo) : (emit x b c).timing y = c.timing y := by rw [emit_eq]; rfl
@[simp] theorem emit_run : (emit x b c).shc.run = c.shc.run := by rw [emit_eq]
@[simp] theorem emit_ms : (emit x b c).shc.ms = c.shc.ms := by rw [emit_eq]
@[simp] theorem emit_fault : (emit x b c).shc.fault = c.shc.fault := by rw [emit_eq]
@[simp] theorem emit_further : (emit x b c).shc.further = c.shc.further := by rw [emit_eq]

end

@[simp] theorem Jwr.fold_queue (j : Jwr) (r : Rec) : (j.fold r).queue = j.queue := by
  unfold Jwr.fold
  split <;> rfl

/-- The write queue only grows at its tail. -/
theorem enqueue_queue_prefix (r : Rec) (c : Chip) : c.jwr.queue <+: (enqueue r c).jwr.queue := by
  unfold enqueue
  split
  · simp
  · split
    · simp
    · split
      · simp [beginStall, setAttention]
      · simp

/-- A record formed leaves the records of the write queue at its head (10 R154). -/
theorem emit_queue_prefix (x : Option LineNo) (b : Body) (c : Chip) : c.jwr.queue <+: (emit x b c).jwr.queue := by
  unfold emit
  simp only []
  split
  · simp
  · simp
  · simp
  · exact enqueue_queue_prefix _ c
  · split
    · exact enqueue_queue_prefix _ c
    · simp

/-- The journal of a chip queues a record of line x (10 R154): `Queues` of its state. -/
def Chip.Queueing (c : Chip) (x : LineNo) : Prop :=
  c.shc.run = .running ∧ c.jwr.stall = .none ∧ c.jwr.summaries[x] = none ∧ c.jwr.full = false

theorem queues_iff (x : LineNo) (s : State) : Queues x s ↔ s.chip.Queueing x := Iff.rfl

/-- A record of a line whose records are queued joins the tail of the write queue, stamped with the millisecond counter. -/
theorem emit_of_queueing {x : LineNo} {c : Chip} (h : c.Queueing x) (b : Body) :
    emit (some x) b c = c.modJwr fun j => { j with queue := j.queue ++ [⟨some x, c.shc.ms, b⟩] } := by
  obtain ⟨hrun, hstall, hheld, hfull⟩ := h
  have hs : c.stamp = c.shc.ms := by simp [Chip.stamp, hrun]
  have hh : c.heldFlag x = false := by simp only [Chip.heldFlag, hheld, Option.isSome_none]
  simp [emit, hrun, enqueue, hstall, hh, hfull, hs]

/-- A line whose record was queued has its next queued while there is room for two (10 R154). -/
theorem Chip.Queueing.append {x : LineNo} {c : Chip} (h : c.Queueing x) (hroom : c.jwr.counted + 2 ≤ 32) (r : Rec) :
    (c.modJwr fun j => { j with queue := j.queue ++ [r] }).Queueing x := by
  obtain ⟨hrun, hstall, hheld, -⟩ := h
  refine ⟨hrun, hstall, hheld, ?_⟩
  have hlen : (Jwr.counted { c.jwr with queue := c.jwr.queue ++ [r] }) ≤ c.jwr.counted + 1 := by
    simp only [Jwr.counted, List.filter_append, List.length_append]
    have := List.length_filter_le (fun r : Rec => !r.body.isResume) [r]
    simp only [List.length_singleton] at this
    omega
  exact decide_eq_false (Nat.not_le.2 (Nat.lt_of_le_of_lt hlen (Nat.succ_lt_succ_iff.1 (Nat.lt_succ_of_le hroom))))

/-! ### Flags -/

/-- A flag that is set stays set (11 R164). -/
theorem Shc.Raised.flag {a b : Shc} (h : a.Raised b) {f : BitVec 5} (hf : a.attention &&& f = f) : b.attention &&& f = f := by
  rw [← h.attention]
  ext i hi
  have hi' := congrArg (·[i]) hf
  simp only [BitVec.getElem_and, BitVec.getElem_or] at hi' ⊢
  cases hfi : f[i] <;> simp_all

theorem emit_flag {c : Chip} {f : BitVec 5} (h : c.shc.attention &&& f = f) (x : Option LineNo) (b : Body) :
    (emit x b c).shc.attention &&& f = f :=
  ((Quiet.refl c).emit x b).shc.flag h

/-! ### A fault is raised (11 R165) -/

section
variable (k : FaultKind) (x : Option LineNo) (n : Nat) (c : Chip)

/-- A fault raised changes the Journal Writer, the fault record and the attention flags, and nothing else. -/
theorem raiseFault_eq :
    raiseFault k x n c =
      { c with jwr := (raiseFault k x n c).jwr, shc := (raiseFault k x n c).shc } := by
  unfold raiseFault
  rw [emit_eq]
  rfl

@[simp] theorem raiseFault_lines : (raiseFault k x n c).lines = c.lines := by rw [raiseFault_eq]
@[simp] theorem raiseFault_sets : (raiseFault k x n c).sets = c.sets := by rw [raiseFault_eq]
@[simp] theorem raiseFault_sst : (raiseFault k x n c).sst = c.sst := by rw [raiseFault_eq]
@[simp] theorem raiseFault_ctb : (raiseFault k x n c).ctb = c.ctb := by rw [raiseFault_eq]
@[simp] theorem raiseFault_rsc : (raiseFault k x n c).rsc = c.rsc := by rw [raiseFault_eq]
@[simp] theorem raiseFault_gen : (raiseFault k x n c).gen = c.gen := by rw [raiseFault_eq]
@[simp] theorem raiseFault_ord : (raiseFault k x n c).ord = c.ord := by rw [raiseFault_eq]
@[simp] theorem raiseFault_mpt : (raiseFault k x n c).mpt = c.mpt := by rw [raiseFault_eq]
@[simp] theorem raiseFault_line (y : LineNo) : (raiseFault k x n c).line y = c.line y := by rw [raiseFault_eq]; rfl
@[simp] theorem raiseFault_slot (i : SlotNo) : (raiseFault k x n c).slot i = c.slot i := by rw [raiseFault_eq]; rfl
@[simp] theorem raiseFault_timing (y : LineNo) : (raiseFault k x n c).timing y = c.timing y := by rw [raiseFault_eq]; rfl

/-- What the fault record captures (11 R165). -/
theorem raiseFault_offered :
    ((raiseFault k x n c).shc.fault, (raiseFault k x n c).shc.further) =
      offered c.shc.fault c.shc.further ⟨k, x, n, c.stamp⟩ := by
  simp [raiseFault, offerFault, setAttention]

theorem raiseFault_queue_prefix : c.jwr.queue <+: (raiseFault k x n c).jwr.queue :=
  emit_queue_prefix _ _ (offerFault k x n c)

/-- A fault raised sets the FAULT flag (11 R165). -/
theorem raiseFault_attention : (raiseFault k x n c).shc.attention &&& attnFault = attnFault := by
  have hset : (offerFault k x n c).shc.attention &&& attnFault = attnFault := by
    ext i hi
    simp only [offerFault, setAttention, BitVec.getElem_and, BitVec.getElem_or]
    cases hfi : attnFault[i] <;> simp
  exact emit_flag hset _ _

end

end Sys2Proof.Machine
end

section
/-! SUPPORT. What binding, giving up and granting on a slot does, and what it leaves alone (04 R59 to R65). -/

namespace Sys2Proof.Machine

/-! ### A command of the call operations -/

/-- Settling keeps what a quiet operation left alone. -/
theorem Quiet.settle {c d : Chip} (h : Quiet c d) (e : Chip) : Quiet c (settle e d) := by
  rw [settle_eq]
  exact ⟨h.shc, h.sets, h.ctb, h.ord, h.last, h.coreReads, h.index, h.seq, h.opened, h.page, h.used, h.written, h.closing, h.lru,
    h.locks, h.own⟩

theorem Quiet.callOnly {s : State} {d : Chip} (h : Quiet s.chip d) : CallOnly s { s with chip := Machine.settle s.chip d } :=
  ⟨h.settle s.chip, fun _ => rfl, rfl⟩

/-! ### The updates of the Slot Store, the queue and the port -/

@[simp] theorem toMru_eq (i : SlotNo) (c : Chip) : toMru i c = c.setLru (c.sst.lru.filter (· ≠ i) ++ [i]) := rfl
@[simp] theorem toLru_eq (i : SlotNo) (c : Chip) : toLru i c = c.setLru (i :: c.sst.lru.filter (· ≠ i)) := rfl
@[simp] theorem addRequest_eq (a : Access) (c : Chip) : addRequest a c = c.modMpt fun m => { m with reqs := m.reqs ++ [a] } := rfl
@[simp] theorem dropRequest_eq (a : Access) (c : Chip) :
    dropRequest a c = c.modMpt fun m => { m with reqs := m.reqs.filter (· ≠ a) } := rfl
@[simp] theorem dropEntry_eq (x : LineNo) (c : Chip) :
    dropEntry x c = c.modRsc fun r => { r with queue := r.queue.filter (·.line ≠ x) } := rfl
@[simp] theorem modEntry_eq (x : LineNo) (f : RingWait → RingWait) (c : Chip) :
    modEntry x f c = c.modRsc fun r => { r with queue := r.queue.map fun e => if e.line = x then f e else e } := rfl

/-- A line without an entry in the Ring Wait Queue has none to change. -/
theorem modEntry_of_none {x : LineNo} {c : Chip} (h : c.entry x = none) (f : RingWait → RingWait) : modEntry x f c = c := by
  have hkeep : ∀ e ∈ c.rsc.queue, (if e.line = x then f e else e) = e := fun e he =>
    if_neg (by simpa using List.find?_eq_none.1 h e he)
  have hq : (c.rsc.queue.map fun e => if e.line = x then f e else e) = c.rsc.queue :=
    (List.map_congr_left hkeep).trans (List.map_id' _)
  simp only [modEntry_eq, Chip.modRsc, hq]

/-- Two updates that agree on the slot as it stands are the same. -/
theorem Chip.modSlot_congr {c : Chip} {i : SlotNo} {f g : Slot → Slot} (h : f (c.slot i) = g (c.slot i)) :
    c.modSlot i f = c.modSlot i g := by
  have h' : f c.sst.slots[i] = g c.sst.slots[i] := h
  simp only [Chip.modSlot, h']

theorem Chip.modSlot_id (c : Chip) (i : SlotNo) : (c.modSlot i fun s => s) = c := by
  simp [Chip.modSlot]

/-! ### Slots bound and given up -/

section
variable {c : Chip} {x : LineNo} {i : SlotNo}

/-- A slot without a copy of the line's record is granted as a miss (04 R59). -/
theorem Slot.Misses.grantKind {k : Slot} (h : k.Misses x) : k.grantKind x = .miss := by
  obtain ⟨hb, hw⟩ := h
  unfold Slot.grantKind
  split
  · exact absurd ‹_› hb
  · exact if_neg fun e => hw ⟨‹_›, e⟩
  · rfl

theorem Slot.grantKind_of_empty {k : Slot} (h : k.status = .empty) (x : LineNo) : k.grantKind x = .miss := by
  simp [Slot.grantKind, h]

/-- A miss binds the slot and requests its fetch (04 R59, R60). -/
theorem bindSlot_of_miss (h : (c.slot i).grantKind x = .miss) :
    bindSlot i x c = addRequest (.fetch i) (setSlotRef x (some i) (toMru i (c.modSlot i fun s => s.bind x .miss))) := by
  simp only [bindSlot, h]

/-- A grant of a slot still being fetched takes no record yet (04 R59). -/
theorem takeGrant_of_fetching (h : (c.slot i).phase = .fetching) :
    takeGrant i x c = (modEntry x (fun e => { e with needsSlot := false, fetching := true }) c, none) := by
  simp [takeGrant, h]

/-- A grant of a miss: the slot bound to the line, its fetch requested and the entry marked (04 R59). -/
theorem takeGrant_bindSlot_of_miss (h : (c.slot i).grantKind x = .miss) :
    takeGrant i x (bindSlot i x c) =
      (modEntry x (fun e => { e with needsSlot := false, fetching := true }) (bindSlot i x c), none) := by
  refine takeGrant_of_fetching ?_
  rw [bindSlot_of_miss h]
  simp [Slot.bind]

/-- Where nobody waits a freed slot stays free (04 R64). -/
theorem grantFreed_of_nil {r : Chip × Option SlotNo} (h : r.1.sst.waitList = []) : grantFreed r = r.1 := by
  unfold grantFreed
  split
  · simp [h, settleFreed]
  · rfl

/-- The line as it stands but for its slot reference and its mirror-pending mark. -/
def Line.unslotted (l : Line) : Line := { l with slot := none, mark := false }

@[simp] theorem Line.slotted_unslotted (l : Line) (i : Option SlotNo) : (l.slotted i).unslotted = l.unslotted := rfl

/-- Lines that agree but for slot reference and mark agree in every item that looks at neither. -/
theorem Line.congr_of_unslotted {α : Type} {l m : Line} (h : l.unslotted = m.unslotted) (p : Line → α)
    (hp : ∀ l : Line, p l.unslotted = p l) : p l = p m := by
  rw [← hp l, h, hp m]

/-- The granting of an EMPTY slot: it takes no record, so that the journal and Shelf Control stay as they were and no line changes
but in its slot reference (04 R59, R64). -/
theorem settleFreed_of_empty (n : Nat) (h : (c.slot i).status = .empty) :
    (settleFreed n i c).jwr = c.jwr ∧ (settleFreed n i c).shc = c.shc ∧
      ∀ y, ((settleFreed n i c).line y).unslotted = (c.line y).unslotted := by
  cases n with
  | zero => exact ⟨rfl, rfl, fun _ => rfl⟩
  | succ n =>
    unfold settleFreed
    split
    · exact ⟨rfl, rfl, fun _ => rfl⟩
    · next e rest _ =>
      split
      · have hk : ((c.setWaitList rest).slot i).grantKind e.line = .miss := Slot.grantKind_of_empty h _
        rw [takeGrant_bindSlot_of_miss hk, bindSlot_of_miss hk]
        refine ⟨by simp, by simp, fun y => ?_⟩
        by_cases hy : y = e.line
        · subst hy
          simp
        · simp [Chip.line_modLine_ne _ _ hy]
      · exact ⟨rfl, rfl, fun _ => rfl⟩

theorem grantFreed_of_empty {r : Chip × Option SlotNo} (h : ∀ i, r.2 = some i → (r.1.slot i).status = .empty) :
    (grantFreed r).jwr = r.1.jwr ∧ (grantFreed r).shc = r.1.shc ∧
      ∀ y, ((grantFreed r).line y).unslotted = (r.1.line y).unslotted := by
  unfold grantFreed
  split
  · exact settleFreed_of_empty _ (h _ ‹_›)
  · exact ⟨rfl, rfl, fun _ => rfl⟩

/-- Digits lost at a release are noted in a held summary, which leaves the write queue alone (04 R63). -/
theorem markLost_eq_modJwr (x : LineNo) (c : Chip) (lost : Bool) :
    ∃ f : Jwr → Jwr, (∀ j, (f j).queue = j.queue) ∧ (if lost = true then markLost x c else c) = c.modJwr f := by
  cases lost
  · exact ⟨id, fun _ => rfl, rfl⟩
  · refine ⟨_, ?_, if_pos rfl⟩
    exact fun _ => rfl

/-- A slot as its line has released it: EMPTY where it is marked for refetch or its record failed, else WARM with the copy
(04 R63). -/
def Slot.released (s : Slot) : Slot :=
  if s.refetch || s.failed then s.emptied else { s with status := .warm, holder := none, ctx := Ctx.fresh }

/-- The LRU stack after slot i is released: at the LRU end as EMPTY, at the MRU end as WARM (04 R57, R63). -/
def Chip.releasedLru (c : Chip) (i : SlotNo) : List SlotNo :=
  if (c.slot i).refetch || (c.slot i).failed then i :: c.sst.lru.filter (· ≠ i) else c.sst.lru.filter (· ≠ i) ++ [i]

/-- The release of a VALID slot as updates; what it notes of lost digits leaves the write queue alone (04 R63). -/
theorem dropValid_eq (x : LineNo) (i : SlotNo) (c : Chip) :
    ∃ f : Jwr → Jwr, (∀ j, (f j).queue = j.queue) ∧
      dropValid x i c = ((setSlotRef x none (c.modJwr f)).modSlot i Slot.released).setLru (c.releasedLru i) := by
  obtain ⟨f, hf, e⟩ := markLost_eq_modJwr x c
    ((!(c.slot i).ctx.buffer.isEmpty || (c.slot i).ctx.mark.isSome) && !c.taking)
  refine ⟨f, hf, ?_⟩
  simp only [dropValid, e]
  by_cases hm : ((c.slot i).refetch || (c.slot i).failed) = true
  · have hk : ∀ d : Chip, d.slot i = c.slot i → d.modSlot i Slot.released = d.modSlot i Slot.emptied := fun d hd =>
      Chip.modSlot_congr (by rw [Slot.released, hd, if_pos hm])
    rw [if_pos hm, hk _ (by simp), Chip.releasedLru, if_pos hm]
    rfl
  · have hk : ∀ d : Chip, d.slot i = c.slot i → d.modSlot i Slot.released = d.modSlot i fun s =>
        { s with status := .warm, holder := none, ctx := Ctx.fresh } := fun d hd =>
      Chip.modSlot_congr (by rw [Slot.released, hd, if_neg hm])
    rw [if_neg hm, hk _ (by simp), Chip.releasedLru, if_neg hm]
    rfl

section
variable (x : LineNo) (i : SlotNo) (c : Chip)

@[simp] theorem dropValid_line_self : (dropValid x i c).line x = (c.line x).slotted none := by
  obtain ⟨f, -, e⟩ := dropValid_eq x i c
  simp [e]

theorem dropValid_line_ne {y : LineNo} (h : y ≠ x) : (dropValid x i c).line y = c.line y := by
  obtain ⟨f, -, e⟩ := dropValid_eq x i c
  simp [e, Chip.line_modLine_ne _ _ h]

@[simp] theorem dropValid_slot_self : (dropValid x i c).slot i = (c.slot i).released := by
  obtain ⟨f, -, e⟩ := dropValid_eq x i c
  simp [e]

theorem dropValid_slot_ne {j : SlotNo} (h : j ≠ i) : (dropValid x i c).slot j = c.slot j := by
  obtain ⟨f, -, e⟩ := dropValid_eq x i c
  simp [e, Chip.slot_modSlot_ne _ _ h]

@[simp] theorem dropValid_lru : (dropValid x i c).sst.lru = c.releasedLru i := by
  obtain ⟨f, -, e⟩ := dropValid_eq x i c
  simp [e]

@[simp] theorem dropValid_waitList : (dropValid x i c).sst.waitList = c.sst.waitList := by
  obtain ⟨f, -, e⟩ := dropValid_eq x i c
  simp [e]

@[simp] theorem dropValid_queue : (dropValid x i c).jwr.queue = c.jwr.queue := by
  obtain ⟨f, hf, e⟩ := dropValid_eq x i c
  simp [e, hf]

/-- A release leaves every block but lines, slots and journal alone. -/
theorem dropValid_parts :
    dropValid x i c =
      { c with lines := (dropValid x i c).lines, sst := (dropValid x i c).sst, jwr := (dropValid x i c).jwr } := by
  obtain ⟨f, -, e⟩ := dropValid_eq x i c
  rw [e]
  rfl

@[simp] theorem dropValid_sets : (dropValid x i c).sets = c.sets := by rw [dropValid_parts]
@[simp] theorem dropValid_ctb : (dropValid x i c).ctb = c.ctb := by rw [dropValid_parts]
@[simp] theorem dropValid_rsc : (dropValid x i c).rsc = c.rsc := by rw [dropValid_parts]
@[simp] theorem dropValid_gen : (dropValid x i c).gen = c.gen := by rw [dropValid_parts]
@[simp] theorem dropValid_ord : (dropValid x i c).ord = c.ord := by rw [dropValid_parts]
@[simp] theorem dropValid_mpt : (dropValid x i c).mpt = c.mpt := by rw [dropValid_parts]
@[simp] theorem dropValid_shc : (dropValid x i c).shc = c.shc := by rw [dropValid_parts]

end

theorem dropSlot_of_valid (hs : (c.line x).slot = some i) (hp : (c.slot i).phase = .valid) :
    dropSlot x c = (dropValid x i c, some i) := by
  simp only [dropSlot, hs, hp]

end

end Sys2Proof.Machine
end

section
/-! SUPPORT. What the LCT does with a record that a line holds in a slot (01 R2, 03 R36, R37, 07 R112, R113, 09 R139), and a seizure
with its slot request (03 R34, 04 R58, R59, R65). -/

namespace Sys2Proof.Machine

section
variable {c : Chip} {x : LineNo} {i : SlotNo}

/-! ### The record taken -/

theorem dialBus_of_slot (hs : (c.line x).slot = some i) :
    c.dialBus x = if flag (c.slot i).copy[0] 1 then .specialDial else .dial := by
  simp [Chip.dialBus, Chip.record, hs, recSpecialDial]

theorem takeRecord_of_seizeWait (hs : (c.line x).slot = some i) (hst : (c.line x).st = .seizeWait) :
    takeRecord x c =
      if recordValid c.planPresent (c.slot i).copy then (applyDialTone x c, none) else refuseSeizure x c := by
  simp [takeRecord, Chip.record, hs, hst]

/-- The line as it enters DIAL_TONE with a bus and a duration in ms (03 R37). -/
def Line.dialToned (l : Line) (clearAt : Nat) (bus : Tone) (ms : Nat) : Line :=
  { (l.enter clearAt .dialTone).toned bus with dialTone := some ⟨0, ms⟩ }

theorem applyDialTone_eq (x : LineNo) (c : Chip) :
    applyDialTone x c = emit (some x) (.toneReady (c.line x).seizure (c.dialBus x))
      (c.modLine x fun l => l.dialToned (c.timing x).clearAt (c.dialBus x) (1000 * (c.timing x).dialTone)) := by
  simp [applyDialTone, giveDialTone, Line.dialToned, Timer.start]

theorem markFailed_of_slot (hs : (c.line x).slot = some i) :
    markFailed x c = c.modSlot i fun s => { s with failed := true } := by
  simp only [markFailed, hs]

/-- A fault raised for a record that was found invalid in slot i, which is marked so (03 R36). -/
def Chip.recordFault (c : Chip) (x : LineNo) (i : SlotNo) : Chip :=
  raiseFault .recordInvalid (some x) 0 (c.modSlot i fun s => { s with failed := true })

section
variable (c : Chip) (x : LineNo) (i : SlotNo)

@[simp] theorem Chip.recordFault_line (y : LineNo) : (c.recordFault x i).line y = c.line y := by simp [Chip.recordFault]
@[simp] theorem Chip.recordFault_timing (y : LineNo) : (c.recordFault x i).timing y = c.timing y := by
  rw [Chip.recordFault, raiseFault_timing]
  rfl
@[simp] theorem Chip.recordFault_slot : (c.recordFault x i).slot i = { c.slot i with failed := true } := by
  simp [Chip.recordFault]
theorem Chip.recordFault_slot_ne {j : SlotNo} (h : j ≠ i) : (c.recordFault x i).slot j = c.slot j := by
  simp [Chip.recordFault, Chip.slot_modSlot_ne _ _ h]
@[simp] theorem Chip.recordFault_lru : (c.recordFault x i).sst.lru = c.sst.lru := by simp [Chip.recordFault]
@[simp] theorem Chip.recordFault_waitList : (c.recordFault x i).sst.waitList = c.sst.waitList := by simp [Chip.recordFault]
@[simp] theorem Chip.recordFault_releasedLru :
    (c.recordFault x i).releasedLru i = i :: c.sst.lru.filter (· ≠ i) := by
  simp [Chip.releasedLru]

theorem Chip.recordFault_queue_prefix : c.jwr.queue <+: (c.recordFault x i).jwr.queue :=
  raiseFault_queue_prefix _ _ _ (c.modSlot i _)

theorem Chip.recordFault_attention : (c.recordFault x i).shc.attention &&& attnFault = attnFault :=
  raiseFault_attention _ _ _ _

theorem Chip.recordFault_offered :
    ((c.recordFault x i).shc.fault, (c.recordFault x i).shc.further) =
      offered c.shc.fault c.shc.further ⟨.recordInvalid, some x, 0, c.stamp⟩ :=
  raiseFault_offered _ _ _ (c.modSlot i _)

end

/-- An invalid record at seizure (03 R36). -/
theorem refuseSeizure_eq (hs : (c.line x).slot = some i) (hp : (c.slot i).phase = .valid) :
    refuseSeizure x c = (enterParked x (some .recordInvalid) (dropValid x i (c.recordFault x i)), some i) := by
  have hd : dropSlot x (c.recordFault x i) = (dropValid x i (c.recordFault x i), some i) :=
    dropSlot_of_valid (by simp [Chip.recordFault, hs]) (by simp [Chip.recordFault, hp])
  simp only [refuseSeizure, markFailed_of_slot hs]
  rw [← Chip.recordFault, hd]

/-! ### A slot bound -/

/-- A grant with a valid copy has the record taken at once (04 R59). -/
theorem takeGrant_of_valid (hp : (c.slot i).phase = .valid) :
    takeGrant i x c = takeRecord x (modEntry x (fun e => { e with needsSlot := false, fetching := false }) c) := by
  have h : (SlotPhase.valid == .fetching) = false := rfl
  simp only [takeGrant, hp, h, Bool.false_eq_true, if_false]

@[simp] theorem bindSlot_jwr (i : SlotNo) (x : LineNo) (c : Chip) : (bindSlot i x c).jwr = c.jwr := by
  unfold bindSlot
  simp only []
  split <;> simp

theorem bindSlot_line_self (i : SlotNo) (x : LineNo) (c : Chip) :
    (bindSlot i x c).line x = (c.line x).slotted (some i) := by
  unfold bindSlot
  simp only []
  split <;> simp

/-! ### A line seized -/

/-- Line x has been seized in `c`: its SEIZE is in the write queue, whose head `q` is, and whatever came of its slot request, the line
waits, has dial tone or is parked (03 R34 to R37). -/
structure Chip.Seized (c : Chip) (x : LineNo) (q : List Rec) : Prop where
  st : (c.line x).st ∈ [LineSt.seizeWait, .dialTone, .parked]
  guard : (c.line x).guard = none
  seizure : (c.line x).seizure = 0
  queue : q <+: c.jwr.queue

theorem Chip.Seized.congr {d : Chip} {q : List Rec} (h : c.Seized x q) (hl : (d.line x).unslotted = (c.line x).unslotted)
    (hq : c.jwr.queue <+: d.jwr.queue) : d.Seized x q where
  st := by
    have e : (d.line x).st = (c.line x).st := Line.congr_of_unslotted hl Line.st fun _ => rfl
    rw [e]
    exact h.st
  guard := (Line.congr_of_unslotted hl Line.guard fun _ => rfl).trans h.guard
  seizure := (Line.congr_of_unslotted hl Line.seizure fun _ => rfl).trans h.seizure
  queue := h.queue.trans hq

theorem Chip.Seized.applyDialTone {q : List Rec} (h : c.Seized x q) : (applyDialTone x c).Seized x q := by
  rw [applyDialTone_eq]
  exact ⟨by simp [Line.dialToned, Line.toned], by simp [Line.dialToned, Line.toned],
    by simpa [Line.dialToned, Line.toned] using h.seizure, h.queue.trans (emit_queue_prefix _ _ (c.modLine x _))⟩

theorem Chip.Seized.refuseSeizure {q : List Rec} (h : c.Seized x q) (hs : (c.line x).slot = some i)
    (hp : (c.slot i).phase = .valid) : (grantFreed (refuseSeizure x c)).Seized x q := by
  have e := refuseSeizure_eq hs hp
  have hr : (Machine.refuseSeizure x c).1.Seized x q := by
    rw [e]
    refine ⟨?_, ?_, ?_, h.queue.trans ?_⟩
    · simp [Line.parked, Line.toned]
    · simp [Line.parked, Line.toned]
    · simpa [Line.parked, Line.toned, Line.slotted] using h.seizure
    · rw [enterParked_some]
      refine List.IsPrefix.trans ?_ (emit_queue_prefix _ _ _)
      simpa using c.recordFault_queue_prefix x i
  obtain ⟨hj, -, hl⟩ := grantFreed_of_empty (r := Machine.refuseSeizure x c) (by
    rw [e]
    rintro j ⟨⟩
    simp [Slot.released, Slot.emptied])
  exact hr.congr (hl x) (by rw [hj])

/-- Whatever the record of a line in SEIZE_WAIT, the line stays seized. -/
theorem Chip.Seized.takeRecord {q : List Rec} (h : c.Seized x q) (hst : (c.line x).st = .seizeWait)
    (hs : (c.line x).slot = some i) (hp : (c.slot i).phase = .valid) : (grantFreed (takeRecord x c)).Seized x q := by
  rw [takeRecord_of_seizeWait hs hst]
  split
  · exact h.applyDialTone
  · exact h.refuseSeizure hs hp

/-- Whatever slot is granted to a line in SEIZE_WAIT, and with whatever copy, the line stays seized. -/
theorem Chip.Seized.granted {q : List Rec} (h : c.Seized x q) (hst : (c.line x).st = .seizeWait) :
    (grantFreed (takeGrant i x (bindSlot i x c))).Seized x q := by
  have hl := bindSlot_line_self i x c
  have hb : (bindSlot i x c).Seized x q := h.congr (by rw [hl, Line.slotted_unslotted]) (by simp)
  cases hp : ((bindSlot i x c).slot i).phase with
  | fetching =>
    rw [takeGrant_of_fetching hp]
    exact hb.congr rfl (List.prefix_refl _)
  | valid =>
    rw [takeGrant_of_valid hp]
    refine Chip.Seized.takeRecord (hb.congr rfl (List.prefix_refl _)) ?_ ?_ hp
    · rw [modEntry_eq, Chip.modRsc_line, hl]
      exact hst
    · rw [modEntry_eq, Chip.modRsc_line, hl]
      rfl

/-! ### The slot request -/

/-- The choice of a slot looks at the Slot Store alone (04 R58). -/
theorem chooseSlot_congr {d : Chip} (h : d.sst = c.sst) (x : LineNo) : d.chooseSlot x = c.chooseSlot x := by
  have hk : ∀ i, d.slot i = c.slot i := fun i => by simp only [Chip.slot, h]
  simp only [Chip.chooseSlot, hk, h]

/-- A request while no slot is to be had joins the Slot Wait List (04 R65). -/
theorem requestSlot_waits (hrun : c.shc.run ≠ .starting) (hc : c.chooseSlot x = none) (p : Purpose) (k : LineClass) :
    requestSlot x p k c = (c.modLine x fun l => { l with askClass := k }).setWaitList (waitTail c.sst.waitList ⟨x, p, k⟩) := by
  have hc' : (c.modLine x fun l => { l with askClass := k }).chooseSlot x = none := (chooseSlot_congr rfl x).trans hc
  simp [requestSlot, hrun, hc']

/-- A request that finds a slot is granted it (04 R58, R59). -/
theorem requestSlot_grants (hrun : c.shc.run ≠ .starting) (hc : c.chooseSlot x = some i) (p : Purpose) (k : LineClass) :
    requestSlot x p k c =
      grantFreed (takeGrant i x (bindSlot i x (c.modLine x fun l => { l with askClass := k }))) := by
  have hc' : (c.modLine x fun l => { l with askClass := k }).chooseSlot x = some i := (chooseSlot_congr rfl x).trans hc
  simp only [requestSlot, Chip.modLine_shc, hrun, if_false, hc']

/-- A request of a line without an entry in the Ring Wait Queue that finds a slot without a copy of its record begins a fetch
(04 R59, R60). -/
theorem requestSlot_fetches (hrun : c.shc.run ≠ .starting) (hc : c.chooseSlot x = some i) (hm : (c.slot i).Misses x)
    (he : c.entry x = none) (p : Purpose) (k : LineClass) :
    requestSlot x p k c = addRequest (.fetch i) (setSlotRef x (some i) (toMru i
      ((c.modLine x fun l => { l with askClass := k }).modSlot i fun s => s.bind x .miss))) := by
  have hk : ((c.modLine x fun l => { l with askClass := k }).slot i).grantKind x = .miss := hm.grantKind
  rw [requestSlot_grants hrun hc, takeGrant_bindSlot_of_miss hk, bindSlot_of_miss hk, modEntry_of_none]
  · rfl
  · exact he

/-! ### Seizure -/

/-- The line as a seizure leaves it in SEIZE_WAIT (03 R34). -/
def Line.seized (l : Line) (clearAt : Nat) : Line := { (l.enter clearAt .seizeWait).toned .none with seizure := 0 }

/-- The chip with SEIZE queued and line x in SEIZE_WAIT, its slot request still to be made (03 R34). -/
def seizing (x : LineNo) (c : Chip) : Chip :=
  (c.modJwr fun j => { j with queue := j.queue ++ [⟨some x, c.shc.ms, .seize⟩] }).modLine x fun l =>
    l.seized (c.timing x).clearAt

theorem seize_of_queueing (h : c.Queueing x) :
    seize x c = requestSlot x .originate (c.line x).cls (seizing x c) := by
  have hrun : c.shc.run ≠ .starting := by simp [h.1]
  have ht : ∀ f, (c.modJwr f).timing x = c.timing x := fun _ => rfl
  simp only [seize, hrun, if_false, emit_of_queueing h, setSt_eq, setTone_eq, Chip.modLine_modLine, seizing, Line.seized, ht]
  simp [Line.toned]

end

end Sys2Proof.Machine
end

section
/-! SUPPORT. The expiries of the guard, park and howler timers (01 R10, 03 R52). -/

namespace Sys2Proof.Machine

section
variable {s : State} {x : LineNo}

theorem exec_guardExpiry (hst : (s.chip.line x).st = .releaseGuard) (hd : timerDue (s.chip.line x).guard = true) :
    exec (.guardExpiry x) s = finish s (guardEnds x s.chip) := if_pos ⟨hst, hd⟩

theorem exec_parkTimerExpiry (hst : (s.chip.line x).st = .parked) (hd : timerDue (s.chip.line x).park = true) :
    exec (.parkTimerExpiry x) s = finish s (parkExpired x s.chip) := if_pos ⟨hst, hd⟩

theorem exec_howlerTimerExpiry (hst : (s.chip.line x).st = .parked) (hd : timerDue (s.chip.line x).howler = true) :
    exec (.howlerTimerExpiry x) s = finish s (howlerExpired x s.chip) := if_pos ⟨hst, hd⟩

/-- A command that goes on with one line changed, said of the line. -/
theorem next_modLine {i : Instr} {d : Chip} {f : Line → Line} (h : exec i s = finish s d) (hd : d = s.chip.modLine x f) :
    ∃ t, exec i s = .next t ∧ t.chip.line x = f (s.chip.line x) ∧ OthersKept x s t ∧ OnlyChanges [.lines] s t := by
  subst hd
  exact ⟨_, h, by simp, othersKept_modLine s x f, onlyChanges_modLine s x f⟩

/-! ### The guard timer -/

/-- A guard that ends on a line not equipped (01 R10, R6). -/
theorem guardEnds_of_not_equipped {c : Chip} (h : (c.line x).equipped = false) :
    guardEnds x c = c.modLine x fun l => l.unequip (c.timing x).clearAt := by
  simp [guardEnds, h]

/-- A guard that ends on an equipped on-hook line (01 R10, R8). -/
theorem guardEnds_of_on {c : Chip} (h : (c.line x).equipped = true) (hk : (c.line x).hook = .on) :
    guardEnds x c = c.modLine x fun l => (l.enter (c.timing x).clearAt .idle).toned .none := by
  simp [guardEnds, h, hk, enterIdle_of_equipped h]

/-- A guard that ends on an equipped off-hook line whose records are queued: the line is seized (01 R10, 03 R34). -/
theorem guardEnds_of_off {c : Chip} (h : (c.line x).equipped = true) (hk : (c.line x).hook = .off) (hq : c.Queueing x) :
    guardEnds x c = requestSlot x .originate (c.line x).cls (seizing x c) := by
  simp [guardEnds, h, hk, seize_of_queueing hq]

theorem seizing_line (c : Chip) : (seizing x c).line x = (c.line x).seized (c.timing x).clearAt := by simp [seizing]

@[simp] theorem seizing_sst (c : Chip) : (seizing x c).sst = c.sst := rfl

theorem seizing_run {c : Chip} (h : c.shc.run = .running) : (seizing x c).shc.run ≠ .starting := by
  simp [seizing, h]

theorem seizing_seized (c : Chip) : (seizing x c).Seized x (c.jwr.queue ++ [⟨some x, c.shc.ms, .seize⟩]) where
  st := by simp [seizing_line, Line.seized, Line.toned]
  guard := by simp [seizing_line, Line.seized, Line.toned]
  seizure := by simp [seizing_line, Line.seized]
  queue := by simp [seizing]

/-- A seizure whose records are queued, whatever came of its slot request. -/
theorem requestSlot_seized {c : Chip} (hrun : c.shc.run = .running) :
    (requestSlot x .originate (c.line x).cls (seizing x c)).Seized x
      (c.jwr.queue ++ [⟨some x, c.shc.ms, .seize⟩]) := by
  have hr := seizing_run (x := x) hrun
  obtain ⟨hst, hguard, hseizure, hqueue⟩ := seizing_seized (x := x) c
  have ha : ((seizing x c).modLine x fun l => { l with askClass := (c.line x).cls }).Seized x
      (c.jwr.queue ++ [⟨some x, c.shc.ms, .seize⟩]) :=
    ⟨by simpa using hst, by simpa using hguard, by simpa using hseizure, by simpa using hqueue⟩
  cases hc : (seizing x c).chooseSlot x with
  | none =>
    rw [requestSlot_waits hr hc]
    exact ha.congr rfl (List.prefix_refl _)
  | some i =>
    rw [requestSlot_grants hr hc]
    exact ha.granted (by simp [seizing_line, Line.seized, Line.toned])

/-- A seizure for which no slot is to be had (04 R65). -/
theorem requestSlot_seizing_waits {c : Chip} (hrun : c.shc.run = .running) (hc : c.chooseSlot x = none) (k : LineClass) :
    requestSlot x .originate k (seizing x c) =
      ((seizing x c).modLine x fun l => { l with askClass := k }).setWaitList
        (waitTail (seizing x c).sst.waitList ⟨x, .originate, k⟩) :=
  requestSlot_waits (seizing_run hrun) ((chooseSlot_congr (seizing_sst c) x).trans hc) _ k

/-- A seizure that finds a slot without a copy of the line's record (04 R59, R60). -/
theorem requestSlot_seizing_fetches {c : Chip} {i : SlotNo} (hrun : c.shc.run = .running) (hn : c.entry x = none)
    (hc : c.chooseSlot x = some i) (hm : (c.slot i).Misses x) (k : LineClass) :
    requestSlot x .originate k (seizing x c) = addRequest (.fetch i) (setSlotRef x (some i) (toMru i
      (((seizing x c).modLine x fun l => { l with askClass := k }).modSlot i fun s => s.bind x .miss))) :=
  requestSlot_fetches (seizing_run hrun) ((chooseSlot_congr (seizing_sst c) x).trans hc) hm hn _ k

/-! ### The park and howler timers -/

theorem parkExpired_eq (c : Chip) :
    parkExpired x c = c.modLine x fun l =>
      { l.toned .howler with park := none, howler := some ⟨0, 1000 * (c.timing x).howler⟩ } := by
  simp [parkExpired, Timer.start]

theorem howlerExpired_eq (c : Chip) :
    howlerExpired x c = c.modLine x fun l => { l.toned .none with howler := none } := by
  simp [howlerExpired]

end

end Sys2Proof.Machine

section
open Sys2Proof Sys2Proof.Machine

/-- Settles O26: an expiry is one entry of its line, but for a seizure, of which the slot request decides the rest. -/
theorem guardParkAndHowlerTimersExpire : Obligations.GuardParkAndHowlerTimersExpire := by
  unfold Obligations.GuardParkAndHowlerTimersExpire
  refine ⟨fun s x hst hdue => ⟨fun he => ?_, fun he hk => ?_, fun he hk hq => ⟨?_, fun hc => ?_, fun k hn hc hm => ?_⟩⟩,
    fun s x hst => ⟨fun hdue => ?_, fun hdue => ?_⟩⟩
  · obtain ⟨t, ht, hl, ho, hf⟩ := next_modLine (exec_guardExpiry hst hdue) (guardEnds_of_not_equipped he)
    refine ⟨t, ht, ?_, ?_, ?_, ?_, ?_, ?_, ho, hf⟩ <;> simp [hl, Line.unequip, Line.toned, hst]
  · obtain ⟨t, ht, hl, ho, hf⟩ := next_modLine (exec_guardExpiry hst hdue) (guardEnds_of_on he hk)
    refine ⟨t, ht, ?_, ?_, ?_, ?_, ?_, ho, hf⟩ <;> simp [hl, Line.toned, hst]
  · have hexec := exec_guardExpiry hst hdue
    rw [guardEnds_of_off he hk hq] at hexec
    have hz := requestSlot_seized (x := x) hq.1
    obtain ⟨more, hmore⟩ := hz.queue
    have hquiet := (Quiet.refl s.chip).seize x
    rw [seize_of_queueing hq] at hquiet
    refine ⟨_, hexec, by simpa using hz.guard, by simpa using hz.seizure, hquiet.callOnly, by simpa using hz.st, more, ?_⟩
    simpa using hmore.symm
  · have hexec := exec_guardExpiry hst hdue
    rw [guardEnds_of_off he hk hq, requestSlot_seizing_waits hq.1 hc] at hexec
    refine ⟨_, hexec, ⟨?_, ?_, ?_, ?_, by simp [seizing], fun y hy => ?_⟩, by simp [seizing, Chip.setWaitList], ?_⟩
    · simp [seizing_line, Line.seized, Line.toned]
    · simp [seizing_line, Line.seized]
    · simp [seizing_line, Line.seized, Line.toned]
    · simp [seizing_line, Line.seized, Line.toned]
    · simp [seizing, Chip.line_modLine_ne _ _ hy]
    · apply OnlyChanges.of_chip (m := s.ram) <;> simp [seizing]
  · have hexec := exec_guardExpiry hst hdue
    rw [guardEnds_of_off he hk hq, requestSlot_seizing_fetches hq.1 hn hc hm] at hexec
    refine ⟨_, hexec, ⟨?_, ?_, ?_, ?_, by simp [seizing], fun y hy => ?_⟩, ?_, ?_, ?_, ?_, fun j hj => ?_, by simp [seizing], ?_⟩
    · simp [seizing_line, Line.seized, Line.toned, Line.slotted]
    · simp [seizing_line, Line.seized, Line.slotted]
    · simp [seizing_line, Line.seized, Line.toned, Line.slotted]
    · simp [seizing_line, Line.seized, Line.toned, Line.slotted]
    · simp [seizing, Chip.line_modLine_ne _ _ hy]
    · simp [Line.slotted]
    · simp [Slot.bind]
    · simp [Slot.bind]
    · simp [Slot.bind]
    · simp [seizing, Chip.slot_modSlot_ne _ _ hj]
    · apply OnlyChanges.of_chip (m := s.ram) <;> simp [seizing]
  · obtain ⟨t, ht, hl, ho, hf⟩ := next_modLine (exec_parkTimerExpiry hst hdue) (parkExpired_eq s.chip)
    refine ⟨t, ht, by rw [hl]; rfl, fun hne => ?_, ho, hf⟩
    rw [hl]
    exact Line.toned_mark hne
  · obtain ⟨t, ht, hl, ho, hf⟩ := next_modLine (exec_howlerTimerExpiry hst hdue) (howlerExpired_eq s.chip)
    refine ⟨t, ht, by rw [hl]; rfl, fun hne => ?_, ho, hf⟩
    rw [hl]
    exact Line.toned_mark hne

end
end

section
/-! SUPPORT. A core-field read (01 R1, R3, R6, R7, 11 R167). -/

namespace Sys2Proof.Machine

/-! ### The line -/

/-- The line of which word 0 of the record reads `w` (01 R3, R6, R7), in STARTING or not, at a warm restart or not (01 R16, 11 R167). -/
def Line.coreTaken (l : Line) (w : Word) (clearAt : Nat) (starting warm : Bool) : Line :=
  match l.st, recEquipped w with
  | .idle, false =>
    if starting then l.takeCore w else (l.takeCore w).unequip clearAt
  | .unequipped, false => { l.takeCore w with sampling := .off }
  | .unequipped, true =>
    if l.sampling = .off ∧ (!starting || warm) then (l.takeCore w).beginFirst else l.takeCore w
  | _, _ => l.takeCore w

section
variable (l : Line) (w : Word) (n : Nat) (starting warm : Bool)

/-- The four core fields are those of the word, whatever else becomes of the line (01 R1). -/
theorem Line.coreTaken_fields :
    (l.coreTaken w n starting warm).equipped = recEquipped w ∧ (l.coreTaken w n starting warm).cls = recClass w ∧
      (l.coreTaken w n starting warm).sig = recSig w ∧ (l.coreTaken w n starting warm).tset = recTset w := by
  unfold Line.coreTaken
  split
  · split <;> exact ⟨rfl, rfl, rfl, rfl⟩
  · exact ⟨rfl, rfl, rfl, rfl⟩
  · split <;> exact ⟨rfl, rfl, rfl, rfl⟩
  · exact ⟨rfl, rfl, rfl, rfl⟩

/-- State, timers and threshold of two lines agree. -/
def Line.SameState (l m : Line) : Prop :=
  m.st = l.st ∧ m.dialTone = l.dialTone ∧ m.dialling = l.dialling ∧ m.guard = l.guard ∧ m.park = l.park ∧
    m.howler = l.howler ∧ m.threshold = l.threshold

/-- The line keeps state, timers and threshold unless it is IDLE, found not equipped, outside STARTING (01 R3, R6). -/
theorem Line.coreTaken_sameState (h : starting = true ∨ l.st ≠ .idle ∨ recEquipped w = true) :
    l.SameState (l.coreTaken w n starting warm) := by
  have same : l.SameState (l.takeCore w) := ⟨rfl, rfl, rfl, rfl, rfl, rfl, rfl⟩
  unfold Line.coreTaken
  split
  · split
    · exact same
    · simp_all
  · exact same
  · split <;> exact same
  · exact same

/-- Whether the line is sampled (01 R7): an UNEQUIPPED line begins its first reading when found equipped, outside STARTING or at a warm
restart, and is not sampled when found not equipped. -/
theorem Line.coreTaken_sampling (h : starting = true ∨ l.st ≠ .idle ∨ recEquipped w = true) :
    (l.coreTaken w n starting warm).sampling =
      if l.st = .unequipped then
        (if recEquipped w = true then (if l.sampling = .off ∧ (!starting || warm) = true then .first else l.sampling) else .off)
      else l.sampling := by
  unfold Line.coreTaken
  split
  · split
    · simp_all [Line.takeCore]
    · simp_all
  · simp_all
  · split <;> simp_all [Line.takeCore, Line.beginFirst]
  · next hi hf ht =>
    have hu : l.st ≠ .unequipped := fun e => by
      cases hw : recEquipped w
      · exact hf e hw
      · exact ht e hw
    simp [hu, Line.takeCore]

/-- An IDLE line found not equipped enters UNEQUIPPED (01 R6). -/
theorem Line.coreTaken_of_idle (hst : l.st = .idle) (hw : recEquipped w = false) :
    (l.coreTaken w n false warm).st = .unequipped ∧ (l.coreTaken w n false warm).sampling = .off := by
  simp [Line.coreTaken, hst, hw, Line.unequip, Line.toned]

end

theorem recTset_val (w : Word) : (recTset w).val = field w 10 2 :=
  Nat.mod_eq_of_lt (w.extractLsb' 10 2).isLt

/-! ### The chip -/

/-- A core-field read changes its line and nothing else. -/
theorem coreEffect_eq (x : LineNo) (w : Word) (c : Chip) :
    ∃ n, coreEffect x w c = c.modLine x fun l => l.coreTaken w n (c.shc.run == .starting) c.shc.warm := by
  refine ⟨((c.modLine x (·.takeCore w)).timing x).clearAt, ?_⟩
  have he : ((c.modLine x (·.takeCore w)).line x).equipped = recEquipped w := by
    rw [Chip.line_modLine_self]
    rfl
  have hst : ((c.modLine x (·.takeCore w)).line x).st = (c.line x).st := by
    rw [Chip.line_modLine_self]
    rfl
  unfold coreEffect
  simp only [he, hst]
  split
  · next h1 h2 =>
    by_cases hs : c.shc.run = .starting
    · simp only [Chip.modLine_shc, hs, beq_self_eq_true, if_true]
      exact Chip.modLine_congr (by simp [Line.coreTaken, h1, h2])
    · have hb : (c.shc.run == RunSt.starting) = false := by simpa using hs
      simp only [Chip.modLine_shc, hb, Bool.false_eq_true, if_false, enterUnequipped_eq, Chip.modLine_modLine]
      exact Chip.modLine_congr (by simp [Line.coreTaken, h1, h2])
  · next h1 h2 =>
    rw [Chip.modLine_modLine]
    exact Chip.modLine_congr (by simp [Line.coreTaken, h1, h2])
  · next h1 h2 =>
    have hsam : ((c.modLine x (·.takeCore w)).line x).sampling = (c.line x).sampling := by
      rw [Chip.line_modLine_self]
      rfl
    simp only [hsam, Chip.modLine_shc, Chip.modLine_modLine]
    split
    · exact Chip.modLine_congr (by simp_all [Line.coreTaken])
    · exact Chip.modLine_congr (by simp_all [Line.coreTaken])
  · next h1 h2 h3 =>
    exact Chip.modLine_congr (by simp_all [Line.coreTaken])

section
variable (rest : List LineNo) (c : Chip)

/-- The lines, the timing sets, the slots and the ringing have no part in what follows a core-field read. -/
theorem nextCoreRead_eq :
    nextCoreRead rest c =
      { c with
        ord := (nextCoreRead rest c).ord
        jwr := (nextCoreRead rest c).jwr
        mpt := (nextCoreRead rest c).mpt
        shc := (nextCoreRead rest c).shc } := by
  unfold nextCoreRead coreReadsDone
  simp only []
  split
  · split <;> rfl
  · split <;> rfl

@[simp] theorem nextCoreRead_line (y : LineNo) : (nextCoreRead rest c).line y = c.line y := by rw [nextCoreRead_eq]; rfl
@[simp] theorem nextCoreRead_lines : (nextCoreRead rest c).lines = c.lines := by rw [nextCoreRead_eq]
@[simp] theorem nextCoreRead_sets : (nextCoreRead rest c).sets = c.sets := by rw [nextCoreRead_eq]
@[simp] theorem nextCoreRead_sst : (nextCoreRead rest c).sst = c.sst := by rw [nextCoreRead_eq]
@[simp] theorem nextCoreRead_ctb : (nextCoreRead rest c).ctb = c.ctb := by rw [nextCoreRead_eq]
@[simp] theorem nextCoreRead_rsc : (nextCoreRead rest c).rsc = c.rsc := by rw [nextCoreRead_eq]
@[simp] theorem nextCoreRead_gen : (nextCoreRead rest c).gen = c.gen := by rw [nextCoreRead_eq]

@[simp] theorem nextCoreRead_coreReads : (nextCoreRead rest c).mpt.coreReads = rest := by
  unfold nextCoreRead coreReadsDone setResult
  simp only []
  split
  · split <;> rfl
  · split <;> rfl

end

section
variable {rest : List LineNo} {c : Chip}

/-- The last core-field read while RUNNING gives INVALIDATE its result (04 R70, R71). -/
theorem nextCoreRead_last (hrun : c.shc.run = .running) (hr : rest = []) :
    (nextCoreRead rest c).ord = { c.ord with work := none, result := some .ok } ∧ (nextCoreRead rest c).jwr = c.jwr ∧
      (nextCoreRead rest c).shc = c.shc := by
  simp [nextCoreRead, coreReadsDone, setResult, hrun, hr]

/-- Before the last the next core-field read is requested, behind the requests made (log 9). -/
theorem nextCoreRead_more (hrun : c.shc.run = .running) (hr : rest ≠ []) :
    (nextCoreRead rest c).ord = c.ord ∧ (nextCoreRead rest c).jwr = c.jwr ∧ (nextCoreRead rest c).shc = c.shc ∧
      (nextCoreRead rest c).mpt.reqs = c.mpt.reqs.filter (· ≠ .core) ++ [.core] := by
  simp [nextCoreRead, hrun, hr]

/-- After the last core-field read of a start procedure the journal is to be opened (11 R167 step 4). -/
theorem nextCoreRead_start_last (hrun : c.shc.run = .starting) (hr : rest = []) :
    (nextCoreRead rest c).ord = c.ord ∧ (nextCoreRead rest c).jwr = { c.jwr with page := .opening } ∧
      (nextCoreRead rest c).shc = { c.shc with start := .page } := by
  simp [nextCoreRead, coreReadsDone, hrun, hr]

theorem nextCoreRead_start_more (hrun : c.shc.run = .starting) (hr : rest ≠ []) :
    (nextCoreRead rest c).ord = c.ord ∧ (nextCoreRead rest c).jwr = c.jwr ∧ (nextCoreRead rest c).shc = c.shc := by
  simp [nextCoreRead, hrun, hr]

end

/-! ### The command -/

/-- The core-field read of line x, but for what follows it: the access completed and the line's core fields taken. -/
def State.coreRead (s : State) (x : LineNo) : Chip := coreEffect x (readWord s.ram (s.chip.recordAddr x)) (release s.chip)

/-- A core-field read that is served goes on with its line changed and its successor requested. -/
theorem exec_coreFieldReadComplete {s : State} {x : LineNo} {rest : List LineNo} (hr : s.chip.mpt.coreReads = x :: rest)
    (hs : s.chip.serves .core = true) (ha : s.chip.recordAddr x + 8 ≤ Config.ramWords) :
    exec .coreFieldReadComplete s = finish s (nextCoreRead rest (s.coreRead x)) := by
  simp [exec, execCoreFieldReadComplete, hr, hs, inRam_of_le ha, State.coreRead]

theorem State.coreRead_eq (s : State) (x : LineNo) :
    ∃ n, s.coreRead x = (release s.chip).modLine x fun l =>
      l.coreTaken (readWord s.ram (s.chip.recordAddr x)) n (s.chip.shc.run == .starting) s.chip.shc.warm :=
  coreEffect_eq x _ (release s.chip)

section
variable (s : State) (x : LineNo)

theorem State.coreRead_line :
    ∃ n, (s.coreRead x).line x =
      (s.chip.line x).coreTaken (readWord s.ram (s.chip.recordAddr x)) n (s.chip.shc.run == .starting) s.chip.shc.warm := by
  obtain ⟨n, h⟩ := s.coreRead_eq x
  exact ⟨n, by rw [h, Chip.line_modLine_self]; rfl⟩

theorem State.coreRead_line_ne {y : LineNo} (hy : y ≠ x) : (s.coreRead x).line y = s.chip.line y := by
  obtain ⟨n, h⟩ := s.coreRead_eq x
  rw [h, Chip.line_modLine_ne _ _ hy]
  rfl

/-- Nothing but the line and the end of the access is of a core-field read. -/
theorem State.coreRead_parts :
    s.coreRead x = { s.chip with lines := (s.coreRead x).lines, mpt := { s.chip.mpt with busy := none } } := by
  obtain ⟨n, h⟩ := s.coreRead_eq x
  rw [h]
  rfl

@[simp] theorem State.coreRead_sets : (s.coreRead x).sets = s.chip.sets := by rw [coreRead_parts]
@[simp] theorem State.coreRead_sst : (s.coreRead x).sst = s.chip.sst := by rw [coreRead_parts]
@[simp] theorem State.coreRead_ctb : (s.coreRead x).ctb = s.chip.ctb := by rw [coreRead_parts]
@[simp] theorem State.coreRead_rsc : (s.coreRead x).rsc = s.chip.rsc := by rw [coreRead_parts]
@[simp] theorem State.coreRead_gen : (s.coreRead x).gen = s.chip.gen := by rw [coreRead_parts]
@[simp] theorem State.coreRead_ord : (s.coreRead x).ord = s.chip.ord := by rw [coreRead_parts]
@[simp] theorem State.coreRead_jwr : (s.coreRead x).jwr = s.chip.jwr := by rw [coreRead_parts]
@[simp] theorem State.coreRead_shc : (s.coreRead x).shc = s.chip.shc := by rw [coreRead_parts]
@[simp] theorem State.coreRead_reqs : (s.coreRead x).mpt.reqs = s.chip.mpt.reqs := by rw [coreRead_parts]

end

end Sys2Proof.Machine

section
open Sys2Proof Sys2Proof.Machine

/-- Settles O29: the line is `Line.coreTaken` of the word read, and `nextCoreRead` decides what follows. -/
theorem coreFieldsTakeEffect : Obligations.CoreFieldsTakeEffect := by
  unfold Obligations.CoreFieldsTakeEffect
  intro s x rest hr hs ha w l
  have hexec := exec_coreFieldReadComplete hr hs ha
  obtain ⟨n, hline⟩ : ∃ n, (s.coreRead x).line x = l.coreTaken w n (s.chip.shc.run == .starting) s.chip.shc.warm :=
    s.coreRead_line x
  have hothers : OthersKept x s { s with chip := settle s.chip (nextCoreRead rest (s.coreRead x)) } := fun y hy => by
    simp [s.coreRead_line_ne x hy]
  obtain ⟨he, hc, hsig, htset⟩ := l.coreTaken_fields w n (s.chip.shc.run == .starting) s.chip.shc.warm
  have hval : (l.coreTaken w n (s.chip.shc.run == .starting) s.chip.shc.warm).tset.val = field w 10 2 := by
    rw [htset, recTset_val]
  refine ⟨fun hrun => ?_, fun hrun => ?_⟩
  · have hb : (s.chip.shc.run == RunSt.starting) = false := by simp [hrun]
    rw [hb] at hline he hc hsig hval
    have hrun' : (s.coreRead x).shc.run = .running := by simpa using hrun
    refine ⟨_, hexec, ?_⟩
    simp only [settle_line, nextCoreRead_line, hline, settle_ord, settle_mpt_coreReads, settle_mpt_reqs, nextCoreRead_coreReads]
    refine ⟨⟨he, hc, hsig, hval⟩, Line.coreTaken_of_idle _ _ _ _, fun h => ⟨Line.coreTaken_sameState _ _ _ _ _ (.inr h), ?_⟩, trivial,
      fun h => ?_, fun h => ?_, hothers, ?_⟩
    · rw [Line.coreTaken_sampling _ _ _ _ _ (.inr h)]
      simp [recEquipped, flag]
    · obtain ⟨hord, -, -⟩ := nextCoreRead_last hrun' h
      rw [hord, State.coreRead_ord]
    · obtain ⟨hord, -, -, hreqs⟩ := nextCoreRead_more hrun' h
      rw [hord, hreqs, State.coreRead_ord, State.coreRead_reqs]
      exact ⟨rfl, rfl⟩
    · have hkept : (nextCoreRead rest (s.coreRead x)).jwr = s.chip.jwr ∧ (nextCoreRead rest (s.coreRead x)).shc = s.chip.shc := by
        by_cases h : rest = []
        · obtain ⟨-, hj, hshc⟩ := nextCoreRead_last hrun' h
          simp [hj, hshc]
        · obtain ⟨-, hj, hshc, -⟩ := nextCoreRead_more hrun' h
          simp [hj, hshc]
      apply OnlyChanges.of_chip (m := s.ram) <;> simp [hkept]
  · have hb : (s.chip.shc.run == RunSt.starting) = true := by simp [hrun]
    rw [hb] at hline he hc hsig hval
    have hrun' : (s.coreRead x).shc.run = .starting := by simpa using hrun
    have hord : (nextCoreRead rest (s.coreRead x)).ord = s.chip.ord := by
      by_cases h : rest = []
      · simp [nextCoreRead_start_last hrun' h]
      · simp [nextCoreRead_start_more hrun' h]
    refine ⟨_, hexec, ?_⟩
    simp only [settle_line, nextCoreRead_line, hline, settle_ord, settle_shc, settle_jwr, settle_mpt_coreReads,
      nextCoreRead_coreReads]
    refine ⟨⟨he, hc, hsig, hval⟩, Line.coreTaken_sameState _ _ _ _ _ (.inl rfl), ?_, trivial, hord, fun h => ?_, fun h => ?_,
      hothers, ?_⟩
    · rw [Line.coreTaken_sampling _ _ _ _ _ (.inl rfl)]
      simp [recEquipped, flag]
    · obtain ⟨-, hj, hshc⟩ := nextCoreRead_start_last hrun' h
      simp [hj, hshc]
    · obtain ⟨-, hj, hshc⟩ := nextCoreRead_start_more hrun' h
      simp [hj, hshc]
    · apply OnlyChanges.of_chip (m := s.ram) <;> simp [hord]

end
end

section
/-! SUPPORT. The validity check of a record (01 R2). -/

namespace Sys2Proof.Machine

theorem field_lt (w : Word) (lo len : Nat) : field w lo len < 2 ^ len := (w.extractLsb' lo len).isLt

section
variable (copy : Vector Word 8)

/-- The arrangement code 3 names no arrangement (10 Table 10-5). -/
theorem recArrangement_eq_invalid : recArrangement copy = .invalid ↔ field copy[0] 8 2 = 3 := by
  have h := field_lt copy[0] 8 2
  unfold recArrangement
  split <;> simp_all
  omega

theorem recArrangement_eq_single : recArrangement copy = .single ↔ field copy[0] 8 2 = 0 := by
  unfold recArrangement
  split <;> simp_all

/-- The parties of a record are 1 to its party count. -/
theorem mem_recParties (p : Nat) : p ∈ recParties copy ↔ 1 ≤ p ∧ p ≤ recPartyCount copy := by
  simp only [recParties, List.mem_map, List.mem_range]
  constructor
  · rintro ⟨n, hn, rfl⟩
    omega
  · rintro ⟨h1, h2⟩
    exact ⟨p - 1, by omega, by omega⟩

/-- When a record is valid (01 R2). -/
theorem recordValid_iff (present : PlanNo → Bool) :
    recordValid present copy = true ↔
      recArrangement copy ≠ .invalid ∧ (1 ≤ recPartyCount copy ∧ recPartyCount copy ≤ 4) ∧
        (recArrangement copy = .single → recPartyCount copy = 1) ∧
        (∀ p, 1 ≤ p → p ≤ recPartyCount copy →
          1 ≤ recLoad copy p ∧ recLoad copy p ≤ 8 ∧ present (recPlan copy p) = true) ∧
        1 ≤ recBlockSize copy ∧ recBlockSize copy ≤ 8 := by
  simp only [recordValid, Bool.and_eq_true, List.all_eq_true, mem_recParties, decide_eq_true_eq, bne_iff_ne, Bool.or_eq_true,
    beq_iff_eq, ne_eq, and_assoc, and_imp, ← imp_iff_not_or]

end

end Sys2Proof.Machine
end

section
/-! SUPPORT. The eighth word of a record fetch (04 R60, R61): the copy complete, and the record taken by its holder. -/

namespace Sys2Proof.Machine

/-! ### The fetch -/

/-- The chip as the last word of the fetch into slot i is read from the record of line x: the copy is whole. -/
def State.fetched (s : State) (i : SlotNo) (x : LineNo) : Chip := readFetchWord i x 7 s.ram (release s.chip)

/-- The last word of the fetch of line x's record into slot i is being served (04 R60). -/
structure State.LastWord (s : State) (i : SlotNo) (x : LineNo) : Prop where
  recLine : (s.chip.slot i).recLine = some x
  serves : s.chip.serves (.fetch i) = true
  status : (s.chip.slot i).status = .bound
  phase : (s.chip.slot i).phase = .fetching
  words : (s.chip.slot i).words = 7
  addr : s.chip.recordAddr x + 8 ≤ Config.ramWords

theorem State.LastWord.exec_eq {s : State} {i : SlotNo} {x : LineNo} (h : s.LastWord i x) :
    exec (.fetchComplete i) s = finish s (fetchDone i (s.fetched i x)) := by
  simp [exec, execFetchComplete, h.recLine, h.serves, h.words, Slot.fetching, h.status, h.phase, inRam_of_le h.addr,
    State.fetched]

/-- The whole copy in slot i after the last word is read. -/
def State.wholeCopy (s : State) (i : SlotNo) (x : LineNo) : Vector Word 8 :=
  (s.chip.slot i).copy.set 7 (readWord s.ram (s.chip.recordAddr x + 7))

/-- The chip with the whole copy VALID in slot i, its record still to be taken. -/
def State.copied (s : State) (i : SlotNo) (x : LineNo) : Chip := (s.fetched i x).modSlot i fun k => { k with phase := .valid }

section
variable (s : State) (i : SlotNo) (x y : LineNo)

@[simp] theorem State.fetched_slot :
    (s.fetched i x).slot i = { s.chip.slot i with copy := s.wholeCopy i x, words := 8 } := by
  simp [State.fetched, readFetchWord, release, Slot.putWord, State.wholeCopy]
  rfl

theorem State.fetched_slot_ne {j : SlotNo} (h : j ≠ i) : (s.fetched i x).slot j = s.chip.slot j := by
  simp [State.fetched, readFetchWord, release, Chip.slot_modSlot_ne _ _ h]

@[simp] theorem State.fetched_holder : ((s.fetched i x).slot i).holder = (s.chip.slot i).holder := by simp

@[simp] theorem State.copied_slot :
    (s.copied i x).slot i = { s.chip.slot i with phase := .valid, copy := s.wholeCopy i x, words := 8 } := by
  simp [State.copied]

theorem State.copied_slot_ne {j : SlotNo} (h : j ≠ i) : (s.copied i x).slot j = s.chip.slot j := by
  rw [State.copied, Chip.slot_modSlot_ne _ _ h, State.fetched_slot_ne _ _ _ h]

@[simp] theorem State.copied_lines : (s.copied i x).lines = s.chip.lines := rfl
@[simp] theorem State.copied_sets : (s.copied i x).sets = s.chip.sets := rfl
@[simp] theorem State.copied_ctb : (s.copied i x).ctb = s.chip.ctb := rfl
@[simp] theorem State.copied_rsc : (s.copied i x).rsc = s.chip.rsc := rfl
@[simp] theorem State.copied_gen : (s.copied i x).gen = s.chip.gen := rfl
@[simp] theorem State.copied_ord : (s.copied i x).ord = s.chip.ord := rfl
@[simp] theorem State.copied_jwr : (s.copied i x).jwr = s.chip.jwr := rfl
@[simp] theorem State.copied_shc : (s.copied i x).shc = s.chip.shc := rfl
@[simp] theorem State.copied_lru : (s.copied i x).sst.lru = s.chip.sst.lru := rfl
@[simp] theorem State.copied_waitList : (s.copied i x).sst.waitList = s.chip.sst.waitList := rfl
@[simp] theorem State.copied_line : (s.copied i x).line y = s.chip.line y := rfl
@[simp] theorem State.copied_timing : (s.copied i x).timing y = s.chip.timing y := rfl
@[simp] theorem State.copied_stamp : (s.copied i x).stamp = s.chip.stamp := rfl
@[simp] theorem State.copied_planPresent : (s.copied i x).planPresent = s.chip.planPresent := rfl
@[simp] theorem State.copied_entry : (s.copied i x).entry y = s.chip.entry y := rfl

/-- The reading of the last word is no more than a part of an operation on the slots. -/
theorem State.copied_quiet : Quiet s.chip (s.copied i x) := by
  have h : Quiet s.chip (release s.chip) :=
    ⟨Shc.Raised.refl _, rfl, rfl, rfl, rfl, rfl, rfl, rfl, rfl, rfl, rfl, rfl, rfl, id, fun _ => rfl, fun _ => id⟩
  have hw := h.modSlotKeep i (fun k => k.putWord 7 (readWord s.ram (s.chip.recordAddr x + 7))) (fun _ => rfl) (fun _ => rfl)
  exact (hw.dropRequest (.fetch i)).modSlotKeep i (fun k => { k with phase := .valid }) (fun _ => rfl) (fun _ => rfl)

end

section
variable {s : State} {i : SlotNo} {x : LineNo}

/-- A fetch is complete for its holder (04 R60): the record is taken, and a slot given up is granted on. -/
theorem fetchDone_of_holder (h : (s.chip.slot i).holder = some x) :
    fetchDone i (s.fetched i x) = grantFreed (takeRecord x (s.copied i x)) := by
  simp only [fetchDone, State.fetched_holder, h, State.copied]

end

end Sys2Proof.Machine
end

section
/-! SUPPORT. The holder of a fetched record, by its state (03 R36, R37, 07 R112, R113, 09 R139). -/

namespace Sys2Proof.Machine

section
variable {s : State} {i : SlotNo} {x : LineNo}

/-- The command of the eighth word with a holder. -/
theorem State.LastWord.exec_of_holder (h : s.LastWord i x) (hh : (s.chip.slot i).holder = some x) :
    exec (.fetchComplete i) s = finish s (grantFreed (takeRecord x (s.copied i x))) := by
  rw [h.exec_eq, fetchDone_of_holder hh]

theorem takeRecord_copied_callOnly (x : LineNo) (i : SlotNo) (s : State) :
    CallOnly s { s with chip := settle s.chip (grantFreed (takeRecord x (s.copied i x))) } :=
  (((s.copied_quiet i x).takeRecord x).grantFreed).callOnly

/-- The valid record of a line in SEIZE_WAIT gives dial tone (03 R37). -/
theorem fetchComplete_gives_dialTone (h : s.LastWord i x) (hh : (s.chip.slot i).holder = some x)
    (hs : (s.chip.line x).slot = some i) (hst : (s.chip.line x).st = .seizeWait)
    (hv : recordValid s.chip.planPresent (s.wholeCopy i x) = true) :
    ∃ t, exec (.fetchComplete i) s = .next t ∧
      t.chip.line x = (s.chip.line x).dialToned (s.chip.timing x).clearAt
        (if flag (s.wholeCopy i x)[0] 1 then .specialDial else .dial) (1000 * (s.chip.timing x).dialTone) ∧
      t.chip.slot i = { s.chip.slot i with phase := .valid, copy := s.wholeCopy i x, words := 8 } ∧ OtherSlotsKept i s t ∧
      OthersKept x s t ∧ CallOnly s t ∧
      (Queues x s → t.chip.jwr.queue = s.chip.jwr.queue ++ [⟨some x, s.chip.shc.ms, .toneReady (s.chip.line x).seizure
        (if flag (s.wholeCopy i x)[0] 1 then .specialDial else .dial)⟩]) := by
  have hbus : (s.copied i x).dialBus x = if flag (s.wholeCopy i x)[0] 1 then .specialDial else .dial := by
    rw [dialBus_of_slot (i := i) (by simpa using hs), State.copied_slot]
  have htake : grantFreed (takeRecord x (s.copied i x)) = applyDialTone x (s.copied i x) := by
    rw [takeRecord_of_seizeWait (i := i) (by simpa using hs) (by simpa using hst), State.copied_slot, State.copied_planPresent,
      if_pos hv]
    rfl
  have hexec := h.exec_of_holder hh
  have hcall := takeRecord_copied_callOnly x i s
  rw [htake, applyDialTone_eq, hbus] at hexec hcall
  refine ⟨_, hexec, by simp, by simp, fun j hj => by simp [State.copied_slot_ne _ _ _ hj],
    fun y hy => by simp [Chip.line_modLine_ne _ _ hy], hcall, fun hq => ?_⟩
  rw [settle_jwr, emit_of_queueing]
  · rfl
  · exact hq

/-- An invalid record of a line in SEIZE_WAIT (03 R36). -/
theorem fetchComplete_parks (h : s.LastWord i x) (hh : (s.chip.slot i).holder = some x)
    (hs : (s.chip.line x).slot = some i) (hst : (s.chip.line x).st = .seizeWait)
    (hv : recordValid s.chip.planPresent (s.wholeCopy i x) = false) :
    ∃ t, exec (.fetchComplete i) s = .next t ∧ (t.chip.line x).st = .parked ∧ (t.chip.line x).tone = .none ∧
      t.chip.shc.attention &&& attnFault = attnFault ∧ CallOnly s t ∧
      (s.chip.sst.waitList = [] → ((t.chip.line x).slot = none ∧ (t.chip.slot i).status = .empty ∧
        (t.chip.slot i).recLine = none ∧ t.chip.sst.lru = i :: s.chip.sst.lru.filter (· ≠ i)) ∧ OtherSlotsKept i s t ∧
        OthersKept x s t) := by
  have htake : takeRecord x (s.copied i x) = refuseSeizure x (s.copied i x) := by
    rw [takeRecord_of_seizeWait (i := i) (by simpa using hs) (by simpa using hst), State.copied_slot, State.copied_planPresent,
      if_neg (by simp [hv])]
  have hexec := h.exec_of_holder hh
  have hcall := takeRecord_copied_callOnly x i s
  have e := refuseSeizure_eq (c := s.copied i x) (x := x) (i := i) (by simpa using hs) (by simp)
  rw [htake] at hexec hcall
  obtain ⟨-, hshc, hlines⟩ := grantFreed_of_empty (r := refuseSeizure x (s.copied i x)) (by
    rw [e]
    rintro j ⟨⟩
    simp [Slot.released, Slot.emptied])
  refine ⟨_, hexec, ?_, ?_, ?_, hcall, fun hw => ?_⟩
  · rw [settle_line, Line.congr_of_unslotted (hlines x) Line.st fun _ => rfl, e]
    simp [Line.parked, Line.toned]
  · rw [settle_line, Line.congr_of_unslotted (hlines x) Line.tone fun _ => rfl, e]
    simp [Line.parked, Line.toned]
  · rw [settle_shc, hshc, e]
    exact emit_flag (by simpa using (s.copied i x).recordFault_attention x i) _ _
  · rw [grantFreed_of_nil (by simpa [e] using hw), e]
    refine ⟨⟨?_, ?_, ?_, ?_⟩, fun j hj => ?_, fun y hy => ?_⟩
    · simp [Line.parked, Line.toned, Line.slotted]
    · simp [Slot.released, Slot.emptied]
    · simp [Slot.released, Slot.emptied]
    · simp
    · simp [dropValid_slot_ne _ _ _ hj, Chip.recordFault_slot_ne _ _ _ hj, State.copied_slot_ne _ _ _ hj]
    · simp [Chip.line_modLine_ne _ _ hy, dropValid_line_ne _ _ _ hy]

end

end Sys2Proof.Machine
end

section
/-! SUPPORT. A fetched record of a called line and of a recall (07 R112, R113, 09 R139), and a fetch without a holder (04 R61). -/

namespace Sys2Proof.Machine

/-! ### RING_WAIT -/

section
variable {c : Chip} {x : LineNo} {i : SlotNo} {e : RingWait}

theorem takeRecord_of_ringWait (hs : (c.line x).slot = some i) (hst : (c.line x).st = .ringWait) (he : c.entry x = some e) :
    takeRecord x c =
      if recordValid c.planPresent (c.slot i).copy = false then refuseRing x .record e.party c
      else if recPartyCount (c.slot i).copy < e.party then refuseRing x .party e.party c
      else (acceptRing x (c.slot i).copy c, none) := by
  simp [takeRecord, Chip.record, hs, hst, he]

/-- A walk while the generator is not RUNNING and no overload stands does no more than start it: no line, no slot and no entry is
changed (06 R97, 08 R128). -/
theorem walk_parts (hg : c.gen.state ≠ .running) (ho : c.gen.overload = false) :
    (walk c).lines = c.lines ∧ (walk c).sst = c.sst ∧ (walk c).rsc = c.rsc := by
  unfold walk
  split
  · exact absurd ‹_› hg
  · split
    · simp [startRequest, ‹c.gen.state = .off›, setGen, ho]
    · exact ⟨rfl, rfl, rfl⟩
  all_goals exact ⟨rfl, rfl, rfl⟩

/-- With demand a generator that is OFF is started (06 R97, 08 R128). -/
theorem walk_starts (hg : c.gen.state = .off) (ho : c.gen.overload = false) (hd : c.demand = true) :
    (walk c).gen.state = .starting := by
  simp [walk, hg, hd, startRequest, setGen, ho]

/-- The plan on which a called line is rung: that of its entry, or its party's in the record (07 R112). -/
def RingWait.planFor (q : RingWait) (copy : Vector Word 8) : PlanNo :=
  q.plan.getD (recPlan copy (if recArrangement copy = .single then 1 else q.party))

/-- The entry of a called line as its record is accepted (07 R112). -/
def RingWait.accepted (q : RingWait) (copy : Vector Word 8) : RingWait :=
  { q with needsSlot := false, fetching := false, plan := some (q.planFor copy) }

theorem acceptRing_eq (x : LineNo) (copy : Vector Word 8) (c : Chip) :
    acceptRing x copy c = walk (modEntry x (·.accepted copy) c) := rfl

/-- An entry meets conditions 1 to 4 of eligibility (06 R97). -/
theorem Chip.ready_of_active {p : PlanNo} (hs : e.needsSlot = false) (hf : e.fetching = false) (hn : e.notBefore = none)
    (hp : e.plan = some p) (ha : c.planSt p = .active) (hr : c.ord.staging.map (·.1) ≠ some p) : c.ready e = true := by
  have hr' : c.reloading p = false := by simpa [Chip.reloading] using hr
  simp [Chip.ready, hs, hf, hn, hp, ha, hr']

/-- An accepted entry that no guard holds back, with its plan in force and not being reloaded, makes demand (06 R97). -/
theorem demand_of_accepted {copy : Vector Word 8} (he : c.entry x = some e) (hn : e.notBefore = none)
    (hp : c.planSt (e.planFor copy) = .active) (hr : c.ord.staging.map (·.1) ≠ some (e.planFor copy)) :
    (modEntry x (·.accepted copy) c).demand = true := by
  have hx : e.line = x := by simpa using List.find?_some he
  exact List.any_eq_true.2 ⟨e.accepted copy, List.mem_map.2 ⟨e, List.mem_of_find?_eq_some he, if_pos hx⟩,
    Chip.ready_of_active rfl rfl hn rfl hp hr⟩

/-- The line as it would enter IDLE (01 R6, R8). -/
def Line.idled (l : Line) (clearAt : Nat) : Line :=
  if l.equipped then (l.enter clearAt .idle).toned .none
  else l.unequip clearAt

theorem enterIdle_eq (x : LineNo) (c : Chip) :
    enterIdle x c = c.modLine x fun l => l.idled (c.timing x).clearAt := by
  by_cases h : (c.line x).equipped = true
  · rw [enterIdle_of_equipped h]
    exact Chip.modLine_congr (by simp [Line.idled, h])
  · have h' : (c.line x).equipped = false := by simpa using h
    rw [enterIdle_of_not_equipped h', enterUnequipped_eq]
    exact Chip.modLine_congr (by simp [Line.idled, h'])

section
variable (l : Line) (n : Nat)

@[simp] theorem Line.idled_st : (l.idled n).st = if l.equipped then .idle else .unequipped := by
  unfold Line.idled
  split <;> rfl

@[simp] theorem Line.idled_tone : (l.idled n).tone = .none := by
  unfold Line.idled
  split <;> rfl

@[simp] theorem Line.idled_slot : (l.idled n).slot = l.slot := by
  unfold Line.idled
  split <;> rfl

end

/-- The record of a called line is refused: marked in the slot where it is not valid, the fault raised and RING_FAILED written
(07 R113). -/
def Chip.ringFault (c : Chip) (x : LineNo) (i : SlotNo) (why : RingFail) (party : Nat) : Chip :=
  emit (some x) (.ringFailed why party)
    (raiseFault .recordInvalid (some x) 0 (c.modSlot i fun k => { k with failed := k.failed || why = .record }))

section
variable (c : Chip) (x : LineNo) (i : SlotNo) (why : RingFail) (party : Nat)

@[simp] theorem Chip.ringFault_line (y : LineNo) : (c.ringFault x i why party).line y = c.line y := by simp [ringFault]
@[simp] theorem Chip.ringFault_rsc : (c.ringFault x i why party).rsc = c.rsc := by simp [ringFault]
@[simp] theorem Chip.ringFault_lru : (c.ringFault x i why party).sst.lru = c.sst.lru := by simp [ringFault]
@[simp] theorem Chip.ringFault_waitList : (c.ringFault x i why party).sst.waitList = c.sst.waitList := by simp [ringFault]
@[simp] theorem Chip.ringFault_slot :
    (c.ringFault x i why party).slot i = { c.slot i with failed := (c.slot i).failed || why = .record } := by simp [ringFault]

theorem Chip.ringFault_slot_ne {j : SlotNo} (h : j ≠ i) : (c.ringFault x i why party).slot j = c.slot j := by
  simp [ringFault, Chip.slot_modSlot_ne _ _ h]

theorem Chip.ringFault_attention : (c.ringFault x i why party).shc.attention &&& attnFault = attnFault :=
  emit_flag (raiseFault_attention _ _ _ _) _ _

theorem Chip.ringFault_offered :
    ((c.ringFault x i why party).shc.fault, (c.ringFault x i why party).shc.further) =
      offered c.shc.fault c.shc.further ⟨.recordInvalid, some x, 0, c.stamp⟩ := by
  rw [ringFault, emit_fault, emit_further]
  exact raiseFault_offered _ _ _ (c.modSlot i _)

end

/-- With room for both, the fault and RING_FAILED join the tail of the write queue (10 R154). -/
theorem Chip.ringFault_queue (hq : c.Queueing x) (hroom : c.jwr.counted + 2 ≤ 32) (i : SlotNo) (why : RingFail) (party : Nat) :
    (c.ringFault x i why party).jwr.queue =
      c.jwr.queue ++ [⟨some x, c.shc.ms, .fault .recordInvalid 0⟩, ⟨some x, c.shc.ms, .ringFailed why party⟩] := by
  have h0 : (offerFault .recordInvalid (some x) 0
      (c.modSlot i fun k => { k with failed := k.failed || why = .record })).Queueing x := hq
  rw [ringFault, raiseFault, emit_of_queueing h0, emit_of_queueing (h0.append hroom _)]
  simp [offerFault, setAttention]

/-- A called line's record refused (07 R113). -/
theorem refuseRing_eq (hs : (c.line x).slot = some i) (hp : (c.slot i).phase = .valid) (why : RingFail) (party : Nat) :
    refuseRing x why party c = (enterIdle x (dropValid x i (dropEntry x (c.ringFault x i why party))), some i) := by
  have hm : (if why = .record then markFailed x c else c) =
      c.modSlot i fun k => { k with failed := k.failed || why = .record } := by
    split
    · next h =>
      rw [markFailed_of_slot hs]
      exact Chip.modSlot_congr (by simp [h])
    · next h =>
      refine (Chip.modSlot_id c i).symm.trans (Chip.modSlot_congr ?_)
      simp [h]
  have hd : dropSlot x (dropEntry x (c.ringFault x i why party)) =
      (dropValid x i (dropEntry x (c.ringFault x i why party)), some i) :=
    dropSlot_of_valid (by simp [Chip.ringFault, hs]) (by simp [Chip.ringFault, hp])
  simp only [refuseRing, hm]
  rw [← Chip.ringFault, hd]

/-! ### RECALL -/

theorem takeRecord_of_recall (hs : (c.line x).slot = some i) (hst : (c.line x).st = .recall) :
    takeRecord x c =
      if recordValid c.planPresent (c.slot i).copy then (acceptRecall x (c.slot i).copy c, none) else refuseRecall x c := by
  simp [takeRecord, Chip.record, hs, hst]

/-- The line of a recall whose record is accepted: DIAL if the record gives recall dial tone, and the dialling timer (09 R139). -/
def Line.recalled (l : Line) (tone : Bool) (ms : Nat) : Line :=
  { (if tone then l.toned .dial else l) with dialling := some ⟨0, ms⟩ }

section
variable (l : Line) (tone : Bool) (ms : Nat)

theorem Line.recalled_st : (l.recalled tone ms).st = l.st := by cases tone <;> rfl
theorem Line.recalled_slot : (l.recalled tone ms).slot = l.slot := by cases tone <;> rfl
theorem Line.recalled_tone : (l.recalled tone ms).tone = if tone then .dial else l.tone := by cases tone <;> rfl

end

/-- A recall's record accepted (09 R139). -/
theorem acceptRecall_eq (x : LineNo) (copy : Vector Word 8) (c : Chip) :
    acceptRecall x copy c = c.modLine x fun l => l.recalled (recRecallTone copy) (1000 * (c.timing x).dialling) := by
  unfold acceptRecall startDialling
  cases h : recRecallTone copy
  · rfl
  · rw [if_pos rfl, setTone_eq, Chip.modLine_modLine, Chip.timing_modLine _ _ _ _ rfl]
    rfl

/-- A recall's record refused (09 R139). -/
theorem refuseRecall_eq (hs : (c.line x).slot = some i) (hp : (c.slot i).phase = .valid) :
    refuseRecall x c = (dropValid x i (c.recordFault x i), some i) := by
  rw [refuseRecall, markFailed_of_slot hs]
  exact dropSlot_of_valid (c := c.recordFault x i) (by simp [hs]) (by simp [hp])

end

end Sys2Proof.Machine
end

section
/-! SUPPORT. The eighth word of a fetch by what the holder is (04 R60, R61): each case of FETCH_COMPLETE. -/

namespace Sys2Proof.Machine

section
variable {s : State} {i : SlotNo} {x : LineNo} {e : RingWait}

theorem RingWait.planFor_eq (q : RingWait) (copy : Vector Word 8) :
    q.planFor copy = q.plan.getD (Fin.ofNat 8 (field (copy.toList.getD
      (1 + if field copy[0] 8 2 = 0 then 1 else q.party) 0) 4 3)) := by
  simp only [planFor, recPlan, recParty, recArrangement_eq_single]

/-- A called line's record accepted at the end of its fetch (07 R112). -/
theorem fetchComplete_accepts (h : s.LastWord i x) (hh : (s.chip.slot i).holder = some x)
    (hs : (s.chip.line x).slot = some i) (hst : (s.chip.line x).st = .ringWait) (he : s.chip.entry x = some e)
    (hv : recordValid s.chip.planPresent (s.wholeCopy i x) = true) (hc : e.party ≤ recPartyCount (s.wholeCopy i x))
    (hg : s.chip.gen.state ≠ .running) (ho : s.chip.gen.overload = false) :
    ∃ t, exec (.fetchComplete i) s = .next t ∧
      t.chip.slot i = { s.chip.slot i with phase := .valid, copy := s.wholeCopy i x, words := 8 } ∧ OtherSlotsKept i s t ∧
      t.chip.rsc = { s.chip.rsc with
        queue := s.chip.rsc.queue.map fun q => if q.line = x then q.accepted (s.wholeCopy i x) else q } ∧
      (s.chip.gen.state = .off → e.notBefore = none → s.chip.planSt (e.planFor (s.wholeCopy i x)) = .active →
        s.chip.ord.staging.map (·.1) ≠ some (e.planFor (s.wholeCopy i x)) → t.chip.gen.state = .starting) ∧
      (∀ y, t.chip.line y = s.chip.line y) ∧ CallOnly s t := by
  have htake : grantFreed (takeRecord x (s.copied i x)) = walk (modEntry x (·.accepted (s.wholeCopy i x)) (s.copied i x)) := by
    rw [takeRecord_of_ringWait (i := i) (by simpa using hs) (by simpa using hst) (by simpa using he), State.copied_slot,
      State.copied_planPresent, if_neg (by simp [hv]), if_neg (by simpa using hc), acceptRing_eq]
    rfl
  have hexec := h.exec_of_holder hh
  have hcall := takeRecord_copied_callOnly x i s
  rw [htake] at hexec hcall
  obtain ⟨hlines, hsst, hrsc⟩ := walk_parts (c := modEntry x (·.accepted (s.wholeCopy i x)) (s.copied i x)) hg ho
  have hslot : ∀ j, (walk (modEntry x (·.accepted (s.wholeCopy i x)) (s.copied i x))).slot j = (s.copied i x).slot j :=
    fun j => by simp only [Chip.slot, hsst]; rfl
  refine ⟨_, hexec, ?_, fun j hj => ?_, ?_, fun hoff hn hp hr => ?_, fun y => ?_, hcall⟩
  · rw [settle_slot, hslot, State.copied_slot]
  · rw [settle_slot, hslot, State.copied_slot_ne _ _ _ hj]
  · rw [settle_rsc, hrsc]
    rfl
  · rw [settle_gen_state]
    exact walk_starts hoff ho (demand_of_accepted (c := s.copied i x) he hn hp hr)
  · rw [settle_line]
    simp only [Chip.line, hlines]
    rfl

/-- A called line's record refused at the end of its fetch (07 R113), where nobody waits for a slot. -/
theorem fetchComplete_refuses (h : s.LastWord i x) (hh : (s.chip.slot i).holder = some x)
    (hs : (s.chip.line x).slot = some i) (hst : (s.chip.line x).st = .ringWait) (he : s.chip.entry x = some e)
    (hbad : recordValid s.chip.planPresent (s.wholeCopy i x) = false ∨ recPartyCount (s.wholeCopy i x) < e.party)
    (hw : s.chip.sst.waitList = []) :
    ∃ t, exec (.fetchComplete i) s = .next t ∧
      (t.chip.line x).st = (if (s.chip.line x).equipped then .idle else .unequipped) ∧
      (t.chip.line x).tone = .none ∧ (t.chip.line x).slot = none ∧
      t.chip.rsc = { s.chip.rsc with queue := s.chip.rsc.queue.filter (·.line ≠ x) } ∧
      (t.chip.shc.fault, t.chip.shc.further) =
        offered s.chip.shc.fault s.chip.shc.further ⟨.recordInvalid, some x, 0, s.chip.stamp⟩ ∧
      t.chip.shc.attention &&& attnFault = attnFault ∧
      (recordValid s.chip.planPresent (s.wholeCopy i x) = false → (t.chip.slot i).status = .empty ∧
        (t.chip.slot i).recLine = none ∧ t.chip.sst.lru = i :: s.chip.sst.lru.filter (· ≠ i)) ∧
      (recordValid s.chip.planPresent (s.wholeCopy i x) = true → (s.chip.slot i).refetch = false →
        (s.chip.slot i).failed = false → (t.chip.slot i).status = .warm ∧ (t.chip.slot i).recLine = some x ∧
        t.chip.sst.lru = s.chip.sst.lru.filter (· ≠ i) ++ [i]) ∧
      OtherSlotsKept i s t ∧ OthersKept x s t ∧ CallOnly s t ∧
      (Queues x s → s.chip.jwr.counted + 2 ≤ 32 → t.chip.jwr.queue = s.chip.jwr.queue ++
        [⟨some x, s.chip.shc.ms, .fault .recordInvalid 0⟩,
          ⟨some x, s.chip.shc.ms, .ringFailed
            (if recordValid s.chip.planPresent (s.wholeCopy i x) then .party else .record) e.party⟩]) := by
  generalize hv : recordValid s.chip.planPresent (s.wholeCopy i x) = v at hbad ⊢
  have htake : takeRecord x (s.copied i x) =
      refuseRing x (if v then .party else .record) e.party (s.copied i x) := by
    rw [takeRecord_of_ringWait (i := i) (by simpa using hs) (by simpa using hst) (by simpa using he), State.copied_slot,
      State.copied_planPresent, hv]
    cases v
    · rfl
    · have hc : recPartyCount (s.wholeCopy i x) < e.party := by simpa using hbad
      simp [hc]
  have hexec := h.exec_of_holder hh
  have hcall := takeRecord_copied_callOnly x i s
  rw [htake, refuseRing_eq (by simpa using hs) (by simp), grantFreed_of_nil (by simpa [enterIdle_eq] using hw), enterIdle_eq]
    at hexec hcall
  refine ⟨_, hexec, ?_, ?_, ?_, ?_, ?_, ?_, ?_, ?_, fun j hj => ?_, fun y hy => ?_, hcall, fun hq hroom => ?_⟩
  · simp [Line.slotted]
  · simp
  · simp [Line.slotted]
  · simp [Chip.modRsc]
  · simpa using Chip.ringFault_offered (s.copied i x) x i _ _
  · simpa using Chip.ringFault_attention (s.copied i x) x i _ _
  · rintro rfl
    simp [Slot.released, Slot.emptied, Chip.releasedLru]
  · rintro rfl hr hf
    simp [Slot.released, Chip.releasedLru, hr, hf, h.recLine]
  · simp [dropValid_slot_ne _ _ _ hj, Chip.ringFault_slot_ne _ _ _ _ _ hj, State.copied_slot_ne _ _ _ hj]
  · simp [Chip.line_modLine_ne _ _ hy, dropValid_line_ne _ _ _ hy]
  · simpa using Chip.ringFault_queue (c := s.copied i x) hq hroom i _ _

/-- A recall's record accepted at the end of its fetch (09 R139). -/
theorem fetchComplete_recalls (h : s.LastWord i x) (hh : (s.chip.slot i).holder = some x)
    (hs : (s.chip.line x).slot = some i) (hst : (s.chip.line x).st = .recall)
    (hv : recordValid s.chip.planPresent (s.wholeCopy i x) = true) :
    ∃ t, exec (.fetchComplete i) s = .next t ∧
      t.chip.line x = (s.chip.line x).recalled (flag (s.wholeCopy i x)[0] 0) (1000 * (s.chip.timing x).dialling) ∧
      t.chip.slot i = { s.chip.slot i with phase := .valid, copy := s.wholeCopy i x, words := 8 } ∧ OtherSlotsKept i s t ∧
      OthersKept x s t ∧ OnlyChanges [.lines, .slots, .port] s t := by
  have htake : grantFreed (takeRecord x (s.copied i x)) = acceptRecall x (s.wholeCopy i x) (s.copied i x) := by
    rw [takeRecord_of_recall (i := i) (by simpa using hs) (by simpa using hst), State.copied_slot, State.copied_planPresent,
      if_pos hv]
    rfl
  have hexec := h.exec_of_holder hh
  rw [htake, acceptRecall_eq] at hexec
  refine ⟨_, hexec, by simp [recRecallTone], by simp, fun j hj => by simp [State.copied_slot_ne _ _ _ hj],
    fun y hy => by simp [Chip.line_modLine_ne _ _ hy], ?_⟩
  exact OnlyChanges.of_chip (m := s.ram) (by simp) (fun _ => rfl) (by simp) (fun _ => rfl) (fun _ => rfl) (fun _ => rfl)
    (fun _ => rfl) (fun _ => rfl) (by simp) (fun _ => rfl) (fun _ => rfl)

/-- A recall's record refused at the end of its fetch, where nobody waits for a slot (09 R139). -/
theorem fetchComplete_refuses_recall (h : s.LastWord i x) (hh : (s.chip.slot i).holder = some x)
    (hs : (s.chip.line x).slot = some i) (hst : (s.chip.line x).st = .recall)
    (hv : recordValid s.chip.planPresent (s.wholeCopy i x) = false) (hw : s.chip.sst.waitList = []) :
    ∃ t, exec (.fetchComplete i) s = .next t ∧ t.chip.line x = (s.chip.line x).slotted none ∧
      (t.chip.slot i).status = .empty ∧ (t.chip.slot i).recLine = none ∧
      t.chip.sst.lru = i :: s.chip.sst.lru.filter (· ≠ i) ∧
      (t.chip.shc.fault, t.chip.shc.further) =
        offered s.chip.shc.fault s.chip.shc.further ⟨.recordInvalid, some x, 0, s.chip.stamp⟩ ∧
      t.chip.shc.attention &&& attnFault = attnFault ∧ OtherSlotsKept i s t ∧ OthersKept x s t ∧
      OnlyChanges [.lines, .slots, .journal, .port, .shelf] s t := by
  have htake : takeRecord x (s.copied i x) = refuseRecall x (s.copied i x) := by
    rw [takeRecord_of_recall (i := i) (by simpa using hs) (by simpa using hst), State.copied_slot, State.copied_planPresent,
      if_neg (by simp [hv])]
  have hexec := h.exec_of_holder hh
  rw [htake, refuseRecall_eq (by simpa using hs) (by simp), grantFreed_of_nil (by simpa using hw)] at hexec
  refine ⟨_, hexec, by simp, ?_, ?_, by simp, ?_, ?_, fun j hj => ?_, fun y hy => ?_, ?_⟩
  · simp [Slot.released, Slot.emptied]
  · simp [Slot.released, Slot.emptied]
  · simpa using (s.copied i x).recordFault_offered x i
  · simpa using (s.copied i x).recordFault_attention x i
  · simp [dropValid_slot_ne _ _ _ hj, Chip.recordFault_slot_ne _ _ _ hj, State.copied_slot_ne _ _ _ hj]
  · simp [dropValid_line_ne _ _ _ hy]
  · apply OnlyChanges.of_chip (m := s.ram) <;> simp [Chip.recordFault]

/-- A fetch that ends without a holder, where nobody waits for a slot (04 R61). -/
theorem fetchComplete_abandoned (h : s.LastWord i x) (hh : (s.chip.slot i).holder = none) (hw : s.chip.sst.waitList = []) :
    ∃ t, exec (.fetchComplete i) s = .next t ∧
      t.chip.slot i = (if (s.chip.slot i).refetch then ((s.fetched i x).slot i).emptied
        else { (s.fetched i x).slot i with status := .warm, ctx := Ctx.fresh }) ∧
      t.chip.sst.lru = (if (s.chip.slot i).refetch then i :: s.chip.sst.lru.filter (· ≠ i)
        else s.chip.sst.lru.filter (· ≠ i) ++ [i]) ∧
      OtherSlotsKept i s t ∧ OnlyChanges [.slots, .port] s t := by
  have hexec := h.exec_eq
  have hdone : fetchDone i (s.fetched i x) = abandonedFetch i (s.fetched i x) := by
    simp only [fetchDone, State.fetched_holder, hh]
  have hwait : (s.fetched i x).sst.waitList = [] := hw
  rw [hdone] at hexec
  cases hr : (s.chip.slot i).refetch
  · have hc : abandonedFetch i (s.fetched i x) =
        toMru i ((s.fetched i x).modSlot i fun k => { k with status := .warm, ctx := Ctx.fresh }) := by
      rw [abandonedFetch, State.fetched_slot, if_neg (by simp [hr])]
      exact grantFreed_of_nil (by simpa using hwait)
    rw [hc] at hexec
    refine ⟨_, hexec, by simp, ?_, fun j hj => by simp [Chip.slot_modSlot_ne _ _ hj, State.fetched_slot_ne _ _ _ hj], ?_⟩
    · simp
      rfl
    · exact OnlyChanges.of_chip (m := s.ram) (fun _ => rfl) (fun _ => rfl) (by simp) (fun _ => rfl) (fun _ => rfl)
        (fun _ => rfl) (fun _ => rfl) (fun _ => rfl) (by simp) (fun _ => rfl) (fun _ => rfl)
  · have hc : abandonedFetch i (s.fetched i x) = toLru i ((s.fetched i x).modSlot i Slot.emptied) := by
      rw [abandonedFetch, State.fetched_slot, if_pos (by simp [hr])]
      exact grantFreed_of_nil (by simpa using hwait)
    rw [hc] at hexec
    refine ⟨_, hexec, by simp, ?_, fun j hj => by simp [Chip.slot_modSlot_ne _ _ hj, State.fetched_slot_ne _ _ _ hj], ?_⟩
    · simp
      rfl
    · exact OnlyChanges.of_chip (m := s.ram) (fun _ => rfl) (fun _ => rfl) (by simp) (fun _ => rfl) (fun _ => rfl)
        (fun _ => rfl) (fun _ => rfl) (fun _ => rfl) (by simp) (fun _ => rfl) (fun _ => rfl)

end

end Sys2Proof.Machine

section
open Sys2Proof Sys2Proof.Machine

/-- Settles O28: the validity check, and each holder of the slot by its state. -/
theorem fetchCompleteTakesTheRecord : Obligations.FetchCompleteTakesTheRecord := by
  unfold Obligations.FetchCompleteTakesTheRecord
  refine ⟨fun present copy => ?_, fun s i x hrec hserves hbound hfetch hwords haddr => ?_⟩
  · rw [recordValid_iff, ne_eq, recArrangement_eq_invalid, recArrangement_eq_single]
    exact Iff.rfl
  have h : s.LastWord i x := ⟨hrec, hserves, hbound, hfetch, hwords, haddr⟩
  intro copy valid l emptied
  refine ⟨fun hh hs hst => ⟨fun hv => ?_, fun hv => fetchComplete_parks h hh hs hst hv⟩,
    fun hh hs hst e he => ⟨fun hv hc hg ho => ?_, fun hbad hw => ?_⟩,
    fun hh hs hst => ⟨fun hv => ?_, fun hv hw => ?_⟩, fun hh hw => ?_⟩
  · obtain ⟨t, ht, hl, hslot, hslots, hlines, hcall, hq⟩ := fetchComplete_gives_dialTone h hh hs hst hv
    exact ⟨t, ht, by rw [hl]; rfl, by rw [hl]; rfl, by rw [hl]; rfl, by rw [hl]; exact hs, hslot, hslots, hlines, hcall, hq⟩
  · obtain ⟨t, ht, hslot, hslots, hrsc, hgen, hlines, hcall⟩ := fetchComplete_accepts h hh hs hst he hv hc hg ho
    refine ⟨t, ht, by rw [hlines]; exact hst, by rw [hlines]; exact hs, hslot, hslots, ?_, ?_, hlines, hcall⟩
    · rw [hrsc]
      simp only [RingWait.accepted, RingWait.planFor_eq]
      rfl
    · rw [RingWait.planFor_eq] at hgen
      exact hgen
  · obtain ⟨t, ht, hst', htone, hslot, hrsc, hfault, hattn, hempty, hwarm, hslots, hlines, hcall, hq⟩ :=
      fetchComplete_refuses h hh hs hst he hbad hw
    exact ⟨t, ht, hst', htone, hslot, hrsc, hfault, hattn, fun hv => ⟨hslot, hempty hv⟩, hwarm, hslots, hlines, hcall, hq⟩
  · obtain ⟨t, ht, hl, hslot, hslots, hlines, honly⟩ := fetchComplete_recalls h hh hs hst hv
    refine ⟨t, ht, ?_, ?_, by rw [hl]; rfl, ?_, hslot, hslots, hlines, honly⟩
    · rw [hl, Line.recalled_st]
      exact hst
    · rw [hl, Line.recalled_tone]
      rfl
    · rw [hl, Line.recalled_slot]
      exact hs
  · obtain ⟨t, ht, hl, hstatus, hrecLine, hlru, hfault, hattn, hslots, hlines, honly⟩ :=
      fetchComplete_refuses_recall h hh hs hst hv hw
    exact ⟨t, ht, by rw [hl]; exact hst, by rw [hl]; rfl, by rw [hl]; rfl, ⟨by rw [hl]; rfl, hstatus, hrecLine, hlru⟩, hfault, hattn,
      hslots, hlines, honly⟩
  · obtain ⟨t, ht, hslot, hlru, hslots, honly⟩ := fetchComplete_abandoned h hh hw
    rw [State.fetched_slot] at hslot
    cases hr : (s.chip.slot i).refetch
    · rw [hr] at hslot hlru
      refine ⟨t, ht, by rw [hslot]; exact hh, by rw [hslot]; rfl, by rw [hslot]; rfl, fun _ => ⟨?_, ?_, ?_, hlru⟩, nofun,
        hslots, honly⟩
      · rw [hslot]; rfl
      · rw [hslot]; exact hrec
      · rw [hslot]; rfl
    · rw [hr] at hslot hlru
      refine ⟨t, ht, by rw [hslot]; rfl, by rw [hslot]; rfl, by rw [hslot]; rfl, nofun, fun _ => ⟨?_, ?_, ?_, hlru⟩,
        hslots, honly⟩ <;> rw [hslot] <;> rfl

end
end

section
/-! SUPPORT. What a scan period without a command does (log 4): the generator's demand and idleness look at no timer that runs, so a
running idle stop timer runs on. -/

namespace Sys2Proof.Machine

/-- A scan period makes no entry ready and none unready: a not-before of 0 stands until its expiry is taken (06 R97, log 4). -/
theorem tickChip_ready (c : Chip) (e : RingWait) : (tickChip c).ready e.tick = c.ready e := by
  have hb : e.tick.notBefore.isNone = e.notBefore.isNone := Option.isNone_map
  simp only [Chip.ready, hb]
  rfl

theorem tickChip_demand (c : Chip) : (tickChip c).demand = c.demand := by
  have hq : (tickChip c).rsc.queue = c.rsc.queue.map RingWait.tick := rfl
  simp only [Chip.demand, hq, List.any_map, Function.comp_def, tickChip_ready]

theorem tickChip_genIdle (c : Chip) : (tickChip c).genIdle = c.genIdle := by
  unfold Chip.genIdle
  rw [tickChip_demand]
  rfl

@[simp] theorem tickChip_line (c : Chip) (x : LineNo) : (tickChip c).line x = (c.line x).tick :=
  mapEach_get Line.tick c.lines x

/-- A generator that was idle and stays so keeps its idle stop timer (08 R130). -/
theorem settleIdle_of_idle {c0 c : Chip} (h0 : c0.genIdle = true) (h : c.genIdle = true) : settleIdle c0 c = c := by
  simp [settleIdle, h0, h]

/-- A step on an empty queue is one scan period (log 4). -/
theorem step_of_idle {s : State} (h : s.pending = []) : step s = finish s (tickChip s.chip) := by
  simp only [step, h]

/-- The millisecond counter as it stands after a scan period (11 R171). -/
theorem tickChip_shc (c : Chip) :
    (tickChip c).shc =
      { c.shc with
        ms :=
          if (c.shc.run = .running ∨ c.shc.run = .isolated) ∨ c.shc.run = .starting ∧ c.shc.start = .readings then c.shc.ms + 2
          else c.shc.ms } := by
  simp only [tickChip, Chip.msRuns, Bool.or_eq_true, Bool.and_eq_true, beq_iff_eq]

end Sys2Proof.Machine

section
open Sys2Proof Sys2Proof.Machine

/-- Settles O2: an idle step is `tickChip`, and settling leaves the idle stop timer of an idle generator running. -/
theorem idleStepIsOneScanPeriod : Obligations.IdleStepIsOneScanPeriod := by
  unfold Obligations.IdleStepIsOneScanPeriod
  intro s hs ticked runs
  refine ⟨_, (step_of_idle hs).trans (finish_eq _ _), ?_, fun x => ?_, ?_, fun hidle => ?_, ?_, ?_, ?_, ?_, ?_⟩
  · apply OnlyChanges.of_chip (m := s.ram) <;> simp [tickChip]
  · rw [settle_line, tickChip_line]
    rfl
  · rw [settle_gen_idle]
    rfl
  · rw [settle_idleTimer, settleIdle_of_idle hidle ((tickChip_genIdle _).trans hidle)]
    rfl
  · rw [settle_rsc]
    rfl
  · rw [settle_ctb]
    rfl
  · rw [settle_ord]
    rfl
  · rw [settle_jwr]
    rfl
  · rw [settle_shc]
    exact tickChip_shc _

end
end

section
/-! SUPPORT. One sample of a line as updates of that line (02 R17 to R24): which step of R17 it comes to, and what that step does. -/

namespace Sys2Proof.Machine

/-! ### The call context of a line with a slot -/

section
variable {c : Chip} {x : LineNo} {k : SlotNo}

theorem modCtx_of_slot (hs : (c.line x).slot = some k) (f : Ctx → Ctx) :
    modCtx x f c = c.modSlot k fun s => { s with ctx := f s.ctx } := by
  simp only [modCtx, hs]

theorem Chip.ctx_of_slot (hs : (c.line x).slot = some k) : c.ctx x = some (c.slot k).ctx := by
  simp [Chip.ctx, hs]

end

/-! ### The steps of a sample -/

/-- The line with its interval timer advanced (02 R17 step 1). -/
def Line.advanced (l : Line) : Line := { l with interval := min 65535 (l.interval + 1) }

theorem advance_eq (x : LineNo) (c : Chip) : advance x c = c.modLine x Line.advanced := rfl

@[simp] theorem Chip.timing_advanced (c : Chip) (x : LineNo) : (c.modLine x Line.advanced).timing x = c.timing x :=
  c.timing_modLine x x _ rfl

section
variable {c : Chip} {x : LineNo} {loop trip : Bool}

theorem deliverExpiry_of_not_due (h : (c.line x).thresholdDue = false) : deliverExpiry x c = c := by
  simp [deliverExpiry, h]

theorem sample_of_off (h : (c.line x).sampling = .off) : sample x loop trip c = c := by
  simp only [sample, h]

theorem sample_of_first (h : (c.line x).sampling = .first) : sample x loop trip c = firstSense x loop c := by
  simp only [sample, h]

/-- A sample at which no threshold falls due: the interval advances and the sense input of the line is read. -/
theorem sample_of_on (h : (c.line x).sampling = .on) (hd : (c.line x).advanced.thresholdDue = false) :
    sample x loop trip c = senseLine x loop trip (c.modLine x Line.advanced) := by
  simp only [sample, h, advance_eq]
  rw [deliverExpiry_of_not_due (by simpa using hd)]

/-- The line at which step 3 of such a sample looks. -/
theorem Chip.sensed_of_not_due (hd : (c.line x).advanced.thresholdDue = false) : c.sensed x = (c.line x).advanced := by
  rw [Chip.sensed, advance_eq, deliverExpiry_of_not_due (by simpa using hd), Chip.line_modLine_self]

theorem senseLine_of_relay (h : (c.line x).sampling = .on) (hr : (c.line x).relay = true) :
    senseLine x loop trip c = tripSense x trip c := by
  simp [senseLine, h, hr]

theorem senseLine_of_blank (h : (c.line x).sampling = .on) (hr : (c.line x).relay = false) (hb : 0 < (c.line x).blank) :
    senseLine x loop trip c = c.modLine x fun l => { l with blank := l.blank - 1 } := by
  simp [senseLine, h, hr, hb]

theorem senseLine_of_loop (h : (c.line x).sampling = .on) (hr : (c.line x).relay = false) (hb : (c.line x).blank = 0) :
    senseLine x loop trip c = loopSense x loop c := by
  simp [senseLine, h, hr, hb]

/-! ### Trip sense (02 R23, R24) -/

theorem tripSense_of_none (h : (c.line x).tripRun = 0) : tripSense x false c = c := by
  simp [tripSense, h]

theorem tripSense_counts (h : (c.line x).tripRun + 1 < (c.timing x).tripConfirm) :
    tripSense x true c = c.modLine x fun l => { l with tripRun := l.tripRun + 1 } := by
  simp [tripSense, h]

theorem tripSense_discards (h0 : 0 < (c.line x).tripRun) (h : (c.line x).tripRun < (c.timing x).tripConfirm) :
    tripSense x false c = discardTrip x c := by
  simp [tripSense, h0, h]

/-- The call context with one more discarded trip run (02 R24). -/
def Ctx.tripDiscarded (k : Ctx) : Ctx := { k with tripDiscards := min 255 (k.tripDiscards + 1) }

/-- A trip run discarded on a line with slot k: the third raises UNSTABLE_TRIP (02 R24). -/
theorem discardTrip_of_slot {k : SlotNo} (hs : (c.line x).slot = some k) :
    discardTrip x c =
      let d := (c.modLine x fun l => { l with tripRun := 0 }).modSlot k fun s => { s with ctx := s.ctx.tripDiscarded }
      if (c.slot k).ctx.tripDiscards = 2 then raiseFault .unstableTrip (some x) 0 d else d := by
  unfold discardTrip
  rw [modCtx_of_slot (k := k) (by simpa using hs)]
  simp [Chip.ctx_of_slot hs, hs, Ctx.tripDiscarded]

/-! ### Loop sense (02 R18) -/

/-- The reading agrees with the hook state: the disagreeing run ends. -/
theorem loopSense_agrees (h : readingOf loop = (c.line x).hook) :
    loopSense x loop c = c.modLine x fun l => { l with run := 0 } := by
  simp [loopSense, h]

theorem loopSense_counts (h : readingOf loop ≠ (c.line x).hook) (hn : (c.line x).run + 1 < (c.timing x).debounce) :
    loopSense x loop c = c.modLine x fun l => { l with run := l.run + 1 } := by
  simp [loopSense, h, hn]

theorem loopSense_turns (h : readingOf loop ≠ (c.line x).hook) (hn : (c.timing x).debounce ≤ (c.line x).run + 1) :
    loopSense x loop c = recognise x (readingOf loop) c := by
  simp [loopSense, h, hn]

theorem readingOf_eq_iff {h : Hook} : readingOf loop = h ↔ loop = (h == .off) := by
  cases loop <;> cases h <;> decide

theorem readingOf_ne_iff {h : Hook} : readingOf loop ≠ h ↔ loop = (h == .on) := by
  cases loop <;> cases h <;> decide

end

/-! ### A command that changed one line and one slot -/

section
variable {s : State} {x : LineNo} {k : SlotNo}

/-- A command that goes on with one line and one slot changed, said of both. -/
theorem next_modLine_modSlot {i : Instr} {d : Chip} {f : Line → Line} {g : Slot → Slot} (h : exec i s = finish s d)
    (hd : d = (s.chip.modLine x f).modSlot k g) :
    ∃ t, exec i s = .next t ∧ t.chip.line x = f (s.chip.line x) ∧ OthersKept x s t ∧ t.chip.slot k = g (s.chip.slot k) ∧
      OtherSlotsKept k s t ∧ t.chip.sst.lru = s.chip.sst.lru ∧ t.chip.sst.waitList = s.chip.sst.waitList ∧
      OnlyChanges [.lines, .slots] s t := by
  subst hd
  refine ⟨_, h, by simp, fun y hy => by simp [Chip.line_modLine_ne _ _ hy], by simp,
    fun j hj => by simp [Chip.slot_modSlot_ne _ _ hj], by simp, by simp, ?_⟩
  apply OnlyChanges.of_chip (m := s.ram) <;> simp

/-- Line x is sampled with its relay closed, and no threshold falls due at the next sample (02 R17, R22). -/
structure State.Rung (s : State) (x : LineNo) : Prop where
  sampling : (s.chip.line x).sampling = .on
  due : (s.chip.line x).advanced.thresholdDue = false
  relay : (s.chip.line x).relay = true

theorem State.Rung.sample_eq (h : s.Rung x) (loop trip : Bool) :
    sample x loop trip s.chip = tripSense x trip (s.chip.modLine x Line.advanced) := by
  rw [sample_of_on h.sampling h.due,
    senseLine_of_relay (by rw [Chip.line_modLine_self]; exact h.sampling) (by rw [Chip.line_modLine_self]; exact h.relay)]

/-- Line x is sampled with its relay open, and no threshold falls due at the next sample (02 R17, R18). -/
structure State.Heard (s : State) (x : LineNo) : Prop where
  sampling : (s.chip.line x).sampling = .on
  due : (s.chip.line x).advanced.thresholdDue = false
  relay : (s.chip.line x).relay = false

theorem State.Heard.sample_blank (h : s.Heard x) (hb : 0 < (s.chip.line x).blank) (loop trip : Bool) :
    sample x loop trip s.chip = s.chip.modLine x fun l => { l.advanced with blank := l.blank - 1 } := by
  rw [sample_of_on h.sampling h.due, senseLine_of_blank (by rw [Chip.line_modLine_self]; exact h.sampling)
    (by rw [Chip.line_modLine_self]; exact h.relay) (by rw [Chip.line_modLine_self]; exact hb), Chip.modLine_modLine]
  rfl

theorem State.Heard.sample_loop (h : s.Heard x) (hb : (s.chip.line x).blank = 0) (loop trip : Bool) :
    sample x loop trip s.chip = loopSense x loop (s.chip.modLine x Line.advanced) := by
  rw [sample_of_on h.sampling h.due, senseLine_of_loop (by rw [Chip.line_modLine_self]; exact h.sampling)
    (by rw [Chip.line_modLine_self]; exact h.relay) (by rw [Chip.line_modLine_self]; exact hb)]

/-- A trip run discarded at a sample, but for the fault that the third brings (02 R24). -/
def State.tripDiscarded (s : State) (x : LineNo) (k : SlotNo) : Chip :=
  (s.chip.modLine x fun l => { l.advanced with tripRun := 0 }).modSlot k fun s => { s with ctx := s.ctx.tripDiscarded }

theorem State.Rung.sample_discards (h : s.Rung x) (h0 : 0 < (s.chip.line x).tripRun)
    (hn : (s.chip.line x).tripRun < (s.chip.timing x).tripConfirm) (hs : (s.chip.line x).slot = some k) (loop : Bool) :
    sample x loop false s.chip =
      if (s.chip.slot k).ctx.tripDiscards = 2 then raiseFault .unstableTrip (some x) 0 (s.tripDiscarded x k)
      else s.tripDiscarded x k := by
  rw [h.sample_eq, tripSense_discards (by simpa [Line.advanced] using h0) (by simpa [Line.advanced] using hn),
    discardTrip_of_slot (k := k) (by simpa [Line.advanced] using hs)]
  simp [State.tripDiscarded]

end

end Sys2Proof.Machine
end

section
/-! SUPPORT. The samples that count, and no occurrence that they bring (02 R17 to R24). -/

namespace Sys2Proof.Machine

section
variable {s : State} {x : LineNo} {k : SlotNo}

/-- The journal queues records of a line as long as Shelf Control's run state and the Journal Writer stand. -/
theorem Chip.Queueing.congr {c d : Chip} (h : c.Queueing x) (hrun : d.shc.run = c.shc.run) (hj : d.jwr = c.jwr) : d.Queueing x := by
  rw [Chip.Queueing, hrun, hj]
  exact h

/-- The first reading goes on (02 R20). -/
theorem firstSense_counts {c : Chip} {loop : Bool} (h : (c.line x).firstCount (readingOf loop) < (c.timing x).debounce) :
    firstSense x loop c =
      c.modLine x fun l => { l with tentative := readingOf loop, run := (c.line x).firstCount (readingOf loop) } := by
  simp only [firstSense, Nat.not_le.2 h, if_false]

/-- The third trip run discarded raises UNSTABLE_TRIP (02 R24). -/
theorem lineSample_unstable (h : s.Rung x) (h0 : 0 < (s.chip.line x).tripRun)
    (hn : (s.chip.line x).tripRun < (s.chip.timing x).tripConfirm) (hs : (s.chip.line x).slot = some k)
    (h2 : (s.chip.slot k).ctx.tripDiscards = 2) (loop : Bool) :
    ∃ t, exec (.lineSample x loop false) s = .next t ∧
      t.chip.line x = { (s.chip.line x).advanced with tripRun := 0 } ∧ OthersKept x s t ∧
      t.chip.slot k = { s.chip.slot k with ctx := (s.chip.slot k).ctx.tripDiscarded } ∧ OtherSlotsKept k s t ∧
      t.chip.sst.lru = s.chip.sst.lru ∧ t.chip.sst.waitList = s.chip.sst.waitList ∧
      (t.chip.shc.fault, t.chip.shc.further) =
        offered s.chip.shc.fault s.chip.shc.further ⟨.unstableTrip, some x, 0, s.chip.stamp⟩ ∧
      t.chip.shc.attention &&& attnFault = attnFault ∧
      (Queues x s → t.chip.jwr =
        { s.chip.jwr with queue := s.chip.jwr.queue ++ [⟨some x, s.chip.shc.ms, .fault .unstableTrip 0⟩] }) ∧
      OnlyChanges [.lines, .slots, .journal, .shelf] s t := by
  have hexec : exec (.lineSample x loop false) s = finish s (raiseFault .unstableTrip (some x) 0 (s.tripDiscarded x k)) := by
    have e := h.sample_discards h0 hn hs loop
    rw [if_pos h2] at e
    exact congrArg (finish s) e
  refine ⟨_, hexec, ?_, fun y hy => ?_, ?_, fun j hj => ?_, ?_, ?_, ?_, ?_, fun hq => ?_, ?_⟩
  · simp [State.tripDiscarded]
  · simp [State.tripDiscarded, Chip.line_modLine_ne _ _ hy]
  · simp [State.tripDiscarded]
  · simp [State.tripDiscarded, Chip.slot_modSlot_ne _ _ hj]
  · simp [State.tripDiscarded]
  · simp [State.tripDiscarded]
  · rw [settle_shc]
    exact raiseFault_offered _ _ _ _
  · rw [settle_shc]
    exact raiseFault_attention _ _ _ _
  · have hd : (offerFault .unstableTrip (some x) 0 (s.tripDiscarded x k)).Queueing x :=
      Chip.Queueing.congr ((queues_iff x s).1 hq) rfl rfl
    rw [settle_jwr, raiseFault, emit_of_queueing hd]
    rfl
  · apply OnlyChanges.of_chip (m := s.ram) <;> simp [State.tripDiscarded]

/-- A trip run discarded that is not the third (02 R24). -/
theorem lineSample_discards (h : s.Rung x) (h0 : 0 < (s.chip.line x).tripRun)
    (hn : (s.chip.line x).tripRun < (s.chip.timing x).tripConfirm) (hs : (s.chip.line x).slot = some k)
    (h2 : (s.chip.slot k).ctx.tripDiscards ≠ 2) (loop : Bool) :
    exec (.lineSample x loop false) s = finish s (s.tripDiscarded x k) := by
  have e := h.sample_discards h0 hn hs loop
  rw [if_neg h2] at e
  exact congrArg (finish s) e

end

end Sys2Proof.Machine

section
open Sys2Proof Sys2Proof.Machine

/-- Settles O15: a sample without an occurrence is one update of its line, by the step of R17 that it comes to. -/
theorem sampleCounts : Obligations.SampleCounts := by
  unfold Obligations.SampleCounts
  intro s x loop trip l l' n
  have hexec {d : Chip} (h : sample x loop trip s.chip = d) : exec (.lineSample x loop trip) s = finish s d :=
    congrArg (finish s) h
  refine ⟨fun hoff => ?_, fun hfirst hn => ?_, fun hon hdue => ⟨fun hr ht h0 => ?_, fun hr ht h0 hn k hk => ?_,
    fun hr ht hn => ?_, fun hr hb => ?_, fun hr hb hl => ?_, fun hr hb hl hn => ?_⟩⟩
  · refine ⟨_, hexec (sample_of_off hoff), ?_⟩
    apply OnlyChanges.of_chip (m := s.ram) <;> exact fun _ => rfl
  · exact next_modLine (hexec ((sample_of_first hfirst).trans (firstSense_counts hn))) rfl
  · have hs : s.Rung x := ⟨hon, hdue, hr⟩
    subst ht
    exact next_modLine (hexec ((hs.sample_eq loop false).trans (tripSense_of_none (by simpa [Line.advanced] using h0)))) rfl
  · have hs : s.Rung x := ⟨hon, hdue, hr⟩
    subst ht
    by_cases h2 : (s.chip.slot k).ctx.tripDiscards = 2
    · obtain ⟨t, ht, hl, ho, hslot, hslots, hlru, hwait, hfault, hattn, hq, hf⟩ := lineSample_unstable hs h0 hn hk h2 loop
      exact ⟨t, ht, hl, ho, hslot, hslots, hlru, hwait, fun hne => absurd h2 hne, fun _ => ⟨hfault, hattn, hq, hf⟩⟩
    · obtain ⟨t, ht, hl, ho, hslot, hslots, hlru, hwait, hf⟩ :=
        next_modLine_modSlot (lineSample_discards hs h0 hn hk h2 loop) rfl
      exact ⟨t, ht, hl, ho, hslot, hslots, hlru, hwait, fun _ => hf, fun he => absurd he h2⟩
  · have hs : s.Rung x := ⟨hon, hdue, hr⟩
    subst ht
    refine next_modLine (f := fun l => { l.advanced with tripRun := l.tripRun + 1 }) (hexec (hs.sample_eq loop true)) ?_
    rw [tripSense_counts (by simpa [Line.advanced] using hn), Chip.modLine_modLine]
    rfl
  · have hs : s.Heard x := ⟨hon, hdue, hr⟩
    exact next_modLine (hexec (hs.sample_blank hb loop trip)) rfl
  · have hs : s.Heard x := ⟨hon, hdue, hr⟩
    refine next_modLine (f := fun l => { l.advanced with run := 0 }) (hexec (hs.sample_loop hb loop trip)) ?_
    rw [loopSense_agrees (by simpa [Line.advanced] using readingOf_eq_iff.2 hl), Chip.modLine_modLine]
  · have hs : s.Heard x := ⟨hon, hdue, hr⟩
    refine next_modLine (f := fun l => { l.advanced with run := l.run + 1 }) (hexec (hs.sample_loop hb loop trip)) ?_
    rw [loopSense_counts (by simpa [Line.advanced] using readingOf_ne_iff.2 hl) (by simpa [Line.advanced] using hn),
      Chip.modLine_modLine]
    rfl

end
end

section
/-! SUPPORT. The sample that turns the hook state (02 R18, R21, R29) and the sample that ends a first reading (02 R20, 01 R7). -/

namespace Sys2Proof.Machine

/-! ### A hook transition -/

/-- The line as a recognised transition to the hook state `h` leaves it, before the LCT takes it (02 R18). -/
def Line.turned (l : Line) (h : Hook) : Line := { l with hook := h, run := 0, interval := 0, threshold := .none, mark := true }

/-- The chip with line x turned to the hook state `h`. -/
def Chip.turned (c : Chip) (x : LineNo) (h : Hook) : Chip := c.modLine x fun l => l.turned h

section
variable (c : Chip) (x : LineNo) (h : Hook)

@[simp] theorem Chip.turned_line : (c.turned x h).line x = (c.line x).turned h := by simp [Chip.turned]
@[simp] theorem Chip.turned_slot (k : SlotNo) : (c.turned x h).slot k = c.slot k := rfl
@[simp] theorem Chip.turned_timing (y : LineNo) : (c.turned x h).timing y = c.timing y := c.timing_modLine x y _ rfl

end

/-- On-hook in a state that judges breaks (02 R29). -/
theorem onHook_of_judging {c : Chip} {x : LineNo} (h : (c.line x).st.judging = true) :
    onHook x c = c.modLine x fun l => { l with threshold := .clear (c.timing x).clearAt } := if_pos h

/-- On-hook in any other state. -/
theorem onHook_of_not_judging {c : Chip} {x : LineNo} (h : (c.line x).st.judging = false) : onHook x c = c :=
  if_neg (by simp [h])

/-- Off-hook in a state that does not look at the hook (02 Table 2-3). -/
theorem offHook_of_blocked {c : Chip} {x : LineNo} (h : (c.line x).st = .blocked ∨ (c.line x).st = .releaseGuard) (d : Nat) :
    offHook x d c = c := by
  rcases h with h | h <;> simp only [offHook, h]

section
variable {s : State} {x : LineNo} {loop : Bool}

theorem State.AboutToTurn.heard (h : s.AboutToTurn x loop) : s.Heard x := by
  obtain ⟨hon, hrelay, -, -, -, hdue⟩ := h
  exact ⟨hon, hdue, hrelay⟩

/-- The sample of a line that is about to turn is the recognition of its transition (02 R18). -/
theorem State.AboutToTurn.sample_eq (h : s.AboutToTurn x loop) (trip : Bool) :
    sample x loop trip s.chip =
      if loop then offHook x (min 65535 ((s.chip.line x).interval + 1)) (s.chip.turned x .off)
      else onHook x (s.chip.turned x .on) := by
  have hs := h.heard
  obtain ⟨-, -, hblank, hloop, hrun, -⟩ := h
  rw [hs.sample_loop hblank loop trip, loopSense_turns (by simpa [Line.advanced] using readingOf_ne_iff.2 hloop)
    (by simpa [Line.advanced] using hrun)]
  cases loop <;> simp [recognise, readingOf, Line.advanced, Chip.turned, Line.turned]

/-- The command HOOK_TRANSITION is that sample (log 2). -/
theorem State.AboutToTurn.exec_eq (h : s.AboutToTurn x loop) (trip : Bool) :
    exec (.hookTransition x loop trip) s = exec (.lineSample x loop trip) s := by
  obtain ⟨hon, hrelay, hblank, hloop, hrun, hdue⟩ := h
  have hsensed : s.chip.sensed x = (s.chip.line x).advanced := Chip.sensed_of_not_due hdue
  have hreading : readingOf loop ≠ (s.chip.line x).hook := readingOf_ne_iff.2 hloop
  refine if_pos ?_
  simp [Chip.hookFalls, hsensed, Line.advanced, hon, hrelay, hblank, hreading, hrun]

theorem State.AboutToTurn.exec_off (h : s.AboutToTurn x true) (trip : Bool) :
    exec (.hookTransition x true trip) s =
      finish s (offHook x (min 65535 ((s.chip.line x).interval + 1)) (s.chip.turned x .off)) :=
  (h.exec_eq trip).trans (congrArg (finish s) (h.sample_eq trip))

theorem State.AboutToTurn.exec_on (h : s.AboutToTurn x false) (trip : Bool) :
    exec (.hookTransition x false trip) s = finish s (onHook x (s.chip.turned x .on)) :=
  (h.exec_eq trip).trans (congrArg (finish s) (h.sample_eq trip))

end

/-- The judging states as Table 2-3 lists them. -/
theorem LineSt.judging_iff (st : LineSt) :
    st.judging = true ↔ st ∈ [LineSt.seizeWait, .dialTone, .dialling, .routing, .talk, .recall, .parked] := by
  cases st <;> decide

/-! ### The end of a first reading -/

/-- The line as its first debounced state `h` is found (02 R20). -/
def Line.firstFound (l : Line) (h : Hook) : Line :=
  { l with
    hook := h
    tentative := h
    run := 0
    tripRun := 0
    blank := 0
    interval := 0
    sampling := .on
    mark := true }

/-- The chip with the first debounced state `h` of line x found, before the line is placed. -/
def Chip.firstFound (c : Chip) (x : LineNo) (h : Hook) : Chip := c.modLine x fun l => l.firstFound h

@[simp] theorem Chip.firstFound_line (c : Chip) (x : LineNo) (h : Hook) :
    (c.firstFound x h).line x = (c.line x).firstFound h := by simp [Chip.firstFound]

@[simp] theorem Chip.firstFound_timing (c : Chip) (x : LineNo) (h : Hook) : (c.firstFound x h).timing x = c.timing x :=
  c.timing_modLine x x _ rfl

/-- An equipped line in UNEQUIPPED is placed by its first debounced state (01 R7). -/
theorem firstState_of_unequipped {c : Chip} {x : LineNo} (hst : (c.line x).st = .unequipped)
    (he : (c.line x).equipped = true) (h : Hook) :
    firstState x h c =
      match h with
      | .on => enterIdle x (c.firstFound x h)
      | .off => enterParked x none (c.firstFound x h) := by
  have hplaced : ((c.firstFound x h).line x).st = .unequipped ∧ ((c.firstFound x h).line x).equipped = true := by
    rw [Chip.firstFound_line]
    exact ⟨hst, he⟩
  cases h
  · exact if_pos hplaced
  · exact if_pos hplaced

/-- On-hook the line enters IDLE, silent (01 R7, R8). -/
theorem firstState_on {c : Chip} {x : LineNo} (hst : (c.line x).st = .unequipped) (he : (c.line x).equipped = true) :
    firstState x .on c = c.modLine x fun l => ((l.firstFound .on).enter (c.timing x).clearAt .idle).toned .none := by
  rw [firstState_of_unequipped hst he]
  simp only
  rw [enterIdle_of_equipped (by simpa [Line.firstFound] using he), Chip.firstFound_timing, Chip.firstFound, Chip.modLine_modLine]

/-- Off-hook the line enters PARKED without a record (01 R7, 03 R51). -/
theorem firstState_off {c : Chip} {x : LineNo} (hst : (c.line x).st = .unequipped) (he : (c.line x).equipped = true) :
    firstState x .off c =
      c.modLine x fun l => (l.firstFound .off).parked (c.timing x).clearAt (1000 * (c.timing x).parkDelay) := by
  rw [firstState_of_unequipped hst he]
  simp only
  rw [enterParked_none, Chip.firstFound_timing, Chip.firstFound, Chip.modLine_modLine]

/-- The sample that brings the count to the debounce ends a first reading, by either command (02 R20, log 2). -/
theorem exec_firstDebouncedState {s : State} {x : LineNo} {loop : Bool} (h : (s.chip.line x).sampling = .first)
    (hn : (s.chip.timing x).debounce ≤ (s.chip.line x).firstCount (readingOf loop)) (trip : Bool) :
    exec (.firstDebouncedState x loop trip) s = exec (.lineSample x loop trip) s ∧
      exec (.firstDebouncedState x loop trip) s = finish s (firstState x (readingOf loop) s.chip) := by
  have hexec : exec (.firstDebouncedState x loop trip) s = exec (.lineSample x loop trip) s :=
    if_pos (by simp [Chip.firstFalls, h, hn])
  have hsample : sample x loop trip s.chip = firstState x (readingOf loop) s.chip := by
    rw [sample_of_first h, firstSense, if_pos hn]
  exact ⟨hexec, hexec.trans (congrArg (finish s) hsample)⟩

end Sys2Proof.Machine

section
open Sys2Proof Sys2Proof.Machine

/-- Settles O16: the sample recognises the transition, and an on-hook or a state that does not look at the hook ends there. -/
theorem hookTransitionIsRecognised : Obligations.HookTransitionIsRecognised := by
  unfold Obligations.HookTransitionIsRecognised
  intro s x loop trip h
  refine ⟨h.exec_eq trip, fun hcase => ?_⟩
  cases loop
  · cases hj : (s.chip.line x).st.judging
    · have hon : onHook x (s.chip.turned x .on) = s.chip.turned x .on := onHook_of_not_judging (by simpa [Line.turned] using hj)
      obtain ⟨t, ht, hl, ho, hf⟩ := next_modLine (h.exec_on trip) hon
      refine ⟨t, ht, hl.trans ?_, ho, hf⟩
      simp only [← LineSt.judging_iff, hj, Bool.false_eq_true, and_false, if_false]
      rfl
    · have hon := onHook_of_judging (c := s.chip.turned x .on) (x := x) (by simpa [Line.turned] using hj)
      rw [Chip.turned_timing] at hon
      obtain ⟨t, ht, hl, ho, hf⟩ := next_modLine (h.exec_on trip) (hon.trans (Chip.modLine_modLine _ _ _ _))
      refine ⟨t, ht, hl.trans ?_, ho, hf⟩
      simp only [← LineSt.judging_iff, hj, and_self, if_true]
      rfl
  · have hst : (s.chip.line x).st = .blocked ∨ (s.chip.line x).st = .releaseGuard := by simpa using hcase
    have hoff := offHook_of_blocked (c := s.chip.turned x .off) (x := x) (by simpa [Line.turned] using hst)
    exact next_modLine (h.exec_off trip) (hoff _)

/-- Settles O20: the first debounced state is one entry of the line, to IDLE or PARKED. -/
theorem firstStatePlacesTheLine : Obligations.FirstStatePlacesTheLine := by
  unfold Obligations.FirstStatePlacesTheLine
  intro s x loop trip l T hfirst hst he hn
  obtain ⟨hsame, hexec⟩ := exec_firstDebouncedState hfirst hn trip
  cases loop
  · obtain ⟨t, ht, hl, ho, hf⟩ := next_modLine hexec (firstState_on hst he)
    refine ⟨hsame, t, ht, ?_⟩
    simp [hl, Line.firstFound, Line.toned, Line.enter, ho, hf, l]
  · obtain ⟨t, ht, hl, ho, hf⟩ := next_modLine hexec (firstState_off hst he)
    refine ⟨hsame, t, ht, ?_⟩
    simp [hl, Line.firstFound, Line.parked, Line.toned, Line.enter, ho, hf, l, T]

end
end

section
/-! SUPPORT. What a break does at the off-hook that ends it, by its window and the state of the line (02 R29 to R32, 03 R38, R41,
R49, 09 R139 to R143). -/

namespace Sys2Proof.Machine

/-! ### The windows (02 R28, R29) -/

theorem TimingSet.window_eq_pulse_iff (T : TimingSet) (d : Nat) : T.window d = .pulse ↔ T.InPulse d := by
  unfold TimingSet.window TimingSet.InPulse toSamples
  split_ifs <;> simp <;> omega

theorem TimingSet.window_eq_flash_iff (T : TimingSet) (d : Nat) : T.window d = .flash ↔ T.InFlash d := by
  unfold TimingSet.window TimingSet.InFlash toSamples
  split_ifs <;> simp <;> omega

/-- A line left as it stands. -/
theorem Chip.modLine_id (c : Chip) (x : LineNo) : (c.modLine x fun l => l) = c := by
  simp [Chip.modLine]

section
variable (l : Line) (h : Hook)

@[simp] theorem Line.turned_st : (l.turned h).st = l.st := rfl
@[simp] theorem Line.turned_sig : (l.turned h).sig = l.sig := rfl
@[simp] theorem Line.turned_cls : (l.turned h).cls = l.cls := rfl
@[simp] theorem Line.turned_slot : (l.turned h).slot = l.slot := rfl
@[simp] theorem Line.turned_asking : (l.turned h).asking = l.asking := rfl
@[simp] theorem Line.turned_tone : (l.turned h).tone = l.tone := rfl
@[simp] theorem Line.turned_hook : (l.turned h).hook = h := rfl
@[simp] theorem Line.turned_threshold : (l.turned h).threshold = .none := rfl

end

@[simp] theorem Chip.turned_listed (c : Chip) (x y : LineNo) (h : Hook) : (c.turned x h).listed y = c.listed y := rfl

@[simp] theorem Chip.turned_accepted (c : Chip) (x : LineNo) (h : Hook) : (c.turned x h).accepted x = c.accepted x := by
  simp only [Chip.accepted, Chip.turned_line, Line.turned_slot, Chip.turned_slot]

section
variable {c : Chip} {x : LineNo} {k : SlotNo} {d : Nat}

/-! ### Which act a break is (02 Table 2-3) -/

theorem judgeBreak_firstPulse (hst : (c.line x).st = .dialTone) (hw : (c.timing x).InPulse d) (hs : (c.line x).sig ≠ .tone) :
    judgeBreak x d c = firstPulse x c := by
  simp [judgeBreak, hst, (TimingSet.window_eq_pulse_iff _ _).2 hw, hs]

theorem judgeBreak_countPulse (hst : (c.line x).st = .dialling) (hw : (c.timing x).InPulse d) (hs : (c.line x).sig ≠ .tone) :
    judgeBreak x d c = countPulse x c := by
  simp [judgeBreak, hst, (TimingSet.window_eq_pulse_iff _ _).2 hw, hs]

theorem judgeBreak_recallPulse (hst : (c.line x).st = .recall) (hw : (c.timing x).InPulse d) (hs : (c.line x).sig ≠ .tone)
    (ha : c.accepted x = true) : judgeBreak x d c = recallPulse x c := by
  simp [judgeBreak, hst, (TimingSet.window_eq_pulse_iff _ _).2 hw, hs, ha]

theorem judgeBreak_dialRestart (hst : (c.line x).st = .dialling) (hw : (c.timing x).InFlash d) :
    judgeBreak x d c = dialRestart x c := by
  simp [judgeBreak, hst, (TimingSet.window_eq_flash_iff _ _).2 hw]

theorem judgeBreak_routingFlash (hst : (c.line x).st = .routing) (hw : (c.timing x).InFlash d) :
    judgeBreak x d c = routingFlash x c := by
  simp [judgeBreak, hst, (TimingSet.window_eq_flash_iff _ _).2 hw]

theorem judgeBreak_secondFlash (hst : (c.line x).st = .recall) (hw : (c.timing x).InFlash d) :
    judgeBreak x d c = secondFlash x c := by
  simp [judgeBreak, hst, (TimingSet.window_eq_flash_iff _ _).2 hw]

/-- Every other break is a hit (02 R31). -/
theorem judgeBreak_hit
    (hp : (c.timing x).InPulse d → (c.line x).sig ≠ .tone →
      (c.line x).st ≠ .dialTone ∧ (c.line x).st ≠ .dialling ∧ ((c.line x).st = .recall → c.accepted x = false))
    (hf : (c.timing x).InFlash d → (c.line x).st ∉ [LineSt.dialling, .routing, .talk, .recall]) :
    judgeBreak x d c = hit x c := by
  rw [← TimingSet.window_eq_pulse_iff] at hp
  rw [← TimingSet.window_eq_flash_iff] at hf
  unfold judgeBreak
  simp only []
  split <;> simp_all

/-- The states that judge breaks (02 R29). -/
theorem offHook_of_judging (h : (c.line x).st.judging = true) : offHook x d c = judgeBreak x d c := by
  unfold offHook
  split <;> simp_all [LineSt.judging]

/-! ### A hit (02 R31, R32) -/

theorem Chip.accepted_of_slot (hs : (c.line x).slot = some k) : c.accepted x = ((c.slot k).phase == .valid) := by
  simp only [Chip.accepted, hs]

theorem Chip.accepted_of_none (hs : (c.line x).slot = none) : c.accepted x = false := by
  simp only [Chip.accepted, hs]

theorem Chip.collects_of_slot (hs : (c.line x).slot = some k) :
    c.collects x = true ↔ (c.line x).st = .dialling ∨ (c.line x).st = .recall ∧ (c.slot k).phase = .valid := by
  simp [Chip.collects, Chip.accepted_of_slot hs, hs]

/-- A hit on a line that collects no digits changes nothing. -/
theorem hit_of_not_collecting (h1 : (c.line x).st ≠ .dialling) (h2 : (c.line x).st = .recall → c.accepted x = false) :
    hit x c = c := by
  have hc : c.collects x = false := by
    by_cases hr : (c.line x).st = .recall
    · simp [Chip.collects, hr, h2 hr]
    · simp [Chip.collects, h1, hr]
  simp [hit, hc]

/-- A hit on a line with a slot arms the DIGIT threshold again where a digit is in progress. -/
theorem hit_of_slot (hs : (c.line x).slot = some k) :
    hit x c = if c.collects x = true ∧ (c.slot k).ctx.pulses ≠ 0 then armDigit x c else c := by
  simp [hit, Chip.ctx_of_slot hs]

/-! ### Pulses (03 R38, R41, 09 R140) -/

/-- The call context with one more pulse of the digit in progress (03 R41). -/
def Ctx.pulsed (k : Ctx) : Ctx := { k with pulses := min 15 (k.pulses + 1) }

/-- The line with its DIGIT threshold armed at the interdigit min (02 R32). -/
def Line.digitArmed (l : Line) (T : TimingSet) : Line := { l with threshold := .digit (toSamples T.interdigit) }

theorem countPulse_of_slot (hs : (c.line x).slot = some k) :
    countPulse x c =
      (c.modLine x fun l => l.digitArmed (c.timing x)).modSlot k fun s => { s with ctx := s.ctx.pulsed } := by
  rw [countPulse, modCtx_of_slot hs]
  rfl

/-- The line with its dialling timer started at `ms` (03 R38). -/
def Line.dialStarted (l : Line) (ms : Nat) : Line := { l with dialling := some ⟨0, ms⟩ }

/-- The dialling timer started after an update that keeps the timing set of the line. -/
theorem startDialling_modLine (f : Line → Line) (hf : (f (c.line x)).tset = (c.line x).tset) :
    startDialling x (c.modLine x f) = c.modLine x fun l => (f l).dialStarted (1000 * (c.timing x).dialling) := by
  rw [startDialling, Chip.timing_modLine _ _ _ _ hf, Chip.modLine_modLine]
  rfl

/-- The line as the first pulse leaves it (03 R38). -/
def Line.firstPulsed (l : Line) (T : TimingSet) : Line :=
  ((l.enter T.clearAt .dialling).toned .none).dialStarted (1000 * T.dialling)

theorem firstPulse_of_slot (hs : (c.line x).slot = some k) :
    firstPulse x c =
      (c.modLine x fun l => (l.firstPulsed (c.timing x)).digitArmed (c.timing x)).modSlot k fun s =>
        { s with ctx := s.ctx.pulsed } := by
  have hd : startDialling x (setTone x .none (setSt x .dialling c)) = c.modLine x fun l => l.firstPulsed (c.timing x) := by
    rw [setTone_eq, setSt_eq, Chip.modLine_modLine]
    exact startDialling_modLine _ rfl
  rw [firstPulse, hd, countPulse_of_slot (k := k) (by simpa [Line.firstPulsed, Line.dialStarted, Line.toned] using hs),
    Chip.timing_modLine _ _ _ _ rfl, Chip.modLine_modLine]

/-- The line with the tone DIAL switched off, any other left (09 R140). -/
def Line.dialOff (l : Line) : Line := if l.tone = .dial then l.toned .none else l

theorem recallPulse_of_slot (hs : (c.line x).slot = some k) :
    recallPulse x c =
      (c.modLine x fun l => l.dialOff.digitArmed (c.timing x)).modSlot k fun s => { s with ctx := s.ctx.pulsed } := by
  unfold recallPulse
  by_cases hd : (c.line x).tone = .dial
  · rw [if_pos hd, setTone_eq, countPulse_of_slot (k := k) (by simpa [Line.toned] using hs), Chip.timing_modLine _ _ _ _ rfl,
      Chip.modLine_modLine]
    exact congrArg (Chip.modSlot · k _) (Chip.modLine_congr (by simp [Line.dialOff, hd]))
  · rw [if_neg hd, countPulse_of_slot hs]
    exact congrArg (Chip.modSlot · k _) (Chip.modLine_congr (by simp [Line.dialOff, hd]))

/-! ### Flashes (03 R49, 09 R141, R143) -/

/-- The call context with its digits discarded (03 §3.4). -/
def Ctx.cleared (k : Ctx) : Ctx := { k with pulses := 0, buffer := [], overflow := false, mark := none }

theorem emptyBuffer_of_slot (hs : (c.line x).slot = some k) :
    emptyBuffer x c = c.modSlot k fun s => { s with ctx := s.ctx.cleared } := modCtx_of_slot hs _

theorem Chip.buffered_of_slot (hs : (c.line x).slot = some k) : c.buffered x = (c.slot k).ctx.buffer.length := by
  simp [Chip.buffered, Chip.ctx_of_slot hs]

theorem giveDialTone_eq (x : LineNo) (c : Chip) :
    giveDialTone x c =
      c.modLine x fun l => l.dialToned (c.timing x).clearAt (c.dialBus x) (1000 * (c.timing x).dialTone) := by
  simp [giveDialTone, Line.dialToned, Timer.start]

/-- A flash in DIALLING, before dial tone is given again: the buffer emptied, DIAL_RESTART formed (03 R49). -/
def Chip.dialEnded (c : Chip) (x : LineNo) (k : SlotNo) : Chip :=
  emit (some x) (.dialRestart (c.slot k).ctx.buffer.length)
    ((c.modLine x fun l => { l with dialling := none }).modSlot k fun s => { s with ctx := s.ctx.cleared })

theorem dialRestart_of_slot (hs : (c.line x).slot = some k) :
    dialRestart x c =
      (c.dialEnded x k).modLine x fun l =>
        l.dialToned (c.timing x).clearAt (if flag (c.slot k).copy[0] 1 then .specialDial else .dial)
          (1000 * (c.timing x).dialTone) := by
  have hd : emit (some x) (.dialRestart (c.buffered x)) (stopDialling x (emptyBuffer x c)) = c.dialEnded x k := by
    rw [Chip.buffered_of_slot hs, emptyBuffer_of_slot hs]
    rfl
  have ht : (c.dialEnded x k).timing x = c.timing x :=
    (emit_timing ..).trans (c.timing_modLine x x (fun l => { l with dialling := none }) rfl)
  rw [dialRestart, hd, giveDialTone_eq, ht,
    dialBus_of_slot (i := k) (by simpa [Chip.dialEnded] using hs)]
  simp [Chip.dialEnded]

/-- A flash in RECALL with the record accepted, before the tone and the timer start again (09 R141). -/
def Chip.recallEnded (c : Chip) (x : LineNo) (k : SlotNo) : Chip :=
  emit (some x) (.flash .recall (c.slot k).ctx.buffer.length) (c.modSlot k fun s => { s with ctx := s.ctx.cleared })

theorem secondFlash_of_accepted (hs : (c.line x).slot = some k) (hv : (c.slot k).phase = .valid) :
    secondFlash x c =
      (c.recallEnded x k).modLine x fun l =>
        (l.toned (if flag (c.slot k).copy[0] 0 then .dial else .none)).dialStarted (1000 * (c.timing x).dialling) := by
  have ha : c.accepted x = true := by simp [Chip.accepted_of_slot hs, hv]
  have hd : emit (some x) (.flash .recall (c.buffered x)) (emptyBuffer x c) = c.recallEnded x k := by
    rw [Chip.buffered_of_slot hs, emptyBuffer_of_slot hs]
    rfl
  have hrecord : (c.recallEnded x k).record x = some (c.slot k).copy := by
    simp [Chip.record, Chip.recallEnded, hs]
  have ht : (c.recallEnded x k).timing x = c.timing x := emit_timing ..
  simp only [secondFlash, ha, if_true, hd, hrecord, setTone_eq]
  rw [startDialling_modLine _ rfl, ht]
  rfl

/-- A flash in RECALL while the record is not accepted and a slot or a request stands is reported only (09 R141). -/
theorem secondFlash_of_requested (ha : c.accepted x = false) (h : (c.line x).slot.isSome ∨ c.listed x = true) :
    secondFlash x c = emit (some x) (.flash .recall 0) c := by
  have hl : (emit (some x) (.flash .recall 0) c).listed x = c.listed x := by simp [Chip.listed]
  rcases h with h | h <;> simp [secondFlash, ha, hl, h]

/-- A flash in RECALL without a slot and without a request asks again (09 R141). -/
theorem secondFlash_asks (hs : (c.line x).slot = none) (hl : c.listed x = false) (hk : (c.line x).asking = false) :
    secondFlash x c = requestSlot x .recall (c.line x).cls (emit (some x) (.flash .recall 0) c) := by
  have hl' : (emit (some x) (.flash .recall 0) c).listed x = false := by simpa [Chip.listed] using hl
  simp [secondFlash, Chip.accepted_of_none hs, hl', hs, hk]

end

/-! ### The command -/

section
variable {s : State} {x : LineNo} {k : SlotNo}

/-- A command that goes on with one line changed and a record of it formed, said of a line whose records are queued. -/
theorem next_modLine_emit {i : Instr} {d : Chip} {f : Line → Line} {b : Body} (h : exec i s = finish s d)
    (hd : d = emit (some x) b (s.chip.modLine x f)) (hq : Queues x s) :
    ∃ t, exec i s = .next t ∧ t.chip.line x = f (s.chip.line x) ∧
      t.chip.jwr = { s.chip.jwr with queue := s.chip.jwr.queue ++ [⟨some x, s.chip.shc.ms, b⟩] } ∧ OthersKept x s t ∧
      OnlyChanges [.lines, .journal] s t := by
  have hq' : (s.chip.modLine x f).Queueing x := Chip.Queueing.congr ((queues_iff x s).1 hq) rfl rfl
  rw [emit_of_queueing hq'] at hd
  subst hd
  refine ⟨_, h, by simp, by simp, fun y hy => by simp [Chip.line_modLine_ne _ _ hy], ?_⟩
  apply OnlyChanges.of_chip (m := s.ram) <;> simp

/-- The samples of the break that the next sample of line x would end (02 R28). -/
def State.breakOf (s : State) (x : LineNo) : Nat := min 65535 ((s.chip.line x).interval + 1)

/-- An off-hook of a line in a state that judges breaks judges the break that it ends (02 R29). -/
theorem State.AboutToTurn.exec_judge (h : s.AboutToTurn x true) (hj : (s.chip.line x).st.judging = true) (trip : Bool) :
    exec (.hookTransition x true trip) s =
      finish s (judgeBreak x (s.breakOf x) (s.chip.turned x .off)) := by
  rw [h.exec_off trip, offHook_of_judging (by simpa using hj)]
  rfl

/-- The line as a counted pulse leaves it, by its state (03 R38, R41, 09 R140). -/
def Line.pulsed (l : Line) (T : TimingSet) : Line :=
  match l.st with
  | .dialTone => (l.firstPulsed T).digitArmed T
  | .recall => l.dialOff.digitArmed T
  | _ => l.digitArmed T

/-- A break in the pulse window of a line that dials by pulses and collects, or may begin to collect, digits. -/
theorem judgeBreak_pulse {c : Chip} {d : Nat} (hs : (c.line x).slot = some k)
    (hst : (c.line x).st = .dialTone ∨ (c.line x).st = .dialling ∨ (c.line x).st = .recall ∧ (c.slot k).phase = .valid)
    (hw : (c.timing x).InPulse d) (hsig : (c.line x).sig ≠ .tone) :
    judgeBreak x d c =
      (c.modLine x fun l => l.pulsed (c.timing x)).modSlot k fun s => { s with ctx := s.ctx.pulsed } := by
  rcases hst with hst | hst | ⟨hst, hv⟩
  · rw [judgeBreak_firstPulse hst hw hsig, firstPulse_of_slot hs]
    exact congrArg (Chip.modSlot · k _) (Chip.modLine_congr (by simp only [Line.pulsed, hst]))
  · rw [judgeBreak_countPulse hst hw hsig, countPulse_of_slot hs]
    exact congrArg (Chip.modSlot · k _) (Chip.modLine_congr (by simp only [Line.pulsed, hst]))
  · rw [judgeBreak_recallPulse hst hw hsig (by simp [Chip.accepted_of_slot hs, hv]), recallPulse_of_slot hs]
    exact congrArg (Chip.modSlot · k _) (Chip.modLine_congr (by simp only [Line.pulsed, hst]))

/-- A hit on a line in DIALLING or in RECALL with a slot, as an update of the line (02 R31, R32). -/
theorem hit_eq_modLine {c : Chip} (hs : (c.line x).slot = some k) (ht : (c.line x).threshold = .none)
    (hst : (c.line x).st = .dialling ∨ (c.line x).st = .recall) :
    hit x c = c.modLine x fun l =>
      { l with
        threshold :=
          if ((c.line x).st = .dialling ∨ (c.slot k).phase = .valid) ∧ (c.slot k).ctx.pulses ≠ 0 then
            .digit (toSamples (c.timing x).interdigit)
          else .none } := by
  have hc : c.collects x = true ↔ (c.line x).st = .dialling ∨ (c.slot k).phase = .valid := by
    rw [Chip.collects_of_slot hs]
    rcases hst with hst | hst <;> simp [hst]
  rw [hit_of_slot hs]
  by_cases h : ((c.line x).st = .dialling ∨ (c.slot k).phase = .valid) ∧ (c.slot k).ctx.pulses ≠ 0
  · simp only [if_pos h]
    rw [if_pos (h.imp_left hc.2)]
    rfl
  · simp only [if_neg h]
    rw [if_neg fun e => h (e.imp_left hc.1)]
    exact (Chip.modLine_id c x).symm.trans (Chip.modLine_congr (by rw [← ht]))

end

end Sys2Proof.Machine
end

section
/-! SUPPORT. The command HOOK_TRANSITION on an off-hook, by what the break that it ends is (02 R29, 03 R38 to R49, 09 R139 to
R143). -/

namespace Sys2Proof.Machine

section
variable {s : State} {x : LineNo} {k : SlotNo}

/-- The journal after a record of a line whose records are queued (10 R154). -/
theorem emit_jwr_of_queueing {c d : Chip} (h : c.Queueing x) (hs : d.shc = c.shc) (hj : d.jwr = c.jwr) (b : Body) :
    (emit (some x) b d).jwr = { c.jwr with queue := c.jwr.queue ++ [⟨some x, c.shc.ms, b⟩] } := by
  rw [emit_of_queueing (h.congr (by rw [hs]) hj), Chip.modJwr_jwr, hs, hj]

/-- The break is a pulse of the line's timing set, and the line dials by pulses (02 R29, 03 R38). -/
def State.Pulse (s : State) (x : LineNo) : Prop :=
  (s.chip.timing x).InPulse (s.breakOf x) ∧ (s.chip.line x).sig ≠ .tone

/-- The break is a flash of the line's timing set (02 R29). -/
def State.Flash (s : State) (x : LineNo) : Prop := (s.chip.timing x).InFlash (s.breakOf x)

/-- A break that is a hit on a line that collects no digits changes nothing but the hook items (02 R31). -/
theorem hookTransition_ignores (h : s.AboutToTurn x true) (hj : (s.chip.line x).st.judging = true)
    (hdialling : (s.chip.line x).st ≠ .dialling) (hrecall : (s.chip.line x).st = .recall → s.chip.accepted x = false)
    (hpulse : (s.chip.line x).st = .dialTone → ¬s.Pulse x)
    (hflash : s.Flash x → (s.chip.line x).st ∉ [LineSt.dialling, .routing, .talk, .recall]) (trip : Bool) :
    ∃ t, exec (.hookTransition x true trip) s = .next t ∧ t.chip.line x = (s.chip.line x).turned .off ∧ OthersKept x s t ∧
      OnlyChanges [.lines] s t := by
  have hhit : judgeBreak x (s.breakOf x) (s.chip.turned x .off) = hit x (s.chip.turned x .off) := by
    refine judgeBreak_hit (fun hw hsig => ?_) (by simpa [State.Flash] using hflash)
    have hp : s.Pulse x := ⟨by simpa using hw, by simpa using hsig⟩
    exact ⟨by simpa using fun e => hpulse e hp, by simpa using hdialling, by simpa using hrecall⟩
  have hexec := h.exec_judge hj trip
  rw [hhit, hit_of_not_collecting (by simpa using hdialling) (by simpa using hrecall)] at hexec
  exact next_modLine hexec rfl

/-- A flash in ROUTING (09 R143). -/
theorem hookTransition_routing (h : s.AboutToTurn x true) (hst : (s.chip.line x).st = .routing) (hf : s.Flash x) (trip : Bool) :
    exec (.hookTransition x true trip) s =
      finish s (emit (some x) (.flash .routing 0) (s.chip.modLine x fun l => l.turned .off)) := by
  rw [h.exec_judge (by rw [hst]; rfl) trip, judgeBreak_routingFlash (by simpa using hst) (by simpa [State.Flash] using hf)]
  rfl

/-- A flash in RECALL is judged by the condition of the recall (09 R141). -/
theorem hookTransition_recall (h : s.AboutToTurn x true) (hst : (s.chip.line x).st = .recall) (hf : s.Flash x) (trip : Bool) :
    exec (.hookTransition x true trip) s = finish s (secondFlash x (s.chip.turned x .off)) := by
  rw [h.exec_judge (by rw [hst]; rfl) trip, judgeBreak_secondFlash (by simpa using hst) (by simpa [State.Flash] using hf)]

/-- A flash in RECALL that is reported and no more: the record is not accepted, and a slot or a request stands (09 R141). -/
theorem hookTransition_reports (h : s.AboutToTurn x true) (hst : (s.chip.line x).st = .recall) (hf : s.Flash x)
    (ha : s.chip.accepted x = false) (hr : (s.chip.line x).slot.isSome ∨ s.chip.listed x = true) (trip : Bool) :
    exec (.hookTransition x true trip) s =
      finish s (emit (some x) (.flash .recall 0) (s.chip.modLine x fun l => l.turned .off)) := by
  rw [hookTransition_recall h hst hf trip, secondFlash_of_requested (by simpa using ha) (by simpa using hr)]
  rfl

/-- A flash in RECALL without a slot and without a request, no slot being to be had (09 R141, 04 R65). -/
theorem hookTransition_waits (h : s.AboutToTurn x true) (hst : (s.chip.line x).st = .recall) (hf : s.Flash x)
    (hs : (s.chip.line x).slot = none) (hq : Queues x s) (hl : s.chip.listed x = false) (hk : (s.chip.line x).asking = false)
    (hc : s.chip.chooseSlot x = none) (trip : Bool) :
    ∃ t, exec (.hookTransition x true trip) s = .next t ∧
      t.chip.line x = { (s.chip.line x).turned .off with askClass := (s.chip.line x).cls } ∧
      t.chip.sst = { s.chip.sst with waitList := waitTail s.chip.sst.waitList ⟨x, .recall, (s.chip.line x).cls⟩ } ∧
      t.chip.jwr = { s.chip.jwr with queue := s.chip.jwr.queue ++ [⟨some x, s.chip.shc.ms, .flash .recall 0⟩] } ∧
      OthersKept x s t ∧ OnlyChanges [.lines, .slots, .journal] s t := by
  have hq' : (s.chip.turned x .off).Queueing x := Chip.Queueing.congr ((queues_iff x s).1 hq) rfl rfl
  have hexec := hookTransition_recall h hst hf trip
  rw [secondFlash_asks (by simpa using hs) (by simpa using hl) (by simpa using hk), emit_of_queueing hq',
    requestSlot_waits (by simpa using hq'.1 ▸ nofun) ((chooseSlot_congr (by rfl) x).trans hc)] at hexec
  refine ⟨_, hexec, by simp, ?_, ?_, fun y hy => ?_, ?_⟩
  · simp [Chip.setWaitList, Chip.turned]
  · simp [Chip.turned]
  · simp [Chip.turned, Chip.line_modLine_ne _ _ hy]
  · apply OnlyChanges.of_chip (m := s.ram) <;> simp [Chip.turned]

/-- A pulse of a line with a slot (03 R38, R41, 09 R140). -/
theorem hookTransition_pulses (h : s.AboutToTurn x true) (hs : (s.chip.line x).slot = some k)
    (hst : (s.chip.line x).st = .dialTone ∨ (s.chip.line x).st = .dialling ∨
      (s.chip.line x).st = .recall ∧ (s.chip.slot k).phase = .valid) (hp : s.Pulse x) (trip : Bool) :
    ∃ t, exec (.hookTransition x true trip) s = .next t ∧
      t.chip.line x = ((s.chip.line x).turned .off).pulsed (s.chip.timing x) ∧ OthersKept x s t ∧
      t.chip.slot k = { s.chip.slot k with ctx := (s.chip.slot k).ctx.pulsed } ∧ OtherSlotsKept k s t ∧
      t.chip.sst.lru = s.chip.sst.lru ∧ t.chip.sst.waitList = s.chip.sst.waitList ∧ OnlyChanges [.lines, .slots] s t := by
  obtain ⟨hw, hsig⟩ := hp
  have hj : (s.chip.line x).st.judging = true := by rcases hst with hc | hc | ⟨hc, -⟩ <;> rw [hc] <;> rfl
  have hpulse : judgeBreak x (s.breakOf x) (s.chip.turned x .off) =
      (s.chip.modLine x fun l => (l.turned .off).pulsed (s.chip.timing x)).modSlot k fun s => { s with ctx := s.ctx.pulsed } := by
    rw [judgeBreak_pulse (k := k) (by simpa using hs) (by simpa using hst) (by simpa using hw) (by simpa using hsig),
      Chip.turned_timing, Chip.turned, Chip.modLine_modLine]
  exact next_modLine_modSlot (h.exec_judge hj trip) hpulse

/-- A hit on a line in DIALLING or in RECALL with a slot (02 R31, R32). -/
theorem hookTransition_hits (h : s.AboutToTurn x true) (hs : (s.chip.line x).slot = some k)
    (hst : (s.chip.line x).st = .dialling ∨ (s.chip.line x).st = .recall)
    (hp : ¬(s.Pulse x ∧ ((s.chip.line x).st = .dialling ∨ (s.chip.slot k).phase = .valid))) (hf : ¬s.Flash x) (trip : Bool) :
    ∃ t, exec (.hookTransition x true trip) s = .next t ∧
      t.chip.line x =
        { (s.chip.line x).turned .off with
          threshold :=
            if ((s.chip.line x).st = .dialling ∨ (s.chip.slot k).phase = .valid) ∧ (s.chip.slot k).ctx.pulses ≠ 0 then
              .digit (toSamples (s.chip.timing x).interdigit)
            else .none } ∧
      OthersKept x s t ∧ OnlyChanges [.lines] s t := by
  have hj : (s.chip.line x).st.judging = true := by rcases hst with hc | hc <;> rw [hc] <;> rfl
  have hhit : judgeBreak x (s.breakOf x) (s.chip.turned x .off) = hit x (s.chip.turned x .off) := by
    refine judgeBreak_hit (fun hw hsig => ?_) (fun hw => absurd (by simpa [State.Flash] using hw) hf)
    have hnot : ¬((s.chip.line x).st = .dialling ∨ (s.chip.slot k).phase = .valid) := fun e =>
      hp ⟨⟨by simpa using hw, by simpa using hsig⟩, e⟩
    rw [Chip.accepted_of_slot (k := k) (by simpa using hs)]
    rcases hst with hc | hc
    · exact absurd (.inl hc) hnot
    · simpa [hc] using hnot
  have hexec := h.exec_judge hj trip
  rw [hhit, hit_eq_modLine (k := k) (by simpa using hs) (by simp) (by simpa using hst)] at hexec
  refine next_modLine (f := fun l => { l.turned .off with threshold := ite _ _ _ }) hexec ?_
  rw [Chip.turned, Chip.modLine_modLine, ← Chip.turned]
  simp

/-- A flash in DIALLING restarts dialling: dial tone again, with the buffer empty and DIAL_RESTART formed (03 R49). -/
theorem hookTransition_restarts (h : s.AboutToTurn x true) (hs : (s.chip.line x).slot = some k)
    (hst : (s.chip.line x).st = .dialling) (hf : s.Flash x) (trip : Bool) :
    ∃ t, exec (.hookTransition x true trip) s = .next t ∧
      t.chip.line x = ({ (s.chip.line x).turned .off with dialling := none } : Line).dialToned (s.chip.timing x).clearAt
        (if flag (s.chip.slot k).copy[0] 1 then .specialDial else .dial) (1000 * (s.chip.timing x).dialTone) ∧
      t.chip.slot k = { s.chip.slot k with ctx := (s.chip.slot k).ctx.cleared } ∧ OtherSlotsKept k s t ∧ OthersKept x s t ∧
      OnlyChanges [.lines, .slots, .journal, .shelf] s t ∧
      (Queues x s → t.chip.jwr =
        { s.chip.jwr with
          queue := s.chip.jwr.queue ++ [⟨some x, s.chip.shc.ms, .dialRestart (s.chip.slot k).ctx.buffer.length⟩] }) := by
  have hexec := h.exec_judge (by rw [hst]; rfl) trip
  rw [judgeBreak_dialRestart (by simpa using hst) (by simpa [State.Flash] using hf),
    dialRestart_of_slot (k := k) (by simpa using hs)] at hexec
  refine ⟨_, hexec, ?_, ?_, fun j hj => ?_, fun y hy => ?_, ?_, fun hq => ?_⟩
  · have hl : ((s.chip.turned x .off).dialEnded x k).line x = { (s.chip.line x).turned .off with dialling := none } := by
      simp [Chip.dialEnded]
    rw [settle_line, Chip.line_modLine_self, hl, Chip.turned_timing]
    rfl
  · simp [Chip.dialEnded]
  · simp [Chip.dialEnded, Chip.slot_modSlot_ne _ _ hj]
  · simp [Chip.dialEnded, Chip.turned, Chip.line_modLine_ne _ _ hy]
  · apply OnlyChanges.of_chip (m := s.ram) <;> simp [Chip.dialEnded, Chip.turned]
  · rw [settle_jwr]
    rw [Chip.modLine_jwr]
    exact emit_jwr_of_queueing ((queues_iff x s).1 hq) (by rfl) (by rfl) _

/-- A flash in RECALL with the record accepted: the buffer empty, FLASH formed, tone and dialling timer as at the acceptance
(09 R141). -/
theorem hookTransition_flashes (h : s.AboutToTurn x true) (hs : (s.chip.line x).slot = some k)
    (hst : (s.chip.line x).st = .recall) (hv : (s.chip.slot k).phase = .valid) (hf : s.Flash x) (trip : Bool) :
    ∃ t, exec (.hookTransition x true trip) s = .next t ∧
      t.chip.line x = (((s.chip.line x).turned .off).toned (if flag (s.chip.slot k).copy[0] 0 then .dial else .none)).dialStarted
        (1000 * (s.chip.timing x).dialling) ∧
      t.chip.slot k = { s.chip.slot k with ctx := (s.chip.slot k).ctx.cleared } ∧ OtherSlotsKept k s t ∧ OthersKept x s t ∧
      OnlyChanges [.lines, .slots, .journal, .shelf] s t ∧
      (Queues x s → t.chip.jwr =
        { s.chip.jwr with
          queue := s.chip.jwr.queue ++ [⟨some x, s.chip.shc.ms, .flash .recall (s.chip.slot k).ctx.buffer.length⟩] }) := by
  have hexec := hookTransition_recall h hst hf trip
  rw [secondFlash_of_accepted (k := k) (by simpa using hs) (by simpa using hv)] at hexec
  refine ⟨_, hexec, ?_, ?_, fun j hj => ?_, fun y hy => ?_, ?_, fun hq => ?_⟩
  · have hl : ((s.chip.turned x .off).recallEnded x k).line x = (s.chip.line x).turned .off := by simp [Chip.recallEnded]
    rw [settle_line, Chip.line_modLine_self, hl, Chip.turned_timing]
    rfl
  · simp [Chip.recallEnded]
  · simp [Chip.recallEnded, Chip.slot_modSlot_ne _ _ hj]
  · simp [Chip.recallEnded, Chip.turned, Chip.line_modLine_ne _ _ hy]
  · apply OnlyChanges.of_chip (m := s.ram) <;> simp [Chip.recallEnded, Chip.turned]
  · rw [settle_jwr]
    rw [Chip.modLine_jwr]
    exact emit_jwr_of_queueing ((queues_iff x s).1 hq) (by rfl) (by rfl) _

end

/-- The first pulse of a line that has turned off-hook, item by item (03 R38). -/
theorem Line.pulsed_of_dialTone {l : Line} (h : l.st = .dialTone) (T : TimingSet) :
    (l.turned .off).pulsed T =
      { l.turned .off with
        st := .dialling
        answered := false
        tone := .none
        dialTone := none
        dialling := some ⟨0, 1000 * T.dialling⟩
        guard := none
        park := none
        howler := none
        threshold := .digit ((T.interdigit + 1) / 2) } := by
  simp [Line.pulsed, h, Line.firstPulsed, Line.digitArmed, Line.dialStarted, Line.toned, Line.enter, Line.turned, toSamples]

/-- A pulse in RECALL of a line that has turned off-hook (09 R140). -/
theorem Line.pulsed_of_recall {l : Line} (h : l.st = .recall) (T : TimingSet) :
    (l.turned .off).pulsed T =
      { l.turned .off with
        tone := if l.tone = .dial then .none else l.tone
        threshold := .digit ((T.interdigit + 1) / 2) } := by
  by_cases ht : l.tone = .dial <;>
    simp [Line.pulsed, h, ht, Line.dialOff, Line.digitArmed, Line.toned, Line.turned, toSamples]

theorem Line.pulsed_of_dialling {l : Line} (h : l.st = .dialling) (T : TimingSet) :
    (l.turned .off).pulsed T = { l.turned .off with threshold := .digit ((T.interdigit + 1) / 2) } := by
  simp [Line.pulsed, h, Line.digitArmed, toSamples]

end Sys2Proof.Machine

section
open Sys2Proof Sys2Proof.Machine

/-- Settles O18: a break by its window and the state of the line: ignored, a flash reported or asking again, a pulse, a hit, a
restart of dialling, a flash of an accepted recall. -/
theorem breakIsJudged : Obligations.BreakIsJudged := by
  unfold Obligations.BreakIsJudged
  intro s x trip h i l T d turned armed pulse
  refine ⟨fun hcase => ?_, fun hst hf hq => ?_, fun hst hf hs hq => ⟨fun hl => ?_, fun hl hk hc => ?_⟩,
    fun k hs => ⟨fun hst hp => ?_, fun hst hp hf => ?_, fun hst hf => ?_, fun hst hf hv => ?_, fun hst hf hv hq => ?_⟩⟩
  · rcases hcase with hc | hc | ⟨hc, hp⟩ | ⟨hc | hc, hf⟩ | ⟨hc, hs, hf⟩ <;> replace hc : (s.chip.line x).st = _ := hc
    · exact hookTransition_ignores h (by rw [hc]; rfl) (by simp [hc]) (by simp [hc]) (by simp [hc]) (by simp [hc]) trip
    · exact hookTransition_ignores h (by rw [hc]; rfl) (by simp [hc]) (by simp [hc]) (by simp [hc]) (by simp [hc]) trip
    · exact hookTransition_ignores h (by rw [hc]; rfl) (by simp [hc]) (by simp [hc]) (fun _ => hp) (by simp [hc]) trip
    · exact hookTransition_ignores h (by rw [hc]; rfl) (by simp [hc]) (by simp [hc]) (by simp [hc]) (absurd · hf) trip
    · exact hookTransition_ignores h (by rw [hc]; rfl) (by simp [hc]) (by simp [hc]) (by simp [hc]) (absurd · hf) trip
    · exact hookTransition_ignores h (by rw [hc]; rfl) (by simp [hc]) (fun _ => Chip.accepted_of_none hs) (by simp [hc])
        (absurd · hf) trip
  · exact next_modLine_emit (hookTransition_routing h hst hf trip) rfl hq
  · exact next_modLine_emit (hookTransition_reports h hst hf (Chip.accepted_of_none hs) (.inr hl) trip) rfl hq
  · exact hookTransition_waits h hst hf hs hq hl hk hc trip
  · obtain ⟨t, ht, hl, ho, hslot, hslots, hlru, -, hframe⟩ := hookTransition_pulses h hs hst hp trip
    refine ⟨t, ht, fun hst => ?_, fun hst => ?_, fun hst => ?_, hslot, hslots, hlru, ho, hframe⟩
    · exact hl.trans (Line.pulsed_of_dialTone hst T)
    · exact hl.trans (Line.pulsed_of_dialling hst T)
    · exact hl.trans (Line.pulsed_of_recall hst T)
  · exact hookTransition_hits h hs hst hp hf trip
  · obtain ⟨t, ht, hl, hslot, hslots, ho, hframe, hq⟩ := hookTransition_restarts h hs hst hf trip
    refine ⟨t, ht, ?_, ?_, ?_, ?_, ?_, ?_, hslot, hslots, ho, hframe, hq⟩ <;> rw [hl]
    · rfl
    · rfl
    · rfl
    · rfl
    · rfl
    · exact hs
  · obtain ⟨t, ht, hl, hslot, hslots, ho, hframe, hq⟩ := hookTransition_flashes h hs hst hv hf trip
    refine ⟨t, ht, ?_, ?_, ?_, ?_, ?_, hslot, hslots, ho, hframe, hq⟩ <;> rw [hl]
    · exact hst
    · rfl
    · rfl
    · rfl
    · exact hs
  · have ha : s.chip.accepted x = false := by simpa [Chip.accepted_of_slot hs] using hv
    have hsome : (s.chip.line x).slot.isSome := by rw [show (s.chip.line x).slot = some k from hs]; rfl
    exact next_modLine_emit (hookTransition_reports h hst hf ha (.inl hsome) trip) rfl hq

end
end

section
/-! SUPPORT. The reads of the start procedure (11 R167): a word an access, and the whole row where the arbiter serves it
throughout. -/

namespace Sys2Proof.Machine

/-! ### Frames in a row -/

theorem Part.Kept.trans {p : Part} {s t u : State} (h : p.Kept s t) (k : p.Kept t u) : p.Kept s u := by
  cases p with
  | lines => exact fun x => (k x).trans (h x)
  | ram => exact fun a => (k a).trans (h a)
  | sets | slots | timebase | scheduler | generator | orders | journal | port | shelf | queue => exact Eq.trans k h

theorem OnlyChanges.refl (ps : List Part) (s : State) : OnlyChanges ps s s := fun p _ => by
  cases p <;> simp [Part.Kept]

theorem OnlyChanges.trans {ps : List Part} {s t u : State} (h : OnlyChanges ps s t) (k : OnlyChanges ps t u) :
    OnlyChanges ps s u := fun p hp => (h p hp).trans (k p hp)

theorem OnlyChanges.mono {ps qs : List Part} {s t : State} (h : OnlyChanges ps s t) (hsub : ps ⊆ qs) : OnlyChanges qs s t :=
  fun p hp => h p fun hin => hp (hsub hin)

/-! ### One access -/

/-- The start procedure is at its read `st` of header, timing sets or plans, and the arbiter serves it (10 R160, 11 R167). -/
structure State.Reading (s : State) (st : StartStep) : Prop where
  serves : s.chip.serves .start = true
  start : s.chip.shc.start = st
  run : s.chip.shc.run = .starting
  area : st = .header ∨ st = .timing ∨ st = .plans

section
variable {s : State} {st : StartStep} {a n : Nat} {all : List Word → Chip → Chip}

/-- The words read so far with the one that the next access reads at `a`. -/
def State.wordsWith (s : State) (a : Nat) : List Word := s.chip.mpt.read ++ [readWord s.ram (a + s.chip.mpt.read.length)]

/-- The state after an access of a read that is not at its end. -/
def State.readOn (s : State) (a : Nat) : State :=
  { s with chip := settle s.chip ((release s.chip).modMpt fun m => { m with read := s.wordsWith a }) }

/-- An access that is not the last of `n` adds its word to those read. -/
theorem startAccess_more (h : s.Reading st) (hn : s.chip.mpt.read.length + 1 < n) :
    startAccess st a n all s = .next (s.readOn a) := by
  have hlen : (s.chip.mpt.read ++ [readWord s.ram (a + s.chip.mpt.read.length)]).length < n := by simpa using hn
  simp only [startAccess, h.serves, h.start, and_self, if_true, if_pos hlen]
  rfl

/-- The last access hands over the words. -/
theorem startAccess_last (h : s.Reading st) (hn : n ≤ s.chip.mpt.read.length + 1) :
    startAccess st a n all s =
      finish s (all (s.wordsWith a) ((release s.chip).modMpt fun m => { m with read := [] })) := by
  have hlen : ¬(s.chip.mpt.read ++ [readWord s.ram (a + s.chip.mpt.read.length)]).length < n := by simpa using hn
  simp only [startAccess, h.serves, h.start, and_self, if_true, if_neg hlen]
  rfl

/-- While the start procedure reads, the arbiter takes its next access (10 R160, 11 R167). -/
theorem Chip.nextAccess_of_reading {c : Chip} (hrun : c.shc.run = .starting)
    (hst : c.shc.start = .header ∨ c.shc.start = .timing ∨ c.shc.start = .plans) : c.nextAccess = some .start := by
  rcases hst with hst | hst | hst <;>
    simp [Chip.nextAccess, Chip.journalWants, Chip.journalOpen, Chip.readWants, hrun, hst]

/-- The read goes on after an access that is not its last. -/
theorem State.Reading.readOn (h : s.Reading st) (a : Nat) : (s.readOn a).Reading st where
  serves := by
    have hbusy := settle_busy s.chip ((release s.chip).modMpt fun m => { m with read := s.wordsWith a })
    rw [Chip.nextAccess_of_reading (by simpa [release] using h.run) (by simpa [release, h.start] using h.area)] at hbusy
    exact beq_iff_eq.2 hbusy
  start := by simpa [State.readOn, release] using h.start
  run := by simpa [State.readOn, release] using h.run
  area := h.area

@[simp] theorem State.readOn_shc (s : State) (a : Nat) : (s.readOn a).chip.shc = s.chip.shc := by
  simp [State.readOn, release]

@[simp] theorem State.readOn_read (s : State) (a : Nat) : (s.readOn a).chip.mpt.read = s.wordsWith a := by
  simp [State.readOn]

@[simp] theorem State.readOn_ram (s : State) (a : Nat) : (s.readOn a).ram = s.ram := rfl

/-- The Memory Port but for the words read and the access in progress. -/
def Mpt.unread (m : Mpt) : Mpt := { m with read := [], busy := none }

/-- An access of a read that is not at its end touches nothing but the words read. -/
theorem State.readOn_only (s : State) (a : Nat) :
    OnlyChanges [.port] s (s.readOn a) ∧ (s.readOn a).chip.mpt.unread = s.chip.mpt.unread := by
  constructor
  · apply OnlyChanges.of_chip (m := s.ram) <;> simp [release]
  · rw [State.readOn, settle_eq]
    rfl

/-! ### The whole row -/

/-- The words of a read of `n` words from `a` on: those read so far and those still in the RAM. -/
def State.allWords (s : State) (a n : Nat) : List Word :=
  s.chip.mpt.read ++ (List.range (n - s.chip.mpt.read.length)).map fun j => readWord s.ram (a + s.chip.mpt.read.length + j)

theorem State.allWords_last (s : State) (a : Nat) : s.allWords a (s.chip.mpt.read.length + 1) = s.wordsWith a := by
  simp [State.allWords, State.wordsWith]

/-- An access leaves the words of the whole read as they are. -/
theorem State.allWords_readOn (s : State) {a n : Nat} (hn : s.chip.mpt.read.length < n) :
    (s.readOn a).allWords a n = s.allWords a n := by
  obtain ⟨m, rfl⟩ : ∃ m, n = s.chip.mpt.read.length + 1 + m := ⟨_, (Nat.add_sub_cancel' hn).symm⟩
  have e1 : s.chip.mpt.read.length + 1 + m - s.chip.mpt.read.length = m + 1 := by omega
  have e2 : s.chip.mpt.read.length + 1 + m - (s.chip.mpt.read.length + 1) = m := by omega
  simp only [State.allWords, State.readOn_read, State.readOn_ram, State.wordsWith, List.length_append, List.length_singleton,
    e1, e2, List.range_succ_eq_map, List.map_cons, List.map_map, List.append_assoc, List.singleton_append, Nat.add_zero]
  congr 3
  funext j
  simp only [Function.comp_apply]
  congr 1
  omega

/-- A row that is at its last word ends with it. -/
theorem accesses_startAccess_last {one : State → Out} (hall : ∀ ws c, (all ws c).mpt.read = c.mpt.read) (more : Nat)
    (hone : one s = startAccess st a n all s) (h : s.Reading st) (hn : n = s.chip.mpt.read.length + 1) :
    accesses Chip.readUnderWay one more s =
      finish s (all (s.allWords a n) ((release s.chip).modMpt fun m => { m with read := [] })) := by
  rw [hn, State.allWords_last]
  exact accesses_done (hone.trans (startAccess_last h hn.le)) (by simp [Chip.readUnderWay, hall]) more

/-- A row of accesses that reads `n` words from `a` on, served to its end: it hands over the words in a state in which nothing but
the words read has changed (10 R160, 11 R167). -/
theorem accesses_startAccess {one : State → Out} (hall : ∀ ws c, (all ws c).mpt.read = c.mpt.read) (more : Nat)
    (hone : ∀ u : State, u.Reading st → u.chip.shc = s.chip.shc → one u = startAccess st a n all u) (h : s.Reading st)
    (hn : s.chip.mpt.read.length < n) (hm : n ≤ s.chip.mpt.read.length + 1 + more) :
    ∃ u, OnlyChanges [.port] s u ∧ u.chip.mpt.unread = s.chip.mpt.unread ∧
      accesses Chip.readUnderWay one more s =
        finish u (all (s.allWords a n) ((release u.chip).modMpt fun m => { m with read := [] })) := by
  induction more generalizing s with
  | zero => exact ⟨s, OnlyChanges.refl _ s, rfl, accesses_startAccess_last hall 0 (hone s h rfl) h (by omega)⟩
  | succ more ih =>
    by_cases hlast : n = s.chip.mpt.read.length + 1
    · exact ⟨s, OnlyChanges.refl _ s, rfl, accesses_startAccess_last hall _ (hone s h rfl) h hlast⟩
    · have hstep : one s = .next (s.readOn a) := (hone s h rfl).trans (startAccess_more h (by omega))
      have hlen : (s.readOn a).chip.mpt.read.length = s.chip.mpt.read.length + 1 := by simp [State.wordsWith]
      have hway : (s.readOn a).chip.readUnderWay = true := by simp [Chip.readUnderWay, State.wordsWith]
      obtain ⟨hframe, hport⟩ := s.readOn_only a
      obtain ⟨u, hu, hup, e⟩ := ih (fun v hv hs => hone v hv (hs.trans (s.readOn_shc a))) (h.readOn a) (by omega) (by omega)
      refine ⟨u, hframe.trans hu, hup.trans hport, ?_⟩
      rw [accesses_succ hstep hway, e, State.allWords_readOn s hn]

end

end Sys2Proof.Machine
end

section
/-! SUPPORT. The timing sets as they are read, clamped and repaired (02 R26, R27). -/

namespace Sys2Proof.Machine

/-- A word of 16 taken out of a list. -/
theorem getD_drop_take (ws : List Word) (k : Nat) {i : Nat} (hi : i < 16) :
    ((ws.drop k).take 16).getD i 0 = ws.getD (k + i) 0 := by
  simp [List.getD_eq_getElem?_getD, List.getElem?_drop, hi]

/-- A timing set as read: every value clamped to its range, then pulse max, flash min, flash max and interdigit min repaired by
the values left before them (02 R26, R27). -/
theorem parseTiming_fields (ws : List Word) :
    let w := fun j => (ws.getD j 0).toNat
    let T := parseTiming ws
    T.debounce = clamp 2 15 (w 0) ∧ T.pulseMin = clamp 10 60 (w 1) ∧ T.pulseMax = max (clamp 40 150 (w 2)) T.pulseMin ∧
      T.flashMin = (if clamp 60 400 (w 4) ≤ T.pulseMax then T.pulseMax + 2 else clamp 60 400 (w 4)) ∧
      T.flashMax = max (clamp 200 1500 (w 5)) T.flashMin ∧
      T.interdigit = (if clamp 150 600 (w 3) ≤ T.pulseMax then T.pulseMax + 2 else clamp 150 600 (w 3)) ∧
      T.dialTone = clamp 5 60 (w 6) ∧ T.dialling = clamp 3 30 (w 7) ∧ T.releaseGuard = clamp 100 2000 (w 8) ∧
      T.postRing = clamp 0 1000 (w 9) ∧ T.tripConfirm = clamp 2 10 (w 10) ∧ T.burstBlank = clamp 0 10 (w 11) ∧
      T.parkDelay = clamp 0 120 (w 12) ∧ T.howler = clamp 5 120 (w 13) :=
  ⟨rfl, rfl, rfl, rfl, rfl, rfl, rfl, rfl, rfl, rfl, rfl, rfl, rfl, rfl⟩

/-- Each timing set is that of its 16 words (02 R26). -/
theorem takeTiming_set (ws : List Word) (c : Chip) (k : SetNo) :
    (takeTiming ws c).sets[k] = parseTiming ((ws.drop (16 * k.val)).take 16) := by
  simp [takeTiming]

section
variable {s : State}

/-- TIMING_SET_READ_COMPLETE makes its accesses in the area that the header names (02 R26, 11 R167). -/
theorem areaAccess_timing (hfit : s.chip.base + s.chip.shc.hdr.timing + 64 ≤ Config.ramWords) (u : State) (h : u.Reading .timing)
    (hs : u.chip.shc = s.chip.shc) :
    areaAccess .timing (u.chip.timingAddr 0) 64 takeTiming u =
      startAccess .timing (s.chip.base + s.chip.shc.hdr.timing) 64 takeTiming u := by
  have ha : u.chip.timingAddr 0 = s.chip.base + s.chip.shc.hdr.timing := by
    simp [Chip.timingAddr, Chip.base, hs]
  rw [areaAccess, if_pos ⟨h.serves, h.start⟩, ha, inRam_of_le hfit]

end

end Sys2Proof.Machine

section
open Sys2Proof Sys2Proof.Machine

/-- Settles O52: the row reads its 64 words and takes them with the last. -/
theorem timingSetsAreClampedAndRepaired : Obligations.TimingSetsAreClampedAndRepaired := by
  unfold Obligations.TimingSetsAreClampedAndRepaired
  intro s hserves hstart hrun a n hfit
  have h : s.Reading .timing := ⟨hserves, hstart, hrun, .inr (.inl rfl)⟩
  refine ⟨fun hn => ?_, fun more hn hm => ?_⟩
  · refine ⟨s.readOn a, ?_, ?_, (s.readOn_only a).1⟩
    · exact (areaAccess_timing hfit s h rfl).trans (startAccess_more h (Nat.succ_lt_succ hn))
    · rw [State.readOn, settle_mpt_busy]
      rfl
  · obtain ⟨u, hu, hport, e⟩ := accesses_startAccess (all := takeTiming) (fun _ _ => rfl) more (areaAccess_timing hfit) h
      (Nat.lt_succ_of_le hn) (by omega)
    intro ws
    have hexec : exec (.timingSetReadComplete more) s =
        finish u (takeTiming ws ((release u.chip).modMpt fun m => { m with read := [] })) := e
    refine ⟨_, hexec, ?_, fun k => ?_, ?_, ?_⟩
    · have hshc : u.chip.shc = s.chip.shc := hu .shelf (by decide)
      rw [settle_shc, ← hshc]
      rfl
    · have hset := takeTiming_set ws ((release u.chip).modMpt fun m => { m with read := [] }) k
      have hfields := parseTiming_fields ((ws.drop (16 * k.val)).take 16)
      rw [settle_sets, hset]
      simp only [getD_drop_take, Nat.reduceLT] at hfields
      exact hfields
    · rw [settle_mpt_busy]
      exact hport
    · refine (hu.mono (by decide)).trans ?_
      apply OnlyChanges.of_chip (m := u.ram) <;> simp [takeTiming, release]

end
end

section
/-! SUPPORT. The per-line work of a step boundary that ends no ringing (05 R75, R82, R83): what it does to the line and to its
slot, and that the lines of one boundary do not touch one another. -/

namespace Sys2Proof.Machine

/-! ### A relay moved -/

/-- The line with its relay moved to a position, or left alone. -/
def Line.relayTo (l : Line) (blank : Nat) : Option Bool → Line
  | some closed => l.moveRelay blank closed
  | none => l

section
variable (l : Line) (blank : Nat)

@[simp] theorem Line.moveRelay_relay (closed : Bool) : (l.moveRelay blank closed).relay = closed := by
  unfold Line.moveRelay
  split
  · assumption
  · cases closed <;> rfl

@[simp] theorem Line.moveRelay_slot (closed : Bool) : (l.moveRelay blank closed).slot = l.slot := by
  unfold Line.moveRelay
  split_ifs <;> rfl

@[simp] theorem Line.relayTo_slot (o : Option Bool) : (l.relayTo blank o).slot = l.slot := by
  cases o with
  | none => rfl
  | some closed => exact l.moveRelay_slot blank closed

end

section
variable {l : Line} {blank : Nat} {o : Option Bool}

/-- A relay that closes (02 R22). -/
theorem Line.relayTo_closes (h : l.relay = false) (h' : (l.relayTo blank o).relay = true) :
    l.relayTo blank o = { l with relay := true, run := 0, tripRun := 0, blank := 0, mark := true } := by
  cases o with
  | none => exact absurd (h.symm.trans h') nofun
  | some closed =>
    obtain rfl : closed = true := (l.moveRelay_relay blank closed).symm.trans h'
    simp [Line.relayTo, Line.moveRelay, h]

/-- A relay that opens (02 R22). -/
theorem Line.relayTo_opens (h : l.relay = true) (h' : (l.relayTo blank o).relay = false) :
    l.relayTo blank o = { l with relay := false, tripRun := 0, blank := blank, mark := true } := by
  cases o with
  | none => exact absurd (h.symm.trans h') nofun
  | some closed =>
    obtain rfl : closed = false := (l.moveRelay_relay blank closed).symm.trans h'
    simp [Line.relayTo, Line.moveRelay, h]

end

/-! ### The work of one line -/

/-- The position to which a boundary moves the relay of a line with call context `k`: the plan's once the first burst is given,
closed for the first burst at the plan wrap, and else none (05 R82). -/
def Chip.drives (c : Chip) (k : Ctx) : Option Bool :=
  match k.alloc with
  | some a =>
    if k.burst then some (onAt c.shc.hdr.n ((c.ctb.active[a.plan]).getD []) a.phase c.ctb.step)
    else if a.phase = c.ctb.step then some true
    else none
  | none => none

/-- The call context after a boundary that begins cycle step `step`: at the plan wrap a cycle is counted or the first burst is given
(05 R82, R83). -/
def Ctx.atBoundary (k : Ctx) (step : Nat) : Ctx :=
  match k.alloc with
  | some a => if a.phase = step then (if k.burst then k.countCycle else { k with burst := true }) else k
  | none => k

section
variable {c : Chip} {k : Ctx} {a : Alloc} (ha : k.alloc = some a)
include ha

/-- Once the first burst is given the relay follows the plan (05 R82). -/
theorem Chip.drives_of_burst (hb : k.burst = true) :
    c.drives k = some (onAt c.shc.hdr.n ((c.ctb.active[a.plan]).getD []) a.phase c.ctb.step) := by
  simp only [Chip.drives, ha, hb, if_true]

/-- The first burst is given at the plan wrap (05 R82). -/
theorem Chip.drives_of_wrap (hb : k.burst = false) (hw : a.phase = c.ctb.step) : c.drives k = some true := by
  simp only [Chip.drives, ha, hb, hw, Bool.false_eq_true, if_false, if_true]

/-- Before it the relay is left alone (05 R82). -/
theorem Chip.drives_of_wait (hb : k.burst = false) (hw : a.phase ≠ c.ctb.step) : c.drives k = none := by
  simp only [Chip.drives, ha, hb, hw, Bool.false_eq_true, if_false]

theorem Ctx.atBoundary_counts (hb : k.burst = true) {n : Nat} (hw : a.phase = n) : k.atBoundary n = k.countCycle := by
  simp only [Ctx.atBoundary, ha, hb, hw, if_true]

theorem Ctx.atBoundary_bursts (hb : k.burst = false) {n : Nat} (hw : a.phase = n) :
    k.atBoundary n = { k with burst := true } := by
  simp only [Ctx.atBoundary, ha, hb, hw, Bool.false_eq_true, if_false, if_true]

theorem Ctx.atBoundary_of_ne {n : Nat} (hw : a.phase ≠ n) : k.atBoundary n = k := by
  simp only [Ctx.atBoundary, ha, hw, if_false]

end

/-- The line after its work at a boundary. -/
def Chip.lineAtBoundary (c : Chip) (x : LineNo) : Line :=
  (c.line x).relayTo (c.timing x).burstBlank ((c.ctx x).bind c.drives)

/-- A slot after the work of its line at a boundary. -/
def Chip.slotAtBoundary (c : Chip) (k : SlotNo) : Slot :=
  { c.slot k with ctx := (c.slot k).ctx.atBoundary c.ctb.step }

theorem Chip.slotAtBoundary_of_ne {c : Chip} {k : SlotNo} {a : Alloc} (ha : (c.slot k).ctx.alloc = some a)
    (hw : a.phase ≠ c.ctb.step) : c.slotAtBoundary k = c.slot k := by
  rw [Chip.slotAtBoundary, Ctx.atBoundary_of_ne ha hw]

section
variable {c : Chip} {x : LineNo} {k : SlotNo}

/-- A line without a slot has no work at a boundary. -/
theorem boundaryLine_of_none (hs : (c.line x).slot = none) : boundaryLine x c = c := by
  simp [boundaryLine, Chip.alloc, Chip.ctx, hs]

theorem setRelay_eq (x : LineNo) (closed : Bool) (c : Chip) :
    setRelay x closed c = c.modLine x fun l => l.relayTo (c.timing x).burstBlank (some closed) := rfl

theorem modCtx_timing (x y : LineNo) (f : Ctx → Ctx) (c : Chip) : (modCtx x f c).timing y = c.timing y := by
  unfold modCtx
  split <;> rfl

/-- The work of a line with slot k whose ringing does not end is one update of the line and one of the slot. -/
theorem boundaryLine_of_slot (hs : (c.line x).slot = some k) (he : c.countEnds x = false) :
    boundaryLine x c =
      (c.modLine x fun l => l.relayTo (c.timing x).burstBlank (c.drives (c.slot k).ctx)).modSlot k fun s =>
        { s with ctx := s.ctx.atBoundary c.ctb.step } := by
  have hctx : c.ctx x = some (c.slot k).ctx := Chip.ctx_of_slot hs
  have halloc : c.alloc x = (c.slot k).ctx.alloc := by simp [Chip.alloc, hctx]
  have hslot {f : Ctx → Ctx} (h : (c.slot k).ctx.atBoundary c.ctb.step = f (c.slot k).ctx) :
      (c.modSlot k fun s => { s with ctx := s.ctx.atBoundary c.ctb.step }) = modCtx x f c := by
    rw [modCtx_of_slot hs]
    exact Chip.modSlot_congr (by rw [h])
  have hkeep (h : (c.slot k).ctx.atBoundary c.ctb.step = (c.slot k).ctx) :
      (c.modSlot k fun s => { s with ctx := s.ctx.atBoundary c.ctb.step }) = c :=
    (Chip.modSlot_congr (g := fun s => s) (by rw [h])).trans (c.modSlot_id k)
  have hswap (f : Line → Line) (g : Slot → Slot) : (c.modLine x f).modSlot k g = (c.modSlot k g).modLine x f := rfl
  rw [hswap]
  unfold boundaryLine
  cases ha : (c.slot k).ctx.alloc with
  | none =>
    simp only [halloc, ha, hctx]
    rw [hkeep (by simp only [Ctx.atBoundary, ha]), Chip.drives, ha]
    exact (c.modLine_id x).symm
  | some a =>
    simp only [halloc, ha, hctx, he]
    cases hb : (c.slot k).ctx.burst
    · by_cases hw : a.phase = c.ctb.step
      · rw [hslot (f := fun k => { k with burst := true }) (Ctx.atBoundary_bursts ha hb hw), Chip.drives_of_wrap ha hb hw]
        simp [hw, setRelay_eq, modCtx_timing]
      · rw [hkeep (Ctx.atBoundary_of_ne ha hw), Chip.drives_of_wait ha hb hw]
        simp [hw, Line.relayTo, Chip.modLine_id]
    · rw [Chip.drives_of_burst ha hb]
      by_cases hw : a.phase = c.ctb.step
      · rw [hslot (f := Ctx.countCycle) (Ctx.atBoundary_counts ha hb hw)]
        simp [hw, setRelay_eq, modCtx_timing]
      · rw [hkeep (Ctx.atBoundary_of_ne ha hw)]
        simp [hw, setRelay_eq]

/-- The work of one line touches lines and slots alone. -/
theorem boundaryLine_parts (he : c.countEnds x = false) :
    boundaryLine x c = { c with lines := (boundaryLine x c).lines, sst := (boundaryLine x c).sst } := by
  cases hs : (c.line x).slot with
  | none => rw [boundaryLine_of_none hs]
  | some k =>
    rw [boundaryLine_of_slot hs he]
    rfl

theorem boundaryLine_line_self (he : c.countEnds x = false) : (boundaryLine x c).line x = c.lineAtBoundary x := by
  cases hs : (c.line x).slot with
  | none =>
    rw [boundaryLine_of_none hs]
    simp [Chip.lineAtBoundary, Chip.ctx, hs, Line.relayTo]
  | some k =>
    rw [boundaryLine_of_slot hs he]
    simp [Chip.lineAtBoundary, Chip.ctx_of_slot hs]

theorem boundaryLine_line_ne (he : c.countEnds x = false) {y : LineNo} (h : y ≠ x) :
    (boundaryLine x c).line y = c.line y := by
  cases hs : (c.line x).slot with
  | none => rw [boundaryLine_of_none hs]
  | some k =>
    rw [boundaryLine_of_slot hs he]
    simp [Chip.line_modLine_ne _ _ h]

theorem boundaryLine_slot_self (he : c.countEnds x = false) (hs : (c.line x).slot = some k) :
    (boundaryLine x c).slot k = c.slotAtBoundary k := by
  rw [boundaryLine_of_slot hs he]
  simp [Chip.slotAtBoundary]

theorem boundaryLine_slot_other (he : c.countEnds x = false) (h : (c.line x).slot ≠ some k) :
    (boundaryLine x c).slot k = c.slot k := by
  cases hs : (c.line x).slot with
  | none => rw [boundaryLine_of_none hs]
  | some j =>
    rw [boundaryLine_of_slot hs he]
    have hne : k ≠ j := fun e => h (by rw [hs, e])
    simp [Chip.slot_modSlot_ne _ _ hne]

/-- No line changes its slot at a boundary that ends no ringing. -/
theorem boundaryLine_line_slot (he : c.countEnds x = false) (y : LineNo) :
    ((boundaryLine x c).line y).slot = (c.line y).slot := by
  by_cases h : y = x
  · rw [h, boundaryLine_line_self he, Chip.lineAtBoundary, Line.relayTo_slot]
  · rw [boundaryLine_line_ne he h]

end

/-! ### The work of all lines -/

/-- No slot is held by two lines (06 R89). -/
def Chip.SlotsApart (c : Chip) : Prop := ∀ x y : LineNo, (c.line x).slot = (c.line y).slot → (c.line x).slot ≠ none → x = y

/-- Two chips in which line x has the same work at a boundary. -/
structure Chip.SameWork (c d : Chip) (x : LineNo) : Prop where
  line : d.line x = c.line x
  slot : ∀ k, (c.line x).slot = some k → d.slot k = c.slot k
  sets : d.sets = c.sets
  ctb : d.ctb = c.ctb
  shc : d.shc = c.shc

section
variable {c d : Chip} {x : LineNo}

theorem Chip.SameWork.ctx (h : c.SameWork d x) : d.ctx x = c.ctx x := by
  unfold Chip.ctx
  rw [h.line]
  cases hs : (c.line x).slot with
  | none => rfl
  | some k => simp only [Option.map_some, h.slot k hs]

theorem Chip.SameWork.countEnds (h : c.SameWork d x) : d.countEnds x = c.countEnds x := by
  simp only [Chip.countEnds, Chip.alloc, h.ctx, h.ctb]

theorem Chip.SameWork.lineAtBoundary (h : c.SameWork d x) : d.lineAtBoundary x = c.lineAtBoundary x := by
  have hdrives : d.drives = c.drives := by
    funext k
    simp only [Chip.drives, h.ctb, h.shc]
  simp only [Chip.lineAtBoundary, Chip.timing, h.line, h.ctx, h.sets, hdrives]

theorem Chip.SameWork.slotAtBoundary (h : c.SameWork d x) {k : SlotNo} (hs : (c.line x).slot = some k) :
    d.slotAtBoundary k = c.slotAtBoundary k := by
  simp only [Chip.slotAtBoundary, h.slot k hs, h.ctb]

/-- The work of one line leaves that of every other as it was. -/
theorem boundaryLine_sameWork (ha : c.SlotsApart) (he : c.countEnds x = false) {y : LineNo} (h : y ≠ x) :
    c.SameWork (boundaryLine x c) y where
  line := boundaryLine_line_ne he h
  slot k hk := boundaryLine_slot_other he fun e => h (ha y x (hk.trans e.symm) (by simp [hk]))
  sets := by rw [boundaryLine_parts he]
  ctb := by rw [boundaryLine_parts he]
  shc := by rw [boundaryLine_parts he]

/-- The chip `d` is the chip `c` after the work of the lines of `l` at a boundary. -/
structure Chip.Worked (c d : Chip) (l : List LineNo) : Prop where
  line : ∀ x ∈ l, d.line x = c.lineAtBoundary x
  otherLine : ∀ x ∉ l, d.line x = c.line x
  slot : ∀ x ∈ l, ∀ k, (c.line x).slot = some k → d.slot k = c.slotAtBoundary k
  otherSlot : ∀ k, (∀ x ∈ l, (c.line x).slot ≠ some k) → d.slot k = c.slot k
  parts : d = { c with lines := d.lines, sst := d.sst }

/-- The lines of a boundary that ends no ringing each have their own work, in whatever order they are taken (05 R82, log 12). -/
theorem worked_foldl {l : List LineNo} (hl : l.Nodup) (ha : c.SlotsApart) (he : ∀ x ∈ l, c.countEnds x = false) :
    c.Worked (l.foldl (fun c x => boundaryLine x c) c) l := by
  induction l generalizing c with
  | nil => exact ⟨nofun, fun _ _ => rfl, nofun, fun _ _ => rfl, rfl⟩
  | cons x l ih =>
    obtain ⟨hx, hl⟩ := List.nodup_cons.1 hl
    have hex : c.countEnds x = false := he x List.mem_cons_self
    have hsame {y : LineNo} (hy : y ∈ l) : c.SameWork (boundaryLine x c) y :=
      boundaryLine_sameWork ha hex fun e => hx (e ▸ hy)
    have hslots := boundaryLine_line_slot hex
    have hrest : (boundaryLine x c).Worked (l.foldl (fun c x => boundaryLine x c) (boundaryLine x c)) l := by
      refine ih hl (fun y z => ?_) fun y hy => ?_
      · simpa only [hslots] using ha y z
      · rw [(hsame hy).countEnds]
        exact he y (List.mem_cons_of_mem _ hy)
    refine ⟨fun y hy => ?_, fun y hy => ?_, fun y hy k hk => ?_, fun k hk => ?_, ?_⟩
    · rcases List.mem_cons.1 hy with rfl | hy
      · exact (hrest.otherLine y hx).trans (boundaryLine_line_self hex)
      · exact (hrest.line y hy).trans (hsame hy).lineAtBoundary
    · obtain ⟨hne, hy⟩ := List.ne_and_not_mem_of_not_mem_cons hy
      exact (hrest.otherLine y hy).trans (boundaryLine_line_ne hex hne)
    · rcases List.mem_cons.1 hy with rfl | hy
      · have hother : ∀ z ∈ l, ((boundaryLine y c).line z).slot ≠ some k := fun z hz e =>
          hx (ha y z (by rw [hk, ← e, hslots]) (by simp [hk]) ▸ hz)
        exact (hrest.otherSlot k hother).trans (boundaryLine_slot_self hex hk)
      · exact (hrest.slot y hy k ((hslots y).trans hk)).trans ((hsame hy).slotAtBoundary hk)
    · refine (hrest.otherSlot k fun y hy => ?_).trans (boundaryLine_slot_other hex (hk x List.mem_cons_self))
      rw [hslots]
      exact hk y (List.mem_cons_of_mem _ hy)
    · rw [List.foldl_cons, hrest.parts, boundaryLine_parts hex]

end

/-! ### The boundary -/

/-- The chip with the counter at its next step, where that is no cycle wrap (05 R82). -/
def Chip.stepped (c : Chip) : Chip := c.modCtb fun t => { t with step := t.step + 1, periods := 0 }

theorem beginStep_of_lt {c : Chip} (h : c.ctb.step + 1 < c.shc.hdr.n) : beginStep c = (c.stepped, c.rsc.allocs) := by
  have hnext : c.nextStep = c.ctb.step + 1 := if_neg (Nat.not_le.2 h)
  simp only [beginStep, hnext, Nat.succ_ne_zero, if_false]
  rfl

/-- A boundary that is no cycle wrap and ends no ringing is the work of its allocations (05 R82). -/
theorem boundary_worked {c : Chip} (h : c.ctb.step + 1 < c.shc.hdr.n) (he : ∀ x, c.ringEnds x = false) (ha : c.SlotsApart) :
    c.stepped.Worked (boundary c) (allLines.filter (· ∈ c.rsc.allocs)) := by
  have hends : ∀ x ∈ allLines.filter (· ∈ c.rsc.allocs), c.stepped.countEnds x = false := fun x hx => by
    have hin : x ∈ c.rsc.allocs := by simpa using (List.mem_filter.1 hx).2
    simpa [Chip.ringEnds, beginStep_of_lt h, hin] using he x
  have hfold := worked_foldl ((List.nodup_finRange 96).filter _) (c := c.stepped) ha hends
  rwa [boundary, beginStep_of_lt h]

theorem mem_filter_allLines {l : List LineNo} {x : LineNo} : x ∈ allLines.filter (· ∈ l) ↔ x ∈ l := by
  simp [allLines]

/-- An allocated line after such a boundary: its relay moved as its call context gives it. -/
theorem Chip.Worked.line_of_slot {c d : Chip} {l : List LineNo} (h : c.stepped.Worked d l) {x : LineNo} (hx : x ∈ l) {k : SlotNo}
    (hs : (c.line x).slot = some k) :
    d.line x = (c.line x).relayTo (c.timing x).burstBlank (c.stepped.drives (c.slot k).ctx) := by
  have hctx : c.stepped.ctx x = some (c.slot k).ctx := Chip.ctx_of_slot (c := c.stepped) hs
  rw [h.line x hx, Chip.lineAtBoundary, hctx]
  rfl

/-- Any line after such a boundary, its relay moved or left alone. -/
theorem Chip.Worked.line_relayTo {c d : Chip} {l : List LineNo} (h : c.stepped.Worked d l) (x : LineNo) :
    ∃ o, d.line x = (c.line x).relayTo (c.timing x).burstBlank o := by
  by_cases hx : x ∈ l
  · exact ⟨_, h.line x hx⟩
  · exact ⟨none, h.otherLine x hx⟩

end Sys2Proof.Machine

section
open Sys2Proof Sys2Proof.Machine

/-- Settles O30: each allocated line has its own work, which moves its relay and counts in its slot. -/
theorem boundaryDrivesTheRelays : Obligations.BoundaryDrivesTheRelays := by
  unfold Obligations.BoundaryDrivesTheRelays
  intro s hdue hstep hends hapart
  have hexec : exec .stepBoundary s = finish s (boundary s.chip) := if_pos hdue
  have hw := boundary_worked hstep hends hapart
  refine ⟨_, hexec, ?_, ?_, fun x => ?_, fun x hx => ?_, ?_⟩
  · rw [settle_ctb, hw.parts]
    rfl
  · intro x k a hx hs ha n on wraps
    have hline := hw.line_of_slot (mem_filter_allLines.2 hx) hs
    have hslot := hw.slot x (mem_filter_allLines.2 hx) k hs
    have hkeep (hne : ¬wraps) : s.chip.stepped.slotAtBoundary k = s.chip.slot k :=
      Chip.slotAtBoundary_of_ne (c := s.chip.stepped) ha hne
    rw [settle_line, settle_slot, hline, hslot]
    refine ⟨fun hb => ⟨?_, fun hwrap => ?_, hkeep⟩,
      fun hb => ⟨fun hwrap => ⟨?_, ?_⟩, fun hne => ⟨?_, hkeep hne⟩⟩⟩
    · rw [Chip.drives_of_burst ha hb]
      exact Line.moveRelay_relay _ _ _
    · refine (Ctx.atBoundary_counts ha hb hwrap).trans ?_
      simp [Ctx.countCycle, ha]
    · rw [Chip.drives_of_wrap ha hb hwrap]
      exact Line.moveRelay_relay _ _ _
    · exact Ctx.atBoundary_bursts ha hb hwrap
    · rw [Chip.drives_of_wait ha hb hne]
      rfl
  · obtain ⟨o, ho⟩ := hw.line_relayTo x
    rw [settle_line, ho]
    exact ⟨Line.relayTo_closes, Line.relayTo_opens⟩
  · rw [settle_line]
    exact hw.otherLine x (mem_filter_allLines.not.2 hx)
  · rw [hw.parts]
    apply OnlyChanges.of_chip (m := s.ram) <;> simp [Chip.stepped]

end
end

section
/-! SUPPORT. Which slot a request takes (04 R58, R65), and what a seizure comes to with it (03 R34 to R37, 04 R59, R61). -/

namespace Sys2Proof.Machine

/-! ### The Slot Wait List (04 R65) -/

section
variable {ps os : List SlotWait} {e : SlotWait}

theorem waitTail_of_priority (hp : ∀ p ∈ ps, p.cls = .priority) (ho : ∀ o ∈ os, o.cls = .ordinary) (he : e.cls = .priority) :
    waitTail (ps ++ os) e = ps ++ e :: os := by
  have hfirst : (ps ++ os).filter (·.cls = .priority) = ps := by
    rw [List.filter_append, List.filter_eq_self.2 (by simpa using hp),
      List.filter_eq_nil_iff.2 (fun o h => by simp [ho o h]), List.append_nil]
  have hlast : (ps ++ os).filter (·.cls ≠ .priority) = os := by
    rw [List.filter_append, List.filter_eq_nil_iff.2 (fun p h => by simp [hp p h]),
      List.filter_eq_self.2 (fun o h => by simp [ho o h]), List.nil_append]
  simp only [waitTail, he, hfirst, hlast]

theorem waitTail_of_ordinary (l : List SlotWait) (he : e.cls = .ordinary) : waitTail l e = l ++ [e] := by
  simp only [waitTail, he]

end

/-! ### The choice of a slot (04 R58) -/

section
variable {c : Chip} {x : LineNo} {i : SlotNo}

/-- The slot may be taken: it is not BOUND, or is fetched without a holder. -/
def Chip.SlotIdle (c : Chip) (i : SlotNo) : Prop := (c.slot i).status ≠ .bound ∨ (c.slot i).holder = none

/-- Step 1: the slot is locked to the line and may be taken. -/
def Chip.OwnSlot (c : Chip) (x : LineNo) (i : SlotNo) : Prop := (c.slot i).lock = some x ∧ c.SlotIdle i

/-- Step 2: the slot is unlocked, holds the line's record or fetches it, and may be taken. -/
def Chip.CopySlot (c : Chip) (x : LineNo) (i : SlotNo) : Prop :=
  (c.slot i).lock = none ∧ (c.slot i).recLine = some x ∧ (c.slot i).status ≠ .empty ∧ c.SlotIdle i

theorem ownTest_iff :
    ((c.slot i).lock == some x && ((c.slot i).status != .bound || (c.slot i).holder.isNone)) = true ↔ c.OwnSlot x i := by
  simp [Chip.OwnSlot, Chip.SlotIdle]

theorem copyTest_iff :
    ((c.slot i).lock.isNone && (c.slot i).recLine == some x &&
      ((c.slot i).status == .warm || ((c.slot i).status == .bound && (c.slot i).holder.isNone))) = true ↔ c.CopySlot x i := by
  cases hs : (c.slot i).status <;> simp [Chip.CopySlot, Chip.SlotIdle, hs, and_assoc]

/-- A search of the sixteen slots for what one of them is, finds one. -/
theorem find_allSlots {p : SlotNo → Bool} {P : SlotNo → Prop} (hp : ∀ j, p j = true ↔ P j) (h : P i) :
    ∃ k, allSlots.find? p = some k ∧ P k := by
  cases hf : allSlots.find? p with
  | none => exact absurd ((hp i).2 h) (List.find?_eq_none.1 hf i (List.mem_finRange i))
  | some k => exact ⟨k, rfl, (hp k).1 (List.find?_some hf)⟩

theorem find_allSlots_none {p : SlotNo → Bool} {P : SlotNo → Prop} (hp : ∀ j, p j = true ↔ P j) (h : ∀ j, ¬P j) :
    allSlots.find? p = none := List.find?_eq_none.2 fun j _ e => h j ((hp j).1 e)

theorem chooseSlot_own (h : c.OwnSlot x i) : ∃ k, c.chooseSlot x = some k ∧ c.OwnSlot x k := by
  obtain ⟨k, hk, ho⟩ := find_allSlots (P := c.OwnSlot x) (fun _ => ownTest_iff) h
  exact ⟨k, by simp only [Chip.chooseSlot, hk], ho⟩

theorem chooseSlot_copy (hno : ∀ j, ¬c.OwnSlot x j) (h : c.CopySlot x i) : ∃ k, c.chooseSlot x = some k ∧ c.CopySlot x k := by
  obtain ⟨k, hk, ho⟩ := find_allSlots (P := c.CopySlot x) (fun _ => copyTest_iff) h
  exact ⟨k, by simp only [Chip.chooseSlot, find_allSlots_none (P := c.OwnSlot x) (fun _ => ownTest_iff) hno, hk], ho⟩

theorem chooseSlot_free (hno : ∀ j, ¬c.OwnSlot x j) (hnc : ∀ j, ¬c.CopySlot x j) :
    c.chooseSlot x = c.sst.lru.find? fun j => (c.slot j).free := by
  simp only [Chip.chooseSlot, find_allSlots_none (P := c.OwnSlot x) (fun _ => ownTest_iff) hno,
    find_allSlots_none (P := c.CopySlot x) (fun _ => copyTest_iff) hnc]

/-! ### A grant that needs no fetch of its own (04 R59, R61) -/

/-- The chip with slot i bound to line x by a grant of the kind `k`, a fetch not counted (04 R59). -/
def Chip.boundTo (c : Chip) (x : LineNo) (i : SlotNo) (k : GrantKind) : Chip :=
  setSlotRef x (some i) (toMru i (c.modSlot i fun s => s.bind x k))

theorem bindSlot_of_not_miss {k : GrantKind} (h : (c.slot i).grantKind x = k) (hk : k ≠ .miss) :
    bindSlot i x c = c.boundTo x i k := by
  subst h
  unfold bindSlot
  simp only []
  split
  · exact absurd ‹_› hk
  all_goals rfl

theorem Slot.grantKind_of_bound {k : Slot} (h : k.status = .bound) (x : LineNo) : k.grantKind x = .running := by
  simp [Slot.grantKind, h]

theorem Slot.grantKind_of_warm {k : Slot} (h : k.status = .warm) (hr : k.recLine = some x) : k.grantKind x = .hit := by
  simp [Slot.grantKind, h, hr]

section
variable (k : GrantKind)

@[simp] theorem Chip.boundTo_slot : (c.boundTo x i k).slot i = (c.slot i).bind x k := by simp [boundTo]
theorem Chip.boundTo_slot_ne {j : SlotNo} (h : j ≠ i) : (c.boundTo x i k).slot j = c.slot j := by
  simp [boundTo, Chip.slot_modSlot_ne _ _ h]
@[simp] theorem Chip.boundTo_line : (c.boundTo x i k).line x = (c.line x).slotted (some i) := by simp [boundTo]
theorem Chip.boundTo_line_ne {y : LineNo} (h : y ≠ x) : (c.boundTo x i k).line y = c.line y := by
  simp [boundTo, Chip.line_modLine_ne _ _ h]
@[simp] theorem Chip.boundTo_lru : (c.boundTo x i k).sst.lru = c.sst.lru.filter (· ≠ i) ++ [i] := by simp [boundTo]
@[simp] theorem Chip.boundTo_waitList : (c.boundTo x i k).sst.waitList = c.sst.waitList := by simp [boundTo]
@[simp] theorem Chip.boundTo_sets : (c.boundTo x i k).sets = c.sets := rfl
@[simp] theorem Chip.boundTo_ctb : (c.boundTo x i k).ctb = c.ctb := rfl
@[simp] theorem Chip.boundTo_rsc : (c.boundTo x i k).rsc = c.rsc := rfl
@[simp] theorem Chip.boundTo_gen : (c.boundTo x i k).gen = c.gen := rfl
@[simp] theorem Chip.boundTo_ord : (c.boundTo x i k).ord = c.ord := rfl
@[simp] theorem Chip.boundTo_jwr : (c.boundTo x i k).jwr = c.jwr := rfl
@[simp] theorem Chip.boundTo_mpt : (c.boundTo x i k).mpt = c.mpt := rfl
@[simp] theorem Chip.boundTo_shc : (c.boundTo x i k).shc = c.shc := rfl
@[simp] theorem Chip.boundTo_entry (y : LineNo) : (c.boundTo x i k).entry y = c.entry y := rfl
@[simp] theorem Chip.boundTo_planPresent : (c.boundTo x i k).planPresent = c.planPresent := rfl
@[simp] theorem Chip.boundTo_timing (y : LineNo) : (c.boundTo x i k).timing y = c.timing y := by
  rw [boundTo, setSlotRef_eq, Chip.timing_modLine _ _ _ _ rfl]
  rfl

end

/-- The chip with the class of the last slot request of line x noted (04 R62). -/
def Chip.asked (c : Chip) (x : LineNo) (k : LineClass) : Chip := c.modLine x fun l => { l with askClass := k }

/-- A request that finds a slot whose fetch runs without a holder goes on with that fetch (04 R61). -/
theorem requestSlot_joins (hrun : c.shc.run ≠ .starting) (hc : c.chooseSlot x = some i) (hb : (c.slot i).status = .bound)
    (he : c.entry x = none) (p : Purpose) (k : LineClass) :
    requestSlot x p k c = (c.asked x k).boundTo x i .running := by
  have hk : ((c.asked x k).slot i).grantKind x = .running := Slot.grantKind_of_bound hb x
  rw [requestSlot_grants hrun hc, ← Chip.asked, bindSlot_of_not_miss hk (by simp), takeGrant_of_fetching (by simp [Slot.bind]),
    modEntry_of_none (c := (c.asked x k).boundTo x i _) he]
  rfl

/-- A request that finds a WARM copy of the line's record has it taken at once (04 R59). -/
theorem requestSlot_hits (hrun : c.shc.run ≠ .starting) (hc : c.chooseSlot x = some i) (hw : (c.slot i).status = .warm)
    (hr : (c.slot i).recLine = some x) (he : c.entry x = none) (p : Purpose) (k : LineClass) :
    requestSlot x p k c = grantFreed (takeRecord x ((c.asked x k).boundTo x i .hit)) := by
  have hk : ((c.asked x k).slot i).grantKind x = .hit := Slot.grantKind_of_warm hw hr
  rw [requestSlot_grants hrun hc, ← Chip.asked, bindSlot_of_not_miss hk (by simp), takeGrant_of_valid (by simp [Slot.bind]),
    modEntry_of_none (c := (c.asked x k).boundTo x i _) he]

end

end Sys2Proof.Machine
end

section
/-! SUPPORT. A seizure by either of its commands, and what its slot request finds (03 R34 to R37, 04 R59, R61, R65). -/

namespace Sys2Proof.Machine

/-! ### A release that loses nothing -/

/-- A release leaves the journal alone where no digits are held or the journal takes them (04 R63). -/
theorem dropValid_jwr_of_kept {x : LineNo} {i : SlotNo} {c : Chip}
    (h : ((!(c.slot i).ctx.buffer.isEmpty || (c.slot i).ctx.mark.isSome) && !c.taking) = false) :
    (dropValid x i c).jwr = c.jwr := by
  simp only [dropValid, h, Bool.false_eq_true, if_false]
  split <;> rfl

/-! ### Records queued one after another (10 R154) -/

/-- What records joined to the write queue add to the count of those that it limits (10 R158). -/
theorem Jwr.counted_append (j : Jwr) (rs : List Rec) :
    Jwr.counted { j with queue := j.queue ++ rs } = j.counted + (rs.filter fun r => !r.body.isResume).length := by
  simp [Jwr.counted]

theorem Jwr.counted_append_le (j : Jwr) (rs : List Rec) :
    Jwr.counted { j with queue := j.queue ++ rs } ≤ j.counted + rs.length := by
  rw [Jwr.counted_append]
  exact Nat.add_le_add_left (List.length_filter_le _ _) _

/-- The fault of an invalid record is queued (03 R36, 11 R165). -/
theorem Chip.Queueing.recordFault_jwr {c : Chip} {x : LineNo} (h : c.Queueing x) (i : SlotNo) :
    (c.recordFault x i).jwr =
      { c.jwr with queue := c.jwr.queue ++ [⟨some x, c.shc.ms, .fault .recordInvalid 0⟩] } :=
  emit_jwr_of_queueing (c := offerFault .recordInvalid (some x) 0 (c.modSlot i fun s => { s with failed := true })) h rfl rfl _

theorem Chip.recordFault_run (c : Chip) (x : LineNo) (i : SlotNo) : (c.recordFault x i).shc.run = c.shc.run :=
  ((Quiet.refl (c.modSlot i fun s => { s with failed := true })).raiseFault .recordInvalid (some x) 0).shc.run

theorem Chip.recordFault_ms (c : Chip) (x : LineNo) (i : SlotNo) : (c.recordFault x i).shc.ms = c.shc.ms :=
  ((Quiet.refl (c.modSlot i fun s => { s with failed := true })).raiseFault .recordInvalid (some x) 0).shc.ms

/-- With room for both, the fault of an invalid record and PARK of the line, whose slot loses no digits, are queued (03 R36). -/
theorem Chip.Queueing.parked_jwr {c : Chip} {x : LineNo} {i : SlotNo} (h : c.Queueing x) (hroom : c.jwr.counted + 2 ≤ 32)
    (hd : (dropValid x i (c.recordFault x i)).jwr = (c.recordFault x i).jwr) (r : ParkReason) :
    (enterParked x (some r) (dropValid x i (c.recordFault x i))).jwr =
      { c.jwr with queue := c.jwr.queue ++
        [⟨some x, c.shc.ms, .fault .recordInvalid 0⟩, ⟨some x, c.shc.ms, .park r⟩] } := by
  have hj := h.recordFault_jwr i
  have hq : (enterParked x none (dropValid x i (c.recordFault x i))).Queueing x :=
    (h.append hroom ⟨some x, c.shc.ms, .fault .recordInvalid 0⟩).congr (by simp [Chip.recordFault_run]) (by simp [hd, hj])
  rw [enterParked_some, emit_of_queueing hq]
  simp [hd, hj, Chip.recordFault_ms]

/-- A release and the reads of a chip that it leaves alone: the timing set of a line. -/
@[simp] theorem dropValid_timing (x y : LineNo) (i : SlotNo) (c : Chip) : (dropValid x i c).timing y = c.timing y := by
  obtain ⟨f, -, e⟩ := dropValid_eq x i c
  rw [e, setSlotRef_eq]
  exact Chip.timing_modLine (c.modJwr f) x y (fun l => l.slotted none) rfl

@[simp] theorem grantFreed_of_none (c : Chip) : grantFreed (c, none) = c := rfl

section
variable {s : State} {i : Instr} {x : LineNo} {k : SlotNo}

/-! ### The line seized -/

/-- The line `m` is the line `l` off-hook and seized, its slot request still to be made (03 R34). -/
structure Line.SeizedAs (l m : Line) : Prop where
  st : m.st = .seizeWait
  tone : m.tone = .none
  seizure : m.seizure = 0
  slot : m.slot = l.slot
  hook : m.hook = .off
  tset : m.tset = l.tset

/-- The chip with SEIZE of line x queued. -/
def State.seizeQueued (s : State) (x : LineNo) : Chip :=
  s.chip.modJwr fun j => { j with queue := j.queue ++ [⟨some x, s.chip.shc.ms, .seize⟩] }

/-- A command that seizes line x turns it off-hook where it is the hook transition, and seizes it. -/
theorem State.Seizes.exec_seize (h : s.Seizes i x) :
    ∃ f : Line → Line, exec i s = finish s (seize x (s.chip.modLine x f)) ∧ (f (s.chip.line x)).hook = .off ∧
      (f (s.chip.line x)).slot = (s.chip.line x).slot ∧ (f (s.chip.line x)).cls = (s.chip.line x).cls ∧
      (f (s.chip.line x)).tset = (s.chip.line x).tset := by
  rcases h with ⟨trip, rfl, hturn, hst⟩ | ⟨rfl, hst, hdue, he, hk⟩
  · refine ⟨fun l => l.turned .off, ?_, rfl, rfl, rfl, rfl⟩
    have hidle : ((s.chip.turned x .off).line x).st = .idle := by simpa using hst
    rw [hturn.exec_off trip]
    simp only [offHook, hidle]
    rfl
  · refine ⟨fun l => l, ?_, hk, rfl, rfl, rfl⟩
    rw [exec_guardExpiry hst hdue, Chip.modLine_id]
    simp [guardEnds, he, hk]

/-- A seizure of which the record is queued makes its slot request with the line in SEIZE_WAIT (03 R34). -/
theorem State.Seizes.exec_request (h : s.Seizes i x) (hq : Queues x s) :
    ∃ f : Line → Line, (s.chip.line x).SeizedAs (f (s.chip.line x)) ∧
      exec i s = finish s (requestSlot x .originate (s.chip.line x).cls ((s.seizeQueued x).modLine x f)) := by
  obtain ⟨f, hexec, hhook, hslot, hcls, htset⟩ := h.exec_seize
  have hq' : (s.chip.modLine x f).Queueing x := Chip.Queueing.congr ((queues_iff x s).1 hq) rfl rfl
  refine ⟨fun l => (f l).seized ((s.chip.modLine x f).timing x).clearAt, ⟨rfl, rfl, rfl, hslot, hhook, htset⟩, ?_⟩
  rw [hexec, seize_of_queueing hq', Chip.line_modLine_self, hcls]
  congr 2
  exact Chip.modLine_modLine (s.seizeQueued x) x f _

/-! ### What the request finds -/

/-- The chip with line x seized by `f` and the class of its request noted, before a slot is bound. -/
def State.requesting (s : State) (x : LineNo) (f : Line → Line) : Chip :=
  ((s.seizeQueued x).modLine x f).asked x (s.chip.line x).cls

section
variable (s : State) (x : LineNo) (f : Line → Line)

@[simp] theorem State.requesting_line :
    (s.requesting x f).line x = { f (s.chip.line x) with askClass := (s.chip.line x).cls } := by
  simp [requesting, seizeQueued, Chip.asked]
theorem State.requesting_line_ne {y : LineNo} (h : y ≠ x) : (s.requesting x f).line y = s.chip.line y := by
  simp [requesting, seizeQueued, Chip.asked, Chip.line_modLine_ne _ _ h]
@[simp] theorem State.requesting_slot (j : SlotNo) : (s.requesting x f).slot j = s.chip.slot j := rfl
@[simp] theorem State.requesting_sets : (s.requesting x f).sets = s.chip.sets := rfl
@[simp] theorem State.requesting_sst : (s.requesting x f).sst = s.chip.sst := rfl
@[simp] theorem State.requesting_ctb : (s.requesting x f).ctb = s.chip.ctb := rfl
@[simp] theorem State.requesting_rsc : (s.requesting x f).rsc = s.chip.rsc := rfl
@[simp] theorem State.requesting_gen : (s.requesting x f).gen = s.chip.gen := rfl
@[simp] theorem State.requesting_ord : (s.requesting x f).ord = s.chip.ord := rfl
@[simp] theorem State.requesting_mpt : (s.requesting x f).mpt = s.chip.mpt := rfl
@[simp] theorem State.requesting_shc : (s.requesting x f).shc = s.chip.shc := rfl
@[simp] theorem State.requesting_jwr : (s.requesting x f).jwr = (s.seizeQueued x).jwr := rfl
@[simp] theorem State.requesting_planPresent : (s.requesting x f).planPresent = s.chip.planPresent := rfl

end

section
variable {f : Line → Line} (hf : (s.chip.line x).SeizedAs (f (s.chip.line x))) (hq : Queues x s)
  (hexec : exec i s = finish s (requestSlot x .originate (s.chip.line x).cls ((s.seizeQueued x).modLine x f)))

include hf in
theorem Line.SeizedAs.timing : (s.requesting x f).timing x = s.chip.timing x := by
  simp [Chip.timing, hf.tset]

include hq in
theorem seizeQueued_queueing (hroom : s.chip.jwr.counted + 2 ≤ 32) : (s.seizeQueued x).Queueing x :=
  Chip.Queueing.append ((queues_iff x s).1 hq) hroom _

include hq in
theorem seizeQueued_run : ((s.seizeQueued x).modLine x f).shc.run ≠ .starting := by simp [State.seizeQueued, hq.1]

include hf hq hexec

/-- No slot is to be had: the line waits (04 R65). -/
theorem seizes_waits (hs : (s.chip.line x).slot = none) (hc : s.chip.chooseSlot x = none) :
    ∃ t, exec i s = .next t ∧ (t.chip.line x).st = .seizeWait ∧ (t.chip.line x).tone = .none ∧
      (t.chip.line x).seizure = 0 ∧ (t.chip.line x).slot = none ∧ (t.chip.line x).hook = .off ∧
      t.chip.sst = { s.chip.sst with waitList := waitTail s.chip.sst.waitList ⟨x, .originate, (s.chip.line x).cls⟩ } ∧
      t.chip.jwr = (s.seizeQueued x).jwr ∧ OthersKept x s t ∧ OnlyChanges [.lines, .slots, .journal] s t := by
  rw [requestSlot_waits (seizeQueued_run hq) ((chooseSlot_congr (by rfl) x).trans hc)] at hexec
  refine ⟨_, hexec, by simp [State.seizeQueued, hf.st], by simp [State.seizeQueued, hf.tone],
    by simp [State.seizeQueued, hf.seizure], by simp [State.seizeQueued, hf.slot, hs], by simp [State.seizeQueued, hf.hook],
    by simp [State.seizeQueued, Chip.setWaitList], by simp,
    fun y hy => by simp [State.seizeQueued, Chip.line_modLine_ne _ _ hy], ?_⟩
  apply OnlyChanges.of_chip (m := s.ram) <;> simp [State.seizeQueued]

/-- The slot chosen holds no copy of the line's record: it is bound and a fetch requested (04 R59, R60). -/
theorem seizes_fetches (hn : s.chip.entry x = none) (hc : s.chip.chooseSlot x = some k) (hm : (s.chip.slot k).Misses x) :
    ∃ t, exec i s = .next t ∧ (t.chip.line x).st = .seizeWait ∧ (t.chip.line x).tone = .none ∧
      (t.chip.line x).seizure = 0 ∧ (t.chip.line x).slot = some k ∧ (t.chip.line x).hook = .off ∧
      t.chip.slot k = (s.chip.slot k).bind x .miss ∧ OtherSlotsKept k s t ∧
      t.chip.sst.lru = s.chip.sst.lru.filter (· ≠ k) ++ [k] ∧ t.chip.sst.waitList = s.chip.sst.waitList ∧
      t.chip.mpt.reqs = s.chip.mpt.reqs ++ [.fetch k] ∧ t.chip.jwr = (s.seizeQueued x).jwr ∧ OthersKept x s t ∧
      OnlyChanges [.lines, .slots, .journal, .port] s t := by
  rw [requestSlot_fetches (seizeQueued_run hq) ((chooseSlot_congr (by rfl) x).trans hc) hm hn] at hexec
  change exec i s = finish s (addRequest (.fetch k) ((s.requesting x f).boundTo x k .miss)) at hexec
  refine ⟨_, hexec, by simp [Line.slotted, hf.st], by simp [Line.slotted, hf.tone], by simp [Line.slotted, hf.seizure],
    by simp [Line.slotted], by simp [Line.slotted, hf.hook], by simp, fun j hj => by simp [Chip.boundTo_slot_ne _ hj], by simp,
    by simp, by simp, by simp, fun y hy => by simp [Chip.boundTo_line_ne _ hy, State.requesting_line_ne _ _ _ hy], ?_⟩
  apply OnlyChanges.of_chip (m := s.ram) <;> simp

/-- The slot chosen has a fetch of the line's record in progress, without a holder: the fetch goes on (04 R61). -/
theorem seizes_joins (hn : s.chip.entry x = none) (hc : s.chip.chooseSlot x = some k) (hb : (s.chip.slot k).status = .bound) :
    ∃ t, exec i s = .next t ∧ (t.chip.line x).st = .seizeWait ∧ (t.chip.line x).tone = .none ∧
      (t.chip.line x).seizure = 0 ∧ (t.chip.line x).slot = some k ∧
      t.chip.slot k =
        { s.chip.slot k with phase := .fetching, holder := some x, recLine := some x, failed := false, ctx := Ctx.fresh } ∧
      OtherSlotsKept k s t ∧ t.chip.sst.lru = s.chip.sst.lru.filter (· ≠ k) ++ [k] ∧
      t.chip.sst.waitList = s.chip.sst.waitList ∧ t.chip.jwr = (s.seizeQueued x).jwr ∧ OthersKept x s t ∧
      OnlyChanges [.lines, .slots, .journal] s t := by
  rw [requestSlot_joins (seizeQueued_run hq) ((chooseSlot_congr (by rfl) x).trans hc) hb hn] at hexec
  change exec i s = finish s ((s.requesting x f).boundTo x k .running) at hexec
  refine ⟨_, hexec, by simp [Line.slotted, hf.st], by simp [Line.slotted, hf.tone], by simp [Line.slotted, hf.seizure],
    by simp [Line.slotted], by simp [Slot.bind, hb], fun j hj => by simp [Chip.boundTo_slot_ne _ hj], by simp,
    by simp, by simp, fun y hy => by simp [Chip.boundTo_line_ne _ hy, State.requesting_line_ne _ _ _ hy], ?_⟩
  apply OnlyChanges.of_chip (m := s.ram) <;> simp

/-- The slot chosen is WARM with the line's record, which is taken at once (04 R59, 03 R36, R37). -/
theorem exec_seizes_warm (hn : s.chip.entry x = none) (hc : s.chip.chooseSlot x = some k) (hw : (s.chip.slot k).status = .warm)
    (hr : (s.chip.slot k).recLine = some x) :
    exec i s = finish s (grantFreed
      (if recordValid s.chip.planPresent (s.chip.slot k).copy then
        (applyDialTone x ((s.requesting x f).boundTo x k .hit), none)
      else refuseSeizure x ((s.requesting x f).boundTo x k .hit))) := by
  rw [hexec, requestSlot_hits (seizeQueued_run hq) ((chooseSlot_congr (by rfl) x).trans hc) hw hr hn]
  change finish s (grantFreed (takeRecord x ((s.requesting x f).boundTo x k .hit))) = _
  rw [takeRecord_of_seizeWait (i := k) (by simp [Line.slotted]) (by simp [Line.slotted, hf.st])]
  simp [Slot.bind]

/-- The record is valid: dial tone at once (03 R37). -/
theorem seizes_dialTone (hn : s.chip.entry x = none) (hc : s.chip.chooseSlot x = some k) (hw : (s.chip.slot k).status = .warm)
    (hr : (s.chip.slot k).recLine = some x) (hv : recordValid s.chip.planPresent (s.chip.slot k).copy = true) :
    let bus : Tone := if flag (s.chip.slot k).copy[0] 1 then .specialDial else .dial
    ∃ t, exec i s = .next t ∧ (t.chip.line x).st = .dialTone ∧ (t.chip.line x).tone = bus ∧
      (t.chip.line x).dialTone = some ⟨0, 1000 * (s.chip.timing x).dialTone⟩ ∧ (t.chip.line x).slot = some k ∧
      t.chip.slot k =
        { s.chip.slot k with status := .bound, phase := .valid, holder := some x, failed := false, ctx := Ctx.fresh } ∧
      OtherSlotsKept k s t ∧
      t.chip.sst.lru = s.chip.sst.lru.filter (· ≠ k) ++ [k] ∧ t.chip.sst.waitList = s.chip.sst.waitList ∧
      (s.chip.jwr.counted + 2 ≤ 32 → t.chip.jwr = { s.chip.jwr with queue := s.chip.jwr.queue ++
        [⟨some x, s.chip.shc.ms, .seize⟩, ⟨some x, s.chip.shc.ms, .toneReady 0 bus⟩] }) ∧
      OthersKept x s t ∧ OnlyChanges [.lines, .slots, .journal, .shelf] s t := by
  intro bus
  have hbus : ((s.requesting x f).boundTo x k .hit).dialBus x = bus := by
    rw [dialBus_of_slot (i := k) (by simp [Line.slotted])]
    simp [Slot.bind, bus]
  have hwarm := exec_seizes_warm hf hq hexec hn hc hw hr
  rw [if_pos hv, grantFreed_of_none, applyDialTone_eq, hbus, Chip.boundTo_timing, hf.timing] at hwarm
  refine ⟨_, hwarm, by simp [Line.dialToned, Line.toned], by simp [Line.dialToned, Line.toned],
    by simp [Line.dialToned], by simp [Line.dialToned, Line.toned, Line.slotted], by simp [Slot.bind, hr],
    fun j hj => by simp [Chip.boundTo_slot_ne _ hj], by simp, by simp, fun hroom => ?_,
    fun y hy => ?_, ?_⟩
  · rw [settle_jwr, emit_jwr_of_queueing (c := s.seizeQueued x) (seizeQueued_queueing hq hroom) (by rfl) (by rfl)]
    simp [State.seizeQueued, Line.slotted, hf.seizure]
  · simp [Chip.line_modLine_ne _ _ hy, Chip.boundTo_line_ne _ hy, State.requesting_line_ne _ _ _ hy]
  · apply OnlyChanges.of_chip (m := s.ram) <;> simp

/-- The record is not valid, and nobody waits for the slot that it leaves: the line is parked (03 R36). -/
theorem seizes_parks (hn : s.chip.entry x = none) (hc : s.chip.chooseSlot x = some k) (hsp : s.chip.Spoilt k x)
    (hw : s.chip.sst.waitList = []) :
    ∃ t, exec i s = .next t ∧ (t.chip.line x).st = .parked ∧ (t.chip.line x).tone = .none ∧ (t.chip.line x).slot = none ∧
      (t.chip.line x).park = (if (s.chip.timing x).parkDelay = 0 then none
        else some ⟨0, 1000 * (s.chip.timing x).parkDelay⟩) ∧ Discarded k x s t ∧
      (s.chip.jwr.counted + 3 ≤ 32 → t.chip.jwr = { s.chip.jwr with queue := s.chip.jwr.queue ++
        [⟨some x, s.chip.shc.ms, .seize⟩, ⟨some x, s.chip.shc.ms, .fault .recordInvalid 0⟩,
          ⟨some x, s.chip.shc.ms, .park .recordInvalid⟩] }) ∧
      OthersKept x s t ∧ OnlyChanges [.lines, .slots, .journal, .shelf] s t := by
  obtain ⟨hwarm, hrec, hinvalid⟩ := hsp
  replace hexec := exec_seizes_warm hf hq hexec hn hc hwarm hrec
  generalize hB : (s.requesting x f).boundTo x k .hit = B at hexec
  have hslot : B.slot k = (s.chip.slot k).bind x .hit := by simp [← hB]
  have hline : B.line x = ({ f (s.chip.line x) with askClass := (s.chip.line x).cls } : Line).slotted (some k) := by simp [← hB]
  have htiming : B.timing x = s.chip.timing x := by rw [← hB, Chip.boundTo_timing, hf.timing]
  have hjwr : (dropValid x k (B.recordFault x k)).jwr = (B.recordFault x k).jwr :=
    dropValid_jwr_of_kept (by simp [hslot, Slot.bind, Ctx.fresh])
  rw [if_neg (by simp [hinvalid]), refuseSeizure_eq (i := k) (by simp [hline, Line.slotted]) (by simp [hslot, Slot.bind]),
    grantFreed_of_nil (by simp [← hB, hw])] at hexec
  refine ⟨_, hexec, by simp [Line.parked, Line.toned], by simp [Line.parked, Line.toned],
    by simp [Line.parked, Line.toned, Line.slotted], by simp [Line.parked, htiming],
    ⟨?_, fun j hj => ?_, ?_, by simp [← hB], ?_, ?_⟩, fun hroom => ?_, fun y hy => ?_, ?_⟩
  · simp [hslot, Slot.released, Slot.emptied, Slot.bind]
  · simp [← hB, dropValid_slot_ne _ _ _ hj, Chip.recordFault_slot_ne _ _ _ hj, Chip.boundTo_slot_ne _ hj]
  · simp [← hB]
  · simpa [← hB, Chip.stamp] using B.recordFault_offered x k
  · rw [settle_shc]
    exact emit_flag (by simpa using B.recordFault_attention x k) _ _
  · have hB' : B.Queueing x := (seizeQueued_queueing hq (by omega)).congr (by rw [← hB]; rfl) (by rw [← hB]; rfl)
    have hBj : B.jwr = (s.seizeQueued x).jwr := by rw [← hB]; rfl
    have hcount : B.jwr.counted + 2 ≤ 32 := by
      have := s.chip.jwr.counted_append_le [⟨some x, s.chip.shc.ms, .seize⟩]
      rw [hBj]
      exact Nat.le_trans (Nat.add_le_add_right this 2) hroom
    rw [settle_jwr, hB'.parked_jwr hcount hjwr, hBj, ← hB]
    simp [State.seizeQueued]
  · simp [← hB, Chip.line_modLine_ne _ _ hy, dropValid_line_ne _ _ _ hy, Chip.boundTo_line_ne _ hy,
      State.requesting_line_ne _ _ _ hy]
  · apply OnlyChanges.of_chip (m := s.ram) <;> simp [← hB, Chip.recordFault]

end

end

end Sys2Proof.Machine
end

section
open Sys2Proof Sys2Proof.Machine

/-- Settles O17: the slot is the first that a step of the choice finds, and by what that slot holds the line waits, has its record
fetched, or has its record taken at once. -/
theorem seizureAsksForASlot : Obligations.SeizureAsksForASlot := by
  unfold Obligations.SeizureAsksForASlot
  refine ⟨fun ps os e hp ho => ⟨waitTail_of_priority hp ho, waitTail_of_ordinary _⟩, fun c x => ?_,
    fun s i x h hq hs hn => ?_⟩
  · intro idle own copy free
    have hfree : (fun j => (c.slot j).free) = free := funext fun j => by
      cases hl : (c.slot j).lock <;> simp [Slot.free, free, hl]
    exact ⟨fun i => chooseSlot_own, fun hno i => chooseSlot_copy hno, fun hno hnc => hfree ▸ chooseSlot_free hno hnc⟩
  · obtain ⟨f, hf, hexec⟩ := h.exec_request hq
    exact ⟨seizes_waits hf hq hexec hs, fun k => seizes_fetches hf hq hexec hn, fun k => seizes_joins hf hq hexec hn,
      fun k => seizes_dialTone hf hq hexec hn, fun k => seizes_parks hf hq hexec hn⟩

end

section
/-! SUPPORT. Digits given to the journal: a DIGITS record, the block that is due, and the terminal flush (03 R42 to R44, 10 R154). -/

namespace Sys2Proof.Machine

/-- Two updates of one slot are one. -/
@[simp] theorem Chip.modSlot_modSlot (c : Chip) (i : SlotNo) (f g : Slot → Slot) :
    (c.modSlot i f).modSlot i g = c.modSlot i fun s => g (f s) := by
  simp [Chip.modSlot]

/-! ### What the digits of a slot may change -/

/-- `d` is `c` but for the journal, the attention flags and the call context of slot k, of which the pulse count stays. -/
structure Chip.DigitsOnly (c d : Chip) (k : SlotNo) : Prop where
  parts : d = { c with sst := { c.sst with slots := d.sst.slots }, jwr := d.jwr, shc := d.shc }
  others : ∀ j, j ≠ k → d.slot j = c.slot j
  own : d.slot k = { c.slot k with ctx := (d.slot k).ctx }
  pulses : (d.slot k).ctx.pulses = (c.slot k).ctx.pulses

section
variable {c d e : Chip} {x : LineNo} {k : SlotNo}

theorem Chip.DigitsOnly.refl (c : Chip) (k : SlotNo) : c.DigitsOnly c k := ⟨rfl, fun _ _ => rfl, rfl, rfl⟩

theorem Chip.DigitsOnly.trans (h : c.DigitsOnly d k) (g : d.DigitsOnly e k) : c.DigitsOnly e k where
  parts := by rw [g.parts, h.parts]
  others j hj := (g.others j hj).trans (h.others j hj)
  own := by rw [g.own, h.own]
  pulses := g.pulses.trans h.pulses

theorem Chip.DigitsOnly.line (h : c.DigitsOnly d k) (y : LineNo) : d.line y = c.line y := by rw [h.parts]; rfl
theorem Chip.DigitsOnly.timing (h : c.DigitsOnly d k) (y : LineNo) : d.timing y = c.timing y := by rw [h.parts]; rfl

/-- The update of a call context that keeps the pulse count. -/
theorem Chip.DigitsOnly.modCtx (h : c.DigitsOnly d k) (hs : (c.line x).slot = some k) (f : Ctx → Ctx)
    (hf : (f (d.slot k).ctx).pulses = (d.slot k).ctx.pulses) : c.DigitsOnly (modCtx x f d) k := by
  rw [modCtx_of_slot (by rw [h.line, hs])]
  refine h.trans ⟨rfl, fun j hj => Chip.slot_modSlot_ne _ _ hj, by simp, by simpa using hf⟩

/-! ### A DIGITS record -/

theorem Chip.blockSize_of_slot (hs : (c.line x).slot = some k) : c.blockSize x = field (c.slot k).copy[1] 0 4 := by
  simp [Chip.blockSize, Chip.record, hs, recBlockSize]

/-- The chip with the DIGITS records `rs` of slot k queued: OVERFLOW, if it was pending, is reported (03 R42, R44). -/
def Chip.digitsQueued (c : Chip) (k : SlotNo) (rs : List Rec) : Chip :=
  (c.modJwr fun j => { j with queue := j.queue ++ rs }).modSlot k fun s => { s with ctx := { s.ctx with overflow := false } }

@[simp] theorem Chip.digitsQueued_line (rs : List Rec) (y : LineNo) : (c.digitsQueued k rs).line y = c.line y := rfl
@[simp] theorem Chip.digitsQueued_taking (rs : List Rec) : (c.digitsQueued k rs).taking = c.taking := rfl
@[simp] theorem Chip.digitsQueued_stamp (rs : List Rec) : (c.digitsQueued k rs).stamp = c.stamp := rfl
@[simp] theorem Chip.digitsQueued_jwr (rs : List Rec) :
    (c.digitsQueued k rs).jwr = { c.jwr with queue := c.jwr.queue ++ rs } := rfl
@[simp] theorem Chip.digitsQueued_slot (rs : List Rec) :
    (c.digitsQueued k rs).slot k = { c.slot k with ctx := { (c.slot k).ctx with overflow := false } } := by
  simp [Chip.digitsQueued]

theorem Chip.digitsQueued_digitsQueued (rs qs : List Rec) :
    (c.digitsQueued k rs).digitsQueued k qs = c.digitsQueued k (rs ++ qs) := by
  simp [Chip.digitsQueued, Chip.modJwr, Chip.modSlot]

/-- A journal that takes no records takes no digits (03 R43). -/
theorem writeDigits_of_not_taking (h : c.taking = false) (ds : List Digit) (f : Option EndFlag) :
    writeDigits x ds f c = (c, false) := by
  simp [writeDigits, h]

theorem writeDigits_of_full (h : c.taking = true) (hf : c.jwr.full = true) (ds : List Digit) (f : Option EndFlag) :
    writeDigits x ds f c = (beginStall .queue c, false) := by
  simp [writeDigits, h, hf]

theorem writeDigits_of_room (hs : (c.line x).slot = some k) (h : c.taking = true) (hf : c.jwr.full = false)
    (ds : List Digit) (f : Option EndFlag) :
    writeDigits x ds f c = (c.digitsQueued k [⟨some x, c.stamp, .digits ds f (c.slot k).ctx.overflow⟩], true) := by
  simp [writeDigits, h, hf, Chip.ctx_of_slot hs, Chip.digitsQueued, modCtx_of_slot (c := c.modJwr _) hs]

theorem writeDigits_digitsOnly (hs : (c.line x).slot = some k) (ds : List Digit) (f : Option EndFlag) :
    c.DigitsOnly (writeDigits x ds f c).1 k := by
  cases ht : c.taking with
  | false => rw [writeDigits_of_not_taking ht]; exact .refl c k
  | true =>
    cases hf : c.jwr.full with
    | false =>
      rw [writeDigits_of_room hs ht hf]
      exact ⟨rfl, fun j hj => Chip.slot_modSlot_ne (c.modJwr _) _ hj, by simp [Chip.digitsQueued], by simp [Chip.digitsQueued]⟩
    | true => rw [writeDigits_of_full ht hf]; exact ⟨rfl, fun _ _ => rfl, rfl, rfl⟩

/-! ### The block that is due (03 R42) -/

theorem writeDueBlock_of_slot (hs : (c.line x).slot = some k) :
    writeDueBlock x c =
      if (c.slot k).ctx.mark = none ∧ (c.slot k).ctx.buffer.length = field (c.slot k).copy[1] 0 4 then
        let r := writeDigits x (c.slot k).ctx.buffer none c
        if r.2 then modCtx x (fun k => { k with buffer := [] }) r.1 else r.1
      else c := by
  simp only [writeDueBlock, Chip.ctx_of_slot hs, Chip.blockSize_of_slot hs, Option.isNone_iff_eq_none]

theorem writeDueBlock_digitsOnly (hs : (c.line x).slot = some k) : c.DigitsOnly (writeDueBlock x c) k := by
  have hw := writeDigits_digitsOnly hs (c.slot k).ctx.buffer none
  rw [writeDueBlock_of_slot hs]
  split
  · simp only []
    split
    · exact hw.modCtx hs _ rfl
    · exact hw
  · exact .refl c k

/-- No block is due, or the journal takes none. -/
theorem writeDueBlock_keeps (hs : (c.line x).slot = some k)
    (h : (c.slot k).ctx.mark.isSome = true ∨ (c.slot k).ctx.buffer.length ≠ field (c.slot k).copy[1] 0 4 ∨ c.taking = false) :
    writeDueBlock x c = c := by
  rw [writeDueBlock_of_slot hs]
  split
  · next hdue =>
    obtain ⟨hmark, hlen⟩ := hdue
    have ht : c.taking = false := by simpa [hmark, hlen] using h
    simp [writeDigits_of_not_taking ht]
  · rfl

/-- A block that is due is written, and the buffer is empty. -/
theorem writeDueBlock_writes (hs : (c.line x).slot = some k) (hm : (c.slot k).ctx.mark = none)
    (hl : (c.slot k).ctx.buffer.length = field (c.slot k).copy[1] 0 4) (ht : c.taking = true) (hf : c.jwr.full = false) :
    writeDueBlock x c =
      (c.digitsQueued k [⟨some x, c.stamp, .digits (c.slot k).ctx.buffer none (c.slot k).ctx.overflow⟩]).modSlot k fun s =>
        { s with ctx := { s.ctx with buffer := [] } } := by
  rw [writeDueBlock_of_slot hs, if_pos ⟨hm, hl⟩, writeDigits_of_room hs ht hf]
  simp only [if_true]
  exact modCtx_of_slot (c := c.digitsQueued k _) hs _

/-! ### The records of a terminal flush (03 R44) -/

theorem flushRecords_digitsOnly (f : EndFlag) (b n : Nat) (ds : List Digit) (hs : (c.line x).slot = some k) :
    c.DigitsOnly (flushRecords x f b n ds c).1 k := by
  induction n generalizing ds c with
  | zero => exact .refl c k
  | succ n ih =>
    unfold flushRecords
    split
    · have hw := writeDigits_digitsOnly hs (ds.take b) none
      simp only []
      split
      · exact hw.trans (ih _ (by rw [hw.line, hs]))
      · exact hw
    · exact writeDigits_digitsOnly hs ds (some f)

/-- The last record of a flush, with the end flag. -/
theorem flushRecords_last {b : Nat} {ds : List Digit} (h : ds.length ≤ b ∨ b = 0) (f : EndFlag) (n : Nat) (c : Chip) :
    flushRecords x f b (n + 1) ds c =
      ((writeDigits x ds (some f) c).1, if (writeDigits x ds (some f) c).2 then none else some ds) :=
  if_neg (by omega)

/-- A journal that takes no records leaves a flush undone (03 R43). -/
theorem flushRecords_of_not_taking (h : c.taking = false) (f : EndFlag) (b n : Nat) (ds : List Digit) :
    flushRecords x f b n ds c = (c, some ds) := by
  cases n with
  | zero => rfl
  | succ n => simp [flushRecords, writeDigits_of_not_taking h]

section
variable (x : LineNo) (stamp : Word) {b : Nat} (f : EndFlag) (ov : Bool) {ds : List Digit}

/-- What does not exceed a block is one record. -/
theorem flushed_of_le (hb : 1 ≤ b) (h : ds.length ≤ b) : flushed x stamp b f ov ds = [⟨some x, stamp, .digits ds (some f) ov⟩] := by
  have hn : max 1 ((ds.length + b - 1) / b) = 1 := by
    have : (ds.length + b - 1) / b < 2 := (Nat.div_lt_iff_lt_mul (by omega)).2 (by omega)
    omega
  simp [flushed, hn, List.take_of_length_le h]

/-- What exceeds a block is a block, with the OVERFLOW pending, and the rest. -/
theorem flushed_of_lt (hb : 1 ≤ b) (h : b < ds.length) :
    flushed x stamp b f ov ds = ⟨some x, stamp, .digits (ds.take b) none ov⟩ :: flushed x stamp b f false (ds.drop b) := by
  have hrest : (ds.length - b + b - 1) / b = (ds.length - 1) / b := by congr 1; omega
  have hall : (ds.length + b - 1) / b = (ds.length - 1) / b + 1 := by
    rw [show ds.length + b - 1 = ds.length - 1 + b by omega, Nat.add_div_right _ (by omega)]
  have hpos : 1 ≤ (ds.length - 1) / b := (Nat.one_le_div_iff (by omega)).2 (by omega)
  simp only [flushed, List.length_drop, hrest, hall, Nat.max_eq_right hpos, Nat.max_eq_right (Nat.le_add_left 1 _),
    List.range_succ_eq_map, List.map_cons, List.map_map]
  congr 1
  · simp; omega
  · refine List.map_congr_left fun i _ => ?_
    simp [List.drop_drop, Nat.mul_succ, Nat.add_comm]

end

/-- With room for all of them, a flush queues its records (03 R44). -/
theorem flushRecords_blocks {b : Nat} (hb : 1 ≤ b) (f : EndFlag) (n : Nat) (ds : List Digit) (hn : ds.length < n)
    (hs : (c.line x).slot = some k) (ht : c.taking = true)
    (hroom : c.jwr.counted + (flushed x c.stamp b f (c.slot k).ctx.overflow ds).length ≤ 32) :
    flushRecords x f b n ds c = (c.digitsQueued k (flushed x c.stamp b f (c.slot k).ctx.overflow ds), none) := by
  induction n generalizing ds c with
  | zero => omega
  | succ n ih =>
    have hfull (h : c.jwr.counted + 1 ≤ 32) : c.jwr.full = false := decide_eq_false (Nat.not_le.2 h)
    by_cases hl : ds.length ≤ b
    · rw [flushed_of_le _ _ _ _ hb hl] at hroom ⊢
      rw [flushRecords_last (.inl hl), writeDigits_of_room hs ht (hfull hroom)]
      rfl
    · have hlt : b < ds.length := Nat.lt_of_not_le hl
      rw [flushed_of_lt _ _ _ _ hb hlt] at hroom ⊢
      rw [List.length_cons] at hroom
      rw [flushRecords, if_pos ⟨hlt, by omega⟩, writeDigits_of_room hs ht (hfull (by omega))]
      simp only [if_true]
      rw [ih (c := c.digitsQueued k _) (ds.drop b) (by rw [List.length_drop]; omega) hs ht]
      · simp [Chip.digitsQueued_digitsQueued]
      · simp only [Chip.digitsQueued_jwr, Chip.digitsQueued_slot, Chip.digitsQueued_stamp, Jwr.counted_append]
        simpa [Body.isResume, Nat.add_assoc, Nat.add_comm 1] using hroom

/-! ### The terminal flush (03 R43, R44) -/

/-- The call context with its digits flushed. -/
def Ctx.flushed (k : Ctx) : Ctx := { k with buffer := [], overflow := false, mark := none }

theorem terminalFlush_digitsOnly (hs : (c.line x).slot = some k) (f : EndFlag) : c.DigitsOnly (terminalFlush x f c) k := by
  have hr := flushRecords_digitsOnly f (c.blockSize x) (Config.bufferLimit + 1)
    ((c.slot k).ctx.buffer.take (c.slot k).ctx.buffer.length) hs
  simp only [terminalFlush, flushUpTo, Chip.ctx_of_slot hs, Option.map_some, Option.getD_some]
  split
  · next h => rw [h] at hr; exact hr.modCtx hs _ rfl
  · next h => rw [h] at hr; exact hr.modCtx hs _ rfl

theorem terminalFlush_none (h : (c.line x).slot = none) (f : EndFlag) : terminalFlush x f c = c := by
  simp [terminalFlush, flushUpTo, Chip.ctx, h]

/-- A flush of which the records are written (03 R44). -/
theorem terminalFlush_of_written {f : EndFlag} {rs : List Rec} (hs : (c.line x).slot = some k)
    (h : flushRecords x f (field (c.slot k).copy[1] 0 4) (Config.bufferLimit + 1) (c.slot k).ctx.buffer c =
      (c.digitsQueued k rs, none)) :
    terminalFlush x f c =
      (c.modJwr fun j => { j with queue := j.queue ++ rs }).modSlot k fun s => { s with ctx := s.ctx.flushed } := by
  simp only [terminalFlush, flushUpTo, Chip.ctx_of_slot hs, Option.map_some, Option.getD_some, Chip.blockSize_of_slot hs,
    List.take_length, h, List.drop_length]
  rw [modCtx_of_slot (c := c.digitsQueued k rs) hs, Chip.digitsQueued, Chip.modSlot_modSlot]
  rfl

/-- Digits that do not exceed a block are flushed in one record. -/
theorem terminalFlush_writes (hs : (c.line x).slot = some k) (ht : c.taking = true) (hf : c.jwr.full = false)
    (hb : (c.slot k).ctx.buffer.length ≤ field (c.slot k).copy[1] 0 4 ∨ field (c.slot k).copy[1] 0 4 = 0) (f : EndFlag) :
    terminalFlush x f c =
      (c.modJwr fun j => { j with queue := j.queue ++
        [⟨some x, c.stamp, .digits (c.slot k).ctx.buffer (some f) (c.slot k).ctx.overflow⟩] }).modSlot k fun s =>
        { s with ctx := s.ctx.flushed } := by
  refine terminalFlush_of_written hs ?_
  rw [flushRecords_last hb, writeDigits_of_room hs ht hf]
  rfl

/-- A flush for which there is room (03 R44). -/
theorem terminalFlush_blocks (hs : (c.line x).slot = some k) (ht : c.taking = true) (hb : 1 ≤ field (c.slot k).copy[1] 0 4)
    (hl : (c.slot k).ctx.buffer.length ≤ 20) (f : EndFlag)
    (hroom : c.jwr.counted + (flushed x c.stamp (field (c.slot k).copy[1] 0 4) f (c.slot k).ctx.overflow
      (c.slot k).ctx.buffer).length ≤ 32) :
    terminalFlush x f c =
      (c.modJwr fun j =>
        { j with
          queue := j.queue ++
            flushed x c.stamp (field (c.slot k).copy[1] 0 4) f (c.slot k).ctx.overflow (c.slot k).ctx.buffer }).modSlot k
        fun s => { s with ctx := s.ctx.flushed } :=
  terminalFlush_of_written hs (flushRecords_blocks hb f _ _ (Nat.lt_succ_of_le hl) hs ht hroom)

/-- The digits stay under a terminal mark while the journal takes no records (03 R43). -/
theorem terminalFlush_held (hs : (c.line x).slot = some k) (ht : c.taking = false) (f : EndFlag) :
    terminalFlush x f c = c.modSlot k fun s => { s with ctx := { s.ctx with mark := some (f, s.ctx.buffer.length) } } := by
  simp only [terminalFlush, flushUpTo, Chip.ctx_of_slot hs, Option.map_some, Option.getD_some, List.take_length,
    flushRecords_of_not_taking ht, List.drop_length, List.append_nil]
  rw [modCtx_of_slot hs]
  exact Chip.modSlot_congr (by rfl)

end

end Sys2Proof.Machine
end

section
/-! SUPPORT. The end of collection: a line and its call context changed and the digits flushed (03 R44 to R46, 09 R140). -/

namespace Sys2Proof.Machine

/-- The chip with line x and the call context in slot k changed. -/
def Chip.modCall (c : Chip) (x : LineNo) (k : SlotNo) (f : Line → Line) (h : Ctx → Ctx) : Chip :=
  (c.modLine x f).modSlot k fun s => { s with ctx := h s.ctx }

section
variable {c : Chip} {x : LineNo} {k : SlotNo} {f g : Line → Line} {h : Ctx → Ctx}

@[simp] theorem Chip.modCall_line : (c.modCall x k f h).line x = f (c.line x) := by simp [modCall]
theorem Chip.modCall_line_ne {y : LineNo} (hy : y ≠ x) : (c.modCall x k f h).line y = c.line y := by
  simp [modCall, Chip.line_modLine_ne _ _ hy]
@[simp] theorem Chip.modCall_slot : (c.modCall x k f h).slot k = { c.slot k with ctx := h (c.slot k).ctx } := by simp [modCall]
theorem Chip.modCall_slot_ne {j : SlotNo} (hj : j ≠ k) : (c.modCall x k f h).slot j = c.slot j := by
  simp [modCall, Chip.slot_modSlot_ne _ _ hj]
@[simp] theorem Chip.modCall_jwr : (c.modCall x k f h).jwr = c.jwr := rfl
@[simp] theorem Chip.modCall_taking : (c.modCall x k f h).taking = c.taking := rfl
@[simp] theorem Chip.modCall_stamp : (c.modCall x k f h).stamp = c.stamp := rfl

theorem Chip.modCall_timing (hf : (f (c.line x)).tset = (c.line x).tset) (y : LineNo) :
    (c.modCall x k f h).timing y = c.timing y := c.timing_modLine x y f hf

/-- The line and its call context are changed, and the digits then flushed. -/
def Chip.flushCall (c : Chip) (x : LineNo) (k : SlotNo) (e : EndFlag) (f : Line → Line) (h : Ctx → Ctx) : Chip :=
  terminalFlush x e (c.modCall x k f h)

/-- The line holds slot k and the change of it keeps that. -/
structure Chip.Holding (c : Chip) (x : LineNo) (k : SlotNo) (f : Line → Line) : Prop where
  slot : (c.line x).slot = some k
  kept : (f (c.line x)).slot = (c.line x).slot

theorem Chip.Holding.modCall (hs : c.Holding x k f) : ((c.modCall x k f h).line x).slot = some k := by
  rw [Chip.modCall_line, hs.kept, hs.slot]

section
variable (hs : c.Holding x k f) (e : EndFlag)
include hs

theorem flushCall_digitsOnly : (c.modCall x k f h).DigitsOnly (c.flushCall x k e f h) k := terminalFlush_digitsOnly hs.modCall e

theorem flushCall_writes (ht : c.taking = true) (hfull : c.jwr.full = false)
    (hb : (h (c.slot k).ctx).buffer.length ≤ field (c.slot k).copy[1] 0 4 ∨ field (c.slot k).copy[1] 0 4 = 0) :
    ((c.flushCall x k e f h).slot k).ctx = (h (c.slot k).ctx).flushed ∧
      (c.flushCall x k e f h).jwr = { c.jwr with queue := c.jwr.queue ++
        [⟨some x, c.stamp, .digits (h (c.slot k).ctx).buffer (some e) (h (c.slot k).ctx).overflow⟩] } := by
  rw [Chip.flushCall, terminalFlush_writes hs.modCall ht hfull (by simpa using hb)]
  simp

theorem flushCall_held (ht : c.taking = false) :
    ((c.flushCall x k e f h).slot k).ctx = { h (c.slot k).ctx with mark := some (e, (h (c.slot k).ctx).buffer.length) } ∧
      (c.flushCall x k e f h).jwr = c.jwr := by
  rw [Chip.flushCall, terminalFlush_held hs.modCall ht]
  simp

end

section
variable {s : State} {i : Instr} {e : EndFlag} {d : Chip}

/-- A command that changes line x and its call context and then goes on with its digits, said of the line, the slot and the frame. -/
theorem next_digitsOnly (hd : (s.chip.modCall x k f h).DigitsOnly d k) (hexec : exec i s = finish s (d.modLine x g)) :
    ∃ t, exec i s = .next t ∧ t.chip.line x = g (f (s.chip.line x)) ∧ OthersKept x s t ∧ OtherSlotsKept k s t ∧
      (t.chip.slot k).ctx.pulses = (h (s.chip.slot k).ctx).pulses ∧ OnlyChanges [.lines, .slots, .journal, .shelf] s t ∧
      t.chip.slot k = d.slot k ∧ t.chip.jwr = d.jwr := by
  refine ⟨_, hexec, ?_, fun y hy => ?_, fun j hj => ?_, ?_, ?_, by simp, by simp⟩
  · rw [settle_line, Chip.line_modLine_self, hd.line, Chip.modCall_line]
  · rw [settle_line, Chip.line_modLine_ne _ _ hy, hd.line, Chip.modCall_line_ne hy]
  · rw [settle_slot, Chip.modLine_slot, hd.others j hj, Chip.modCall_slot_ne hj]
  · rw [settle_slot, Chip.modLine_slot, hd.pulses, Chip.modCall_slot]
  · rw [hd.parts]
    apply OnlyChanges.of_chip (m := s.ram) <;> simp [Chip.modCall]

/-- A command that goes on with a flush of line x, said of the line, its slot, the frame and the journal. -/
theorem next_flushCall (hs : s.chip.Holding x k f) (hexec : exec i s = finish s ((s.chip.flushCall x k e f h).modLine x g)) :
    ∃ t, exec i s = .next t ∧ t.chip.line x = g (f (s.chip.line x)) ∧ OthersKept x s t ∧ OtherSlotsKept k s t ∧
      (t.chip.slot k).ctx.pulses = (h (s.chip.slot k).ctx).pulses ∧ OnlyChanges [.lines, .slots, .journal, .shelf] s t ∧
      (s.chip.taking = true → s.chip.jwr.full = false →
        (h (s.chip.slot k).ctx).buffer.length ≤ field (s.chip.slot k).copy[1] 0 4 ∨ field (s.chip.slot k).copy[1] 0 4 = 0 →
        (t.chip.slot k).ctx = (h (s.chip.slot k).ctx).flushed ∧
          t.chip.jwr = { s.chip.jwr with queue := s.chip.jwr.queue ++
            [⟨some x, s.chip.stamp, .digits (h (s.chip.slot k).ctx).buffer (some e) (h (s.chip.slot k).ctx).overflow⟩] }) ∧
      (s.chip.taking = false →
        (t.chip.slot k).ctx = { h (s.chip.slot k).ctx with mark := some (e, (h (s.chip.slot k).ctx).buffer.length) } ∧
          t.chip.jwr = s.chip.jwr) := by
  obtain ⟨t, ht, hl, ho, hslots, hp, hframe, hslot, hjwr⟩ := next_digitsOnly (flushCall_digitsOnly (h := h) hs e) hexec
  refine ⟨t, ht, hl, ho, hslots, hp, hframe, ?_⟩
  rw [hslot, hjwr]
  exact ⟨flushCall_writes hs e, flushCall_held hs e⟩

end

/-! ### The dialling timeout (03 R45, 09 R140) -/

/-- The line with its dialling timer stopped. -/
def Line.dialStopped (l : Line) : Line := { l with dialling := none }

/-- The line with its DIGIT threshold returned to none (03 R45). -/
def Line.undigit (l : Line) : Line :=
  match l.threshold with
  | .digit _ => { l with threshold := .none }
  | .none | .clear _ => l

/-- The call context with the digit in progress discarded (03 R41). -/
def Ctx.undigit (k : Ctx) : Ctx := { k with pulses := 0 }

/-- The line as it enters ROUTING (03 R48). -/
def Line.routed (l : Line) (clearAt : Nat) : Line := (l.enter clearAt .routing).toned .none

theorem dropDigit_eq (x : LineNo) (c : Chip) : dropDigit x c = c.modLine x Line.undigit := by
  cases ht : (c.line x).threshold with
  | digit n =>
    simp only [dropDigit, ht, setThreshold]
    exact Chip.modLine_congr (by simp [Line.undigit, ht])
  | none =>
    simp only [dropDigit, ht]
    exact (c.modLine_id x).symm.trans (Chip.modLine_congr (by simp [Line.undigit, ht]))
  | clear n =>
    simp only [dropDigit, ht]
    exact (c.modLine_id x).symm.trans (Chip.modLine_congr (by simp [Line.undigit, ht]))

theorem enterRouting_eq (x : LineNo) (c : Chip) : enterRouting x c = c.modLine x fun l => l.routed (c.timing x).clearAt := by
  simp [enterRouting, Line.routed]

section
variable (l : Line)

@[simp] theorem Line.undigit_st : l.undigit.st = l.st := by unfold Line.undigit; split <;> rfl
@[simp] theorem Line.undigit_slot : l.undigit.slot = l.slot := by unfold Line.undigit; split <;> rfl
@[simp] theorem Line.undigit_tset : l.undigit.tset = l.tset := by unfold Line.undigit; split <;> rfl
@[simp] theorem Line.undigit_tone : l.undigit.tone = l.tone := by unfold Line.undigit; split <;> rfl
@[simp] theorem Line.undigit_dialling : l.undigit.dialling = l.dialling := by unfold Line.undigit; split <;> rfl

theorem Line.undigit_threshold (n : Nat) : l.undigit.threshold ≠ .digit n := by
  unfold Line.undigit
  split <;> simp_all

theorem entryThreshold_routing (hook : Hook) (m n : Nat) (t : Threshold) : entryThreshold .routing hook m t ≠ .digit n := by
  cases hook <;> cases t <;> simp [entryThreshold, LineSt.judging, LineSt.collecting]

@[simp] theorem Line.dialOff_st : l.dialOff.st = l.st := by unfold Line.dialOff; split <;> rfl
@[simp] theorem Line.dialOff_slot : l.dialOff.slot = l.slot := by unfold Line.dialOff; split <;> rfl
@[simp] theorem Line.dialOff_dialling : l.dialOff.dialling = l.dialling := by unfold Line.dialOff; split <;> rfl
@[simp] theorem Line.dialOff_threshold : l.dialOff.threshold = l.threshold := by unfold Line.dialOff; split <;> rfl
theorem Line.dialOff_tone : l.dialOff.tone = if l.tone = .dial then .none else l.tone := by
  unfold Line.dialOff
  split <;> simp_all [Line.toned]

end

/-- The line as collection ends by a timeout, before its state follows. -/
def Line.timedOut (l : Line) : Line := l.dialStopped.undigit

theorem Chip.holding_timedOut (hs : (c.line x).slot = some k) : c.Holding x k Line.timedOut :=
  ⟨hs, by simp [Line.timedOut, Line.dialStopped]⟩

/-- The timer's expiry before the state follows: the digit in progress discarded, timer and DIGIT threshold ended (03 R45). -/
theorem dropPulses_of_slot (hs : (c.line x).slot = some k) :
    dropDigit x (stopDialling x (dropPulses x c)) = c.modCall x k Line.timedOut Ctx.undigit := by
  rw [dropDigit_eq, stopDialling, Chip.modLine_modLine, dropPulses, modCtx_of_slot hs]
  rfl

theorem diallingExpired_of_slot (hs : (c.line x).slot = some k) :
    diallingExpired x c =
      (c.flushCall x k .timeout Line.timedOut Ctx.undigit).modLine x fun l => l.routed (c.timing x).clearAt := by
  have ht : (c.flushCall x k .timeout Line.timedOut Ctx.undigit).timing x = c.timing x := by
    rw [(flushCall_digitsOnly (Chip.holding_timedOut hs) _).timing, Chip.modCall_timing (by simp [Line.timedOut, Line.dialStopped])]
  rw [diallingExpired, dropPulses_of_slot hs, enterRouting_eq, ← Chip.flushCall, ht]

theorem recallExpired_of_slot (hs : (c.line x).slot = some k) :
    recallExpired x c = (c.flushCall x k .timeout Line.timedOut Ctx.undigit).modLine x Line.dialOff := by
  simp only [recallExpired, dropPulses_of_slot hs]
  rw [← Chip.flushCall]
  split
  · next hd => exact Chip.modLine_congr (if_pos hd).symm
  · next hd => exact (Chip.modLine_id _ x).symm.trans (Chip.modLine_congr (if_neg hd).symm)

end

theorem exec_diallingTimeout {s : State} {x : LineNo} (hd : timerDue (s.chip.line x).dialling = true) :
    ((s.chip.line x).st = .dialling → exec (.diallingTimeout x) s = finish s (diallingExpired x s.chip)) ∧
      ((s.chip.line x).st = .recall → exec (.diallingTimeout x) s = finish s (recallExpired x s.chip)) := by
  constructor <;> intro hst <;> simp [exec, execDiallingTimeout, hd, hst]

end Sys2Proof.Machine

section
open Sys2Proof Sys2Proof.Machine

/-- Settles O25: the expiry is a flush of the line, whose state then follows. -/
theorem diallingTimeoutEndsCollection : Obligations.DiallingTimeoutEndsCollection := by
  unfold Obligations.DiallingTimeoutEndsCollection
  intro s x k l K size hst hdue hs
  obtain ⟨hdialling, hrecall⟩ := exec_diallingTimeout hdue
  rcases hst with hst | hst
  · have hexec := hdialling hst
    rw [diallingExpired_of_slot hs] at hexec
    obtain ⟨t, ht, hl, ho, hslots, hp, hframe, hwrites, hheld⟩ := next_flushCall (Chip.holding_timedOut hs) hexec
    refine ⟨t, ht, fun _ => ?_, fun h => ?_, ?_, fun n => ?_, ?_, hp, ho, hslots, hframe, hwrites, fun h _ => hheld h⟩
    · rw [hl]; exact ⟨rfl, rfl⟩
    · simp [hst] at h
    · rw [hl]; rfl
    · rw [hl]; exact entryThreshold_routing _ _ _ _
    · rw [hl]; simpa [Line.routed, Line.toned, Line.timedOut, Line.dialStopped] using hs
  · have hexec := hrecall hst
    rw [recallExpired_of_slot hs] at hexec
    obtain ⟨t, ht, hl, ho, hslots, hp, hframe, hwrites, hheld⟩ := next_flushCall (Chip.holding_timedOut hs) hexec
    refine ⟨t, ht, fun h => ?_, fun _ => ?_, ?_, fun n => ?_, ?_, hp, ho, hslots, hframe, hwrites, fun h _ => hheld h⟩
    · simp [l, hst] at h
    · rw [hl, Line.dialOff_tone]
      exact ⟨by simpa [Line.timedOut, Line.dialStopped] using hst, by simp [Line.timedOut, Line.dialStopped, l]⟩
    · rw [hl]; simp [Line.timedOut, Line.dialStopped]
    · rw [hl, Line.dialOff_threshold]; exact Line.undigit_threshold _ n
    · rw [hl]; simpa [Line.timedOut, Line.dialStopped] using hs

end
end

section
/-! SUPPORT. DIGIT_SEEN and ENDDIAL taken (03 R39, R46, 10 R150), and an order whose block makes a quiet operation. -/

namespace Sys2Proof.Machine

/-! ### An order with an effect on the call -/

/-- What an operation leaves alone it leaves alone whatever the Order Reader holds. -/
theorem Quiet.withOrd {c d : Chip} (h : Quiet c d) (o : Ord) : Quiet { c with ord := o } { d with ord := o } :=
  ⟨h.shc, h.sets, h.ctb, rfl, h.last, h.coreReads, h.index, h.seq, h.opened, h.page, h.used, h.written, h.closing, h.lru, h.locks,
    h.own⟩

/-- An order answered at once, of which the block makes a quiet operation. -/
theorem next_order {s : State} {i : Instr} {o : OrderCopy} {r : Result} {d : Chip} (h : Ready s) (ho : orderOf i = some o)
    (ht : takeOrder o s.chip = setResult r d) (hq : Quiet (copyOrder o s.chip) d) :
    ∃ t, exec i s = .next t ∧ t.chip = settle s.chip (setResult r d) ∧ Answered o r s t ∧ OrderOnly s t := by
  refine ⟨_, (exec_of_ready h ho).trans (finish_eq _ _), by rw [ht], ?_, ?_, fun _ => rfl, rfl⟩
  · simp [Answered, ht, setResult, hq.ord, copyOrder]
  · have hw := (hq.withOrd { d.ord with result := some r }).settle s.chip
    rw [ht]
    simpa [setResult, copyOrder] using hw

/-! ### The orders taken -/

section
variable {c : Chip} {x : LineNo} {k : SlotNo}

theorem takeOrder_digitSeen (he : x.val < c.shc.hdr.equipped) (hu : (c.line x).st ≠ .unequipped) :
    takeOrder ⟨3, word x.val, 0, 0, 0, 0⟩ c =
      withResult (orderDigitSeen x (copyOrder ⟨3, word x.val, 0, 0, 0, 0⟩ c)) := by
  rw [takeOrder_of_names (k := .digitSeen) rfl (by simp [argsInRange, lineInRange_word]) (by simp [orderLine])
    (lineOf_word x) he]
  simp [hu, handOver]

theorem takeOrder_enddial (he : x.val < c.shc.hdr.equipped) (hu : (c.line x).st ≠ .unequipped) :
    takeOrder ⟨4, word x.val, 0, 0, 0, 0⟩ c =
      withResult (orderEnddial x (copyOrder ⟨4, word x.val, 0, 0, 0, 0⟩ c)) := by
  rw [takeOrder_of_names (k := .enddial) rfl (by simp [argsInRange, lineInRange_word]) (by simp [orderLine])
    (lineOf_word x) he]
  simp [hu, handOver]

/-- DIGIT_SEEN on a line that dials by pulses only (03 R39). -/
theorem orderDigitSeen_of_pulse (hsig : (c.line x).sig = .pulse) : orderDigitSeen x c = (c, .wrongClass) := if_pos hsig

theorem orderDigitSeen_of_other (hsig : (c.line x).sig ≠ .pulse) (hst : (c.line x).st ≠ .dialTone) :
    orderDigitSeen x c = (c, .lineBusy) := by
  rw [orderDigitSeen, if_neg hsig, if_neg hst]

/-- DIGIT_SEEN in DIAL_TONE (03 R39). -/
theorem orderDigitSeen_of_dialTone (hsig : (c.line x).sig ≠ .pulse) (hst : (c.line x).st = .dialTone) :
    orderDigitSeen x c = (c.modLine x fun l => l.firstPulsed (c.timing x), .ok) := by
  rw [orderDigitSeen, if_neg hsig, if_pos hst, setTone_eq, setSt_eq, Chip.modLine_modLine, startDialling_modLine _ rfl]
  rfl

/-- ENDDIAL in DIAL_TONE and DIALLING (03 R46). -/
theorem orderEnddial_of_dialling (hst : (c.line x).st = .dialTone ∨ (c.line x).st = .dialling) :
    orderEnddial x c = (enterRouting x (terminalFlush x .final (stopDialling x (dropPulses x c))), .ok) := by
  rcases hst with hst | hst <;> simp only [orderEnddial, hst]

theorem orderEnddial_of_other (h1 : (c.line x).st ≠ .dialTone) (h2 : (c.line x).st ≠ .dialling) :
    orderEnddial x c = (c, .lineBusy) := by
  unfold orderEnddial
  split <;> simp_all

/-- The line as ENDDIAL leaves it (03 R46). -/
def Line.dialEnded (l : Line) (clearAt : Nat) : Line := l.dialStopped.routed clearAt

/-- The end of dialling on a line without a slot. -/
theorem endDialling_of_none (hs : (c.line x).slot = none) :
    enterRouting x (terminalFlush x .final (stopDialling x (dropPulses x c))) =
      c.modLine x fun l => l.dialEnded (c.timing x).clearAt := by
  have hd : dropPulses x c = c := by simp only [dropPulses, modCtx, hs]
  rw [hd, terminalFlush_none (by simpa [stopDialling] using hs), enterRouting_eq, stopDialling, Chip.modLine_modLine,
    Chip.timing_modLine _ _ _ _ rfl]
  rfl

theorem Chip.holding_dialStopped (hs : (c.line x).slot = some k) : c.Holding x k Line.dialStopped := ⟨hs, rfl⟩

/-- The end of dialling on a line with slot k. -/
theorem endDialling_of_slot (hs : (c.line x).slot = some k) :
    enterRouting x (terminalFlush x .final (stopDialling x (dropPulses x c))) =
      (c.flushCall x k .final Line.dialStopped Ctx.undigit).modLine x fun l => l.routed (c.timing x).clearAt := by
  have hd : stopDialling x (dropPulses x c) = c.modCall x k Line.dialStopped Ctx.undigit := by
    rw [dropPulses, modCtx_of_slot hs]
    rfl
  have ht : (c.flushCall x k .final Line.dialStopped Ctx.undigit).timing x = c.timing x := by
    rw [(flushCall_digitsOnly (Chip.holding_dialStopped hs) _).timing, Chip.modCall_timing rfl]
  rw [hd, enterRouting_eq, ← Chip.flushCall, ht]

/-- The end of dialling changes line x alone. -/
theorem endDialling_line (c : Chip) (x y : LineNo) :
    (enterRouting x (terminalFlush x .final (stopDialling x (dropPulses x c)))).line y =
      if y = x then (c.line x).dialEnded (c.timing x).clearAt else c.line y := by
  cases hs : (c.line x).slot with
  | none => rw [endDialling_of_none hs, Chip.line_modLine]
  | some k =>
    have hd := flushCall_digitsOnly (h := Ctx.undigit) (Chip.holding_dialStopped hs) .final
    rw [endDialling_of_slot hs, Chip.line_modLine, hd.line, hd.line, Chip.modCall_line]
    split
    · rfl
    · next hy => exact Chip.modCall_line_ne hy

/-- A flush for which there is room queues its blocks (03 R44). -/
theorem flushCall_blocks {f : Line → Line} {h : Ctx → Ctx} (hs : c.Holding x k f) (e : EndFlag) (ht : c.taking = true)
    (hb : 1 ≤ field (c.slot k).copy[1] 0 4) (hl : (h (c.slot k).ctx).buffer.length ≤ 20)
    (hroom : c.jwr.counted + (flushed x c.stamp (field (c.slot k).copy[1] 0 4) e (h (c.slot k).ctx).overflow
      (h (c.slot k).ctx).buffer).length ≤ 32) :
    ((c.flushCall x k e f h).slot k).ctx = (h (c.slot k).ctx).flushed ∧
      (c.flushCall x k e f h).jwr =
        { c.jwr with
          queue := c.jwr.queue ++
            flushed x c.stamp (field (c.slot k).copy[1] 0 4) e (h (c.slot k).ctx).overflow (h (c.slot k).ctx).buffer } := by
  rw [Chip.flushCall, terminalFlush_blocks hs.modCall ht (by simpa using hb) (by simpa using hl) _ (by simpa using hroom)]
  simp

end

section
variable {s : State} {x : LineNo} {k : SlotNo}

theorem Chip.stamp_of_running {c : Chip} (h : c.shc.run = .running) : c.stamp = c.shc.ms := by simp [Chip.stamp, h]

theorem Chip.taking_of_running {c : Chip} (h : c.shc.run = .running) : c.taking = (c.jwr.stall == .none) := by
  simp [Chip.taking, h]

/-- ENDDIAL in DIAL_TONE and DIALLING, said of the line. -/
theorem enddial_routes (hr : Ready s) (hv : Supervised x s)
    (hst : (s.chip.line x).st = .dialTone ∨ (s.chip.line x).st = .dialling) :
    ∃ t, exec (.enddial (word x.val)) s = .next t ∧ Answered ⟨4, word x.val, 0, 0, 0, 0⟩ .ok s t ∧ OrderOnly s t ∧
      t.chip.line x = (s.chip.line x).dialEnded (s.chip.timing x).clearAt ∧ OthersKept x s t ∧
      ∀ k, (s.chip.line x).slot = some k →
        let F := (copyOrder ⟨4, word x.val, 0, 0, 0, 0⟩ s.chip).flushCall x k .final Line.dialStopped Ctx.undigit
        (∀ j, t.chip.slot j = F.slot j) ∧ t.chip.jwr = F.jwr := by
  obtain ⟨he, hu⟩ := hv
  generalize ho : (⟨4, word x.val, 0, 0, 0, 0⟩ : OrderCopy) = o
  have htake := takeOrder_enddial he hu
  rw [ho, orderEnddial_of_dialling (c := copyOrder o s.chip) hst] at htake
  have hquiet := ((((Quiet.refl (copyOrder o s.chip)).dropPulses x).stopDialling x).terminalFlush x .final).enterRouting x
  obtain ⟨t, ht, hchip, hans, honly⟩ := next_order hr (i := .enddial (word x.val)) (by rw [← ho]; rfl) htake hquiet
  refine ⟨t, ht, hans, honly, ?_, fun y hy => ?_, fun k hs => ?_⟩
  · rw [hchip, settle_line]
    exact (endDialling_line _ x x).trans (if_pos rfl)
  · rw [hchip, settle_line]
    exact (endDialling_line _ x y).trans (if_neg hy)
  · rw [hchip, endDialling_of_slot (c := copyOrder o s.chip) hs]
    exact ⟨fun j => settle_slot _ _ _, settle_jwr _ _⟩

/-- What ENDDIAL does with the digits of slot k (03 R43, R44). -/
theorem enddial_flushes (hr : Ready s) (hv : Supervised x s)
    (hst : (s.chip.line x).st = .dialTone ∨ (s.chip.line x).st = .dialling) :
    ∃ t, exec (.enddial (word x.val)) s = .next t ∧ Answered ⟨4, word x.val, 0, 0, 0, 0⟩ .ok s t ∧ OrderOnly s t ∧
      t.chip.line x = (s.chip.line x).dialEnded (s.chip.timing x).clearAt ∧ OthersKept x s t ∧
      ∀ k, (s.chip.line x).slot = some k →
        let K := (s.chip.slot k).ctx
        let size := field (s.chip.slot k).copy[1] 0 4
        OtherSlotsKept k s t ∧ (t.chip.slot k).ctx.pulses = 0 ∧
        (s.chip.jwr.stall = .none → s.chip.jwr.full = false → K.buffer.length ≤ size ∨ size = 0 →
          (t.chip.slot k).ctx = K.undigit.flushed ∧
          t.chip.jwr = { s.chip.jwr with queue := s.chip.jwr.queue ++
            [⟨some x, s.chip.shc.ms, .digits K.buffer (some .final) K.overflow⟩] }) ∧
        (s.chip.jwr.stall = .none → 1 ≤ size → K.buffer.length ≤ 20 →
          let records := flushed x s.chip.shc.ms size .final K.overflow K.buffer
          s.chip.jwr.counted + records.length ≤ 32 →
          (t.chip.slot k).ctx = K.undigit.flushed ∧
          t.chip.jwr = { s.chip.jwr with queue := s.chip.jwr.queue ++ records }) ∧
        (s.chip.jwr.stall ≠ .none →
          (t.chip.slot k).ctx = { K.undigit with mark := some (.final, K.buffer.length) } ∧ t.chip.jwr = s.chip.jwr) := by
  obtain ⟨t, ht, hans, honly, hl, ho, hflush⟩ := enddial_routes hr hv hst
  refine ⟨t, ht, hans, honly, hl, ho, fun k hs => ?_⟩
  obtain ⟨hslots, hjwr⟩ := hflush k hs
  generalize (⟨4, word x.val, 0, 0, 0, 0⟩ : OrderCopy) = o at hslots hjwr
  have hold : (copyOrder o s.chip).Holding x k Line.dialStopped := Chip.holding_dialStopped hs
  have hd := flushCall_digitsOnly (h := Ctx.undigit) hold .final
  have hstamp : (copyOrder o s.chip).stamp = s.chip.shc.ms := Chip.stamp_of_running (c := copyOrder o s.chip) hr.1
  have htaking : (copyOrder o s.chip).taking = (s.chip.jwr.stall == .none) :=
    Chip.taking_of_running (c := copyOrder o s.chip) hr.1
  rw [hslots, hjwr]
  refine ⟨fun j hj => ?_, ?_, fun hstall hfull hb => ?_, fun hstall hb hlen hroom => ?_, fun hstall => ?_⟩
  · rw [hslots, hd.others j hj]
    exact Chip.modCall_slot_ne hj
  · rw [hd.pulses, Chip.modCall_slot]
    rfl
  · have hw := flushCall_writes (h := Ctx.undigit) hold .final (by simp [htaking, hstall]) hfull hb
    rwa [hstamp] at hw
  · have hw := flushCall_blocks (h := Ctx.undigit) hold .final (by simp [htaking, hstall]) hb hlen
    rw [hstamp] at hw
    exact hw hroom
  · exact flushCall_held (h := Ctx.undigit) hold .final (by simpa [htaking] using hstall)

end

end Sys2Proof.Machine

section
open Sys2Proof Sys2Proof.Machine

/-- Settles O39: each order by the state of its line; ENDDIAL flushes what the line holds. -/
theorem dialOrdersEndOrBeginDialling : Obligations.DialOrdersEndOrBeginDialling := by
  unfold Obligations.DialOrdersEndOrBeginDialling
  intro s x hr hv l T seen ended
  obtain ⟨he, hu⟩ := hv
  refine ⟨fun hsig => ?_, fun hsig hst => ?_, fun hsig hst => ?_, fun hst => ?_, fun h1 h2 => ?_⟩
  · refine answersOnly_of_takeOrder hr rfl ?_
    rw [takeOrder_digitSeen he hu, orderDigitSeen_of_pulse (c := copyOrder seen s.chip) hsig]
    rfl
  · have htake := takeOrder_digitSeen he hu
    rw [orderDigitSeen_of_dialTone (c := copyOrder seen s.chip) hsig hst] at htake
    obtain ⟨t, ht, ha, hl, ho, hf⟩ := answers_modLine hr (i := .digitSeen (word x.val)) rfl htake
    refine ⟨t, ht, ha, ?_, ?_, ?_, ?_, ?_, ho, hf⟩ <;> rw [hl] <;> rfl
  · refine answersOnly_of_takeOrder hr rfl ?_
    rw [takeOrder_digitSeen he hu, orderDigitSeen_of_other (c := copyOrder seen s.chip) hsig hst]
    rfl
  · obtain ⟨t, ht, ha, honly, hl, ho, hflush⟩ := enddial_flushes hr ⟨he, hu⟩ hst
    refine ⟨t, ht, ha, honly, by rw [hl]; rfl, by rw [hl]; rfl, by rw [hl]; rfl, by rw [hl]; rfl, by rw [hl]; rfl, ho,
      fun k hs => ?_⟩
    obtain ⟨hslots, hp, hwrites, hblocks, hheld⟩ := hflush k hs
    exact ⟨hslots, hp, hwrites, hblocks, fun h _ => hheld h⟩
  · refine answersOnly_of_takeOrder hr rfl ?_
    rw [takeOrder_enddial he hu, orderEnddial_of_other (c := copyOrder ended s.chip) h1 h2]
    rfl

end
end

section
/-! SUPPORT. The sample that brings the expiry of a threshold (02 R17, R29, R32): the expiry delivered, and what the sense input may
add to it. -/

namespace Sys2Proof.Machine

/-! ### What the sense input of a line may add -/

/-- The line as it stands but for what its sense inputs say: hook, counts, threshold and the mirror-pending mark. -/
def Line.unsensed (l : Line) : Line :=
  { l with hook := .on, run := 0, interval := 0, threshold := .none, tripRun := 0, blank := 0, mark := false }

/-- Lines that agree but for what is sensed agree in every item that is not. -/
theorem Line.congr_of_unsensed {α : Type} {l m : Line} (h : l.unsensed = m.unsensed) (p : Line → α)
    (hp : ∀ l : Line, p l.unsensed = p l) : p l = p m := by
  rw [← hp l, h, hp m]

section
variable {c : Chip} {x : LineNo}

/-- A transition recognised that the LCT does not act on: an on-hook, or any in RELEASE_GUARD (02 R29, Table 2-3). -/
theorem recognise_senses {h : Hook} (hh : h = .on ∨ (c.line x).st = .releaseGuard) :
    ∃ f : Line → Line, recognise x h c = c.modLine x f ∧ (f (c.line x)).unsensed = (c.line x).unsensed := by
  cases h with
  | on =>
    by_cases hj : (c.line x).st.judging = true
    · refine ⟨fun l => { l.turned .on with threshold := .clear (c.timing x).clearAt }, ?_, rfl⟩
      have ha := onHook_of_judging (c := c.turned x .on) (x := x) (by simpa using hj)
      rw [Chip.turned_timing] at ha
      exact ha.trans (Chip.modLine_modLine _ _ _ _)
    · exact ⟨fun l => l.turned .on, onHook_of_not_judging (c := c.turned x .on) (by simpa using hj), rfl⟩
  | off =>
    have hst : (c.line x).st = .releaseGuard := by simpa using hh
    exact ⟨fun l => l.turned .off, offHook_of_blocked (c := c.turned x .off) (.inr (by simpa using hst)) _, rfl⟩

/-- With the relay open, a line that is off-hook or in RELEASE_GUARD has no more than its hook items changed by what is sensed
(02 R18). -/
theorem senseLine_senses (hr : (c.line x).relay = false) (hh : (c.line x).hook = .off ∨ (c.line x).st = .releaseGuard)
    (loop trip : Bool) :
    ∃ f : Line → Line, senseLine x loop trip c = c.modLine x f ∧ (f (c.line x)).unsensed = (c.line x).unsensed := by
  by_cases hon : (c.line x).sampling = .on
  · by_cases hb : (c.line x).blank = 0
    · rw [senseLine_of_loop hon hr hb]
      by_cases hl : readingOf loop = (c.line x).hook
      · exact ⟨_, loopSense_agrees hl, rfl⟩
      · by_cases hn : (c.timing x).debounce ≤ (c.line x).run + 1
        · rw [loopSense_turns hl hn]
          refine recognise_senses (hh.imp_left fun hoff => ?_)
          cases loop <;> simp_all [readingOf]
        · exact ⟨_, loopSense_counts hl (Nat.lt_of_not_le hn), rfl⟩
    · exact ⟨_, senseLine_of_blank hon hr (Nat.pos_of_ne_zero hb), rfl⟩
  · exact ⟨fun l => l, by simp [senseLine, hon, Chip.modLine_id], rfl⟩

/-! ### The expiry delivered -/

/-- The line as the expiry of its threshold is delivered (02 R17 steps 1 and 2). -/
def Line.expired (l : Line) : Line := { l.advanced with threshold := .none }

/-- The CLEAR threshold of a line falls due at its next sample (02 R21, R29). -/
structure State.ClearDue (s : State) (x : LineNo) (n : Nat) : Prop where
  sampling : (s.chip.line x).sampling = .on
  threshold : (s.chip.line x).threshold = .clear n
  reached : n ≤ min 65535 ((s.chip.line x).interval + 1)

/-- The DIGIT threshold of a line falls due at its next sample (02 R21, R32). -/
structure State.DigitDue (s : State) (x : LineNo) (n : Nat) : Prop where
  sampling : (s.chip.line x).sampling = .on
  threshold : (s.chip.line x).threshold = .digit n
  reached : n ≤ min 65535 ((s.chip.line x).interval + 1)

/-- The threshold returned to none at the sample at which it falls due. -/
theorem setThreshold_advance (x : LineNo) (c : Chip) : setThreshold x .none (advance x c) = c.modLine x Line.expired :=
  Chip.modLine_modLine _ _ _ _

section
variable {s : State} {n : Nat}

/-- The command CLEAR_EXPIRY is the sample that delivers the expiry (02 R29, log 2). -/
theorem State.ClearDue.exec_eq (h : s.ClearDue x n) (loop trip : Bool) :
    exec (.clearExpiry x loop trip) s = exec (.lineSample x loop trip) s ∧
      exec (.clearExpiry x loop trip) s =
        finish s (senseLine x loop trip (clearExpired x (s.chip.modLine x Line.expired))) := by
  have hon : ((advance x s.chip).line x).sampling = .on := by simpa [advance_eq, Line.advanced] using h.sampling
  have ht : ((advance x s.chip).line x).threshold = .clear n := by simpa [advance_eq, Line.advanced] using h.threshold
  have hdue : ((advance x s.chip).line x).thresholdDue = true := by
    simpa [Line.thresholdDue, h.threshold, advance_eq, Line.advanced] using h.reached
  have hexec : exec (.clearExpiry x loop trip) s = exec (.lineSample x loop trip) s :=
    if_pos (by simp [Chip.clearFalls, hon, hdue, ht])
  refine ⟨hexec, hexec.trans (congrArg (finish s) ?_)⟩
  simp only [sample, h.sampling, deliverExpiry, hdue, if_true, ht, setThreshold_advance]

/-- The command DIGIT_EXPIRY is the sample that delivers the expiry (02 R32, log 2). -/
theorem State.DigitDue.exec_eq (h : s.DigitDue x n) (loop trip : Bool) :
    exec (.digitExpiry x loop trip) s = exec (.lineSample x loop trip) s ∧
      exec (.digitExpiry x loop trip) s =
        finish s (senseLine x loop trip (digitExpired x (s.chip.modLine x Line.expired))) := by
  have hon : ((advance x s.chip).line x).sampling = .on := by simpa [advance_eq, Line.advanced] using h.sampling
  have ht : ((advance x s.chip).line x).threshold = .digit n := by simpa [advance_eq, Line.advanced] using h.threshold
  have hdue : ((advance x s.chip).line x).thresholdDue = true := by
    simpa [Line.thresholdDue, h.threshold, advance_eq, Line.advanced] using h.reached
  have hexec : exec (.digitExpiry x loop trip) s = exec (.lineSample x loop trip) s :=
    if_pos (by simp [Chip.digitFalls, hon, hdue, ht])
  refine ⟨hexec, hexec.trans (congrArg (finish s) ?_)⟩
  simp only [sample, h.sampling, deliverExpiry, hdue, if_true, ht, setThreshold_advance]

end

end

end Sys2Proof.Machine
end

section
/-! SUPPORT. A digit completed at the expiry of the DIGIT threshold (03 R41 to R43, R47, 09 R140). -/

namespace Sys2Proof.Machine

/-- The call context with the digit in progress completed: its value in the buffer, or dropped (03 R41, R42). -/
def Ctx.digitDone (k : Ctx) : Ctx := k.undigit.place (digitOf k.pulses)

section
variable {k : Ctx}

theorem digitOf_error {n : Nat} (h : 10 < n) : digitOf n = .error := if_pos h
theorem digitOf_value {n : Nat} (h : n ≤ 10) : digitOf n = .value (Fin.ofNat 10 n) := if_neg (Nat.not_lt.2 h)

@[simp] theorem Ctx.digitDone_pulses : k.digitDone.pulses = 0 := by
  unfold Ctx.digitDone Ctx.place
  split <;> rfl

theorem Ctx.digitDone_of_room (h : k.buffer.length < 20) :
    k.digitDone = { k with pulses := 0, buffer := k.buffer ++ [digitOf k.pulses] } := if_pos h

theorem Ctx.digitDone_of_full (h : 20 ≤ k.buffer.length) : k.digitDone = { k with pulses := 0, overflow := true } :=
  if_neg (Nat.not_lt.2 h)

end

section
variable {c : Chip} {x : LineNo} {k : SlotNo}

/-- The line as a digit that is the ERROR mark leaves it: DIALLING ends, RECALL stays (03 R47, 09 R140). -/
def Line.misdialled (l : Line) (clearAt : Nat) : Line := if l.st = .dialling then l.routed clearAt else l

theorem Line.misdialled_of_dialling {l : Line} (h : l.st = .dialling) (n : Nat) : l.misdialled n = l.routed n := if_pos h
theorem Line.misdialled_of_recall {l : Line} (h : l.st = .recall) (n : Nat) : l.misdialled n = l := if_neg (by simp [h])

theorem stopDialling_modSlot (f : Slot → Slot) :
    stopDialling x (c.modSlot k f) = (c.modLine x Line.dialStopped).modSlot k f := rfl

/-- Eleven pulses or more end collection with a flush (03 R47). -/
theorem completeDigit_of_error (hs : (c.line x).slot = some k) (hp : 10 < (c.slot k).ctx.pulses) :
    completeDigit x c =
      (c.flushCall x k .error Line.dialStopped Ctx.digitDone).modLine x fun l => l.misdialled (c.timing x).clearAt := by
  have hd : stopDialling x (modCtx x (fun k' => { k' with pulses := 0 }.place (digitOf (c.slot k).ctx.pulses)) c) =
      c.modCall x k Line.dialStopped Ctx.digitDone := by
    rw [modCtx_of_slot hs]
    rw [stopDialling_modSlot]
    exact Chip.modSlot_congr rfl
  have hF := flushCall_digitsOnly (h := Ctx.digitDone) (Chip.holding_dialStopped hs) .error
  have ht : (c.flushCall x k .error Line.dialStopped Ctx.digitDone).timing x = c.timing x := by
    rw [hF.timing, Chip.modCall_timing rfl]
  simp only [completeDigit, Chip.ctx_of_slot hs, digitOf_error hp, if_true]
  rw [digitOf_error hp] at hd
  rw [hd, ← Chip.flushCall, enterRouting_eq, ht]
  split
  · next hst => exact Chip.modLine_congr (if_pos hst).symm
  · next hst => exact (Chip.modLine_id _ x).symm.trans (Chip.modLine_congr (if_neg hst).symm)

/-- Ten pulses or fewer give a digit, and collection goes on (03 R41, R42). -/
theorem completeDigit_of_value (hs : (c.line x).slot = some k) (hp : (c.slot k).ctx.pulses ≤ 10) :
    completeDigit x c =
      (writeDueBlock x (c.modCall x k (fun l => l) Ctx.digitDone)).modLine x fun l =>
        l.dialStarted (1000 * (c.timing x).dialling) := by
  have hd : modCtx x (fun k' => { k' with pulses := 0 }.place (digitOf (c.slot k).ctx.pulses)) c =
      c.modCall x k (fun l => l) Ctx.digitDone := by
    rw [modCtx_of_slot hs, Chip.modCall, Chip.modLine_id]
    exact Chip.modSlot_congr rfl
  have ht : (writeDueBlock x (c.modCall x k (fun l => l) Ctx.digitDone)).timing x = c.timing x := by
    rw [(writeDueBlock_digitsOnly (k := k) (by simpa using hs)).timing, Chip.modCall_timing rfl]
  have hne : digitOf (c.slot k).ctx.pulses ≠ .error := by simp [digitOf_value hp]
  simp only [completeDigit, Chip.ctx_of_slot hs, hne, if_false, hd, startDialling, ht]
  rfl

theorem digitExpired_of_slot (hs : (c.line x).slot = some k)
    (hst : (c.line x).st = .dialling ∨ (c.line x).st = .recall ∧ (c.slot k).phase = .valid) :
    digitExpired x c = completeDigit x c := if_pos ((Chip.collects_of_slot hs).2 hst)

end

/-! ### The command -/

section
variable {s : State} {x : LineNo} {k : SlotNo} {n : Nat}

/-- Line x collects digits in slot k and is off-hook with its relay open as its DIGIT threshold falls due (03 R41). -/
structure State.DigitEnds (s : State) (x : LineNo) (k : SlotNo) (n : Nat) : Prop where
  due : s.DigitDue x n
  relay : (s.chip.line x).relay = false
  hook : (s.chip.line x).hook = .off
  slot : (s.chip.line x).slot = some k
  collects : (s.chip.line x).st = .dialling ∨ (s.chip.line x).st = .recall ∧ (s.chip.slot k).phase = .valid

/-- The digit is completed, and the sense input adds no more than hook items. -/
theorem State.DigitEnds.exec_eq {d : Chip} {g : Line → Line} (h : s.DigitEnds x k n)
    (hd : completeDigit x (s.chip.modLine x Line.expired) = d.modLine x g)
    (hg : (g (d.line x)).relay = false ∧ (g (d.line x)).hook = .off) (loop trip : Bool) :
    ∃ f : Line → Line, exec (.digitExpiry x loop trip) s = finish s (d.modLine x fun l => f (g l)) ∧
      (f (g (d.line x))).unsensed = (g (d.line x)).unsensed := by
  obtain ⟨hrelay, hhook⟩ := hg
  have hexec := (h.due.exec_eq loop trip).2
  rw [digitExpired_of_slot (k := k) (by simpa [Line.expired, Line.advanced] using h.slot)
    (by simpa [Line.expired, Line.advanced] using h.collects), hd] at hexec
  obtain ⟨f, hf, hsame⟩ := senseLine_senses (c := d.modLine x g) (x := x) (by simpa using hrelay) (.inl (by simpa using hhook))
    loop trip
  rw [hf, Chip.modLine_modLine] at hexec
  exact ⟨f, hexec, by simpa using hsame⟩

/-- The command of a digit that is the ERROR mark: a flush. -/
theorem State.DigitEnds.exec_error (h : s.DigitEnds x k n) (hp : 10 < (s.chip.slot k).ctx.pulses) (loop trip : Bool) :
    ∃ g : Line → Line,
      exec (.digitExpiry x loop trip) s =
        finish s ((s.chip.flushCall x k .error (fun l => l.expired.dialStopped) Ctx.digitDone).modLine x g) ∧
      (g (s.chip.line x).expired.dialStopped).unsensed =
        ((s.chip.line x).expired.dialStopped.misdialled (s.chip.timing x).clearAt).unsensed := by
  have hold : s.chip.Holding x k fun l => l.expired.dialStopped := ⟨h.slot, rfl⟩
  have hd := completeDigit_of_error (c := s.chip.modLine x Line.expired) (x := x) (k := k)
    (by simpa [Line.expired, Line.advanced] using h.slot) hp
  have hcall : (s.chip.modLine x Line.expired).flushCall x k .error Line.dialStopped Ctx.digitDone =
      s.chip.flushCall x k .error (fun l => l.expired.dialStopped) Ctx.digitDone := by
    rw [Chip.flushCall, Chip.modCall, Chip.modLine_modLine]
    rfl
  have hline : (s.chip.flushCall x k .error (fun l => l.expired.dialStopped) Ctx.digitDone).line x =
      (s.chip.line x).expired.dialStopped := by
    rw [(flushCall_digitsOnly hold _).line, Chip.modCall_line]
  rw [hcall, Chip.timing_modLine _ _ _ _ rfl] at hd
  obtain ⟨f, hexec, hf⟩ := h.exec_eq hd (by
    rw [hline, Line.misdialled]
    split
    · exact ⟨h.relay, h.hook⟩
    · exact ⟨h.relay, h.hook⟩) loop trip
  exact ⟨_, hexec, by rw [hline] at hf; exact hf⟩

/-- The command of any other digit: a block that may be due. -/
theorem State.DigitEnds.exec_value (h : s.DigitEnds x k n) (hp : (s.chip.slot k).ctx.pulses ≤ 10) (loop trip : Bool) :
    ∃ g : Line → Line,
      exec (.digitExpiry x loop trip) s =
        finish s ((writeDueBlock x (s.chip.modCall x k Line.expired Ctx.digitDone)).modLine x g) ∧
      (g (s.chip.line x).expired).unsensed =
        ((s.chip.line x).expired.dialStarted (1000 * (s.chip.timing x).dialling)).unsensed := by
  have hd := completeDigit_of_value (c := s.chip.modLine x Line.expired) (x := x) (k := k)
    (by simpa [Line.expired, Line.advanced] using h.slot) hp
  have hcall : (s.chip.modLine x Line.expired).modCall x k (fun l => l) Ctx.digitDone =
      s.chip.modCall x k Line.expired Ctx.digitDone := by
    rw [Chip.modCall, Chip.modLine_modLine]
    rfl
  have hline : (writeDueBlock x (s.chip.modCall x k Line.expired Ctx.digitDone)).line x = (s.chip.line x).expired := by
    rw [(writeDueBlock_digitsOnly (k := k) (by simpa [Line.expired, Line.advanced] using h.slot)).line, Chip.modCall_line]
  rw [hcall, Chip.timing_modLine _ _ _ _ rfl] at hd
  obtain ⟨f, hexec, hf⟩ := h.exec_eq hd (by rw [hline]; exact ⟨h.relay, h.hook⟩) loop trip
  exact ⟨_, hexec, by rw [hline] at hf; exact hf⟩

/-- What a due block does with the digit just completed (03 R42, R43). -/
theorem writeDueBlock_digitDone {f : Line → Line} (hs : s.chip.Holding x k f) :
    let K := (s.chip.slot k).ctx
    let size := field (s.chip.slot k).copy[1] 0 4
    let d := writeDueBlock x (s.chip.modCall x k f Ctx.digitDone)
    (20 ≤ K.buffer.length → size ≠ K.buffer.length →
      (d.slot k).ctx = { K with pulses := 0, overflow := true } ∧ d.jwr = s.chip.jwr) ∧
    (K.buffer.length < 20 → K.mark.isSome = true ∨ K.buffer.length + 1 ≠ size ∨ s.chip.taking = false →
      (d.slot k).ctx = { K with pulses := 0, buffer := K.buffer ++ [digitOf K.pulses] } ∧ d.jwr = s.chip.jwr) ∧
    (K.buffer.length < 20 → K.mark = none → K.buffer.length + 1 = size → s.chip.taking = true → s.chip.jwr.full = false →
      (d.slot k).ctx = { K with pulses := 0, buffer := [], overflow := false } ∧
      d.jwr = { s.chip.jwr with queue := s.chip.jwr.queue ++
        [⟨some x, s.chip.stamp, .digits (K.buffer ++ [digitOf K.pulses]) none K.overflow⟩] }) := by
  intro K size d
  have hslot := Chip.modCall_slot (c := s.chip) (x := x) (k := k) (f := f) (h := Ctx.digitDone)
  refine ⟨fun hlen hsize => ?_, fun hlen hkeep => ?_, fun hlen hmark hsize ht hfull => ?_⟩
  · rw [Ctx.digitDone_of_full hlen] at hslot
    have hd : d = s.chip.modCall x k f Ctx.digitDone :=
      writeDueBlock_keeps hs.modCall (by rw [hslot]; exact .inr (.inl hsize.symm))
    rw [hd, hslot]
    exact ⟨rfl, rfl⟩
  · rw [Ctx.digitDone_of_room hlen] at hslot
    have hd : d = s.chip.modCall x k f Ctx.digitDone :=
      writeDueBlock_keeps hs.modCall (by rw [hslot]; simpa using hkeep)
    rw [hd, hslot]
    exact ⟨rfl, rfl⟩
  · rw [Ctx.digitDone_of_room hlen] at hslot
    have hd := writeDueBlock_writes (c := s.chip.modCall x k f Ctx.digitDone) hs.modCall (by rw [hslot]; exact hmark)
      (by rw [hslot]; simpa using hsize) ht hfull
    rw [hslot] at hd
    simp only [d, hd, Chip.slot_modSlot_self, Chip.digitsQueued_slot, hslot, Chip.modSlot_jwr, Chip.digitsQueued_jwr]
    exact ⟨trivial, rfl⟩

end

end Sys2Proof.Machine

section
open Sys2Proof Sys2Proof.Machine

/-- Settles O23: a digit is completed in the call context; the ERROR mark ends in a flush, any other digit in a block if one is due. -/
theorem digitExpiryCompletesTheDigit : Obligations.DigitExpiryCompletesTheDigit := by
  unfold Obligations.DigitExpiryCompletesTheDigit
  intro s x loop trip n k l K size hon hrelay hhook hthreshold hn hst hs hpulses
  have h : s.DigitEnds x k n := ⟨⟨hon, hthreshold, hn⟩, hrelay, hhook, hs, hst⟩
  refine ⟨(h.due.exec_eq loop trip).1, ?_⟩
  by_cases hp : 10 < K.pulses
  · obtain ⟨g, hexec, hg⟩ := h.exec_error hp loop trip
    obtain ⟨t, ht, hl, ho, hslots, h0, hframe, hwrites, hheld⟩ :=
      next_flushCall (k := k) (f := fun l => l.expired.dialStopped) ⟨hs, rfl⟩ hexec
    rw [← hl] at hg
    have hslot : (t.chip.line x).slot = some k ∧ (t.chip.line x).dialling = none := by
      rw [Line.congr_of_unsensed hg Line.slot fun _ => rfl, Line.congr_of_unsensed hg Line.dialling fun _ => rfl]
      rcases hst with hd | ⟨hd, -⟩
      · rw [Line.misdialled_of_dialling (l := (s.chip.line x).expired.dialStopped) hd]
        exact ⟨hs, rfl⟩
      · rw [Line.misdialled_of_recall (l := (s.chip.line x).expired.dialStopped) hd]
        exact ⟨hs, rfl⟩
    refine ⟨t, ht, h0.trans Ctx.digitDone_pulses, ho, hslots, hframe, hslot.1, fun _ => ⟨hslot.2, fun hd => ?_, fun hd => ?_,
      fun hlen hsize => ?_⟩, fun hle => absurd hp (Nat.not_lt.2 hle)⟩
    · rw [Line.misdialled_of_dialling (l := (s.chip.line x).expired.dialStopped) hd] at hg
      exact ⟨Line.congr_of_unsensed hg Line.st fun _ => rfl, Line.congr_of_unsensed hg Line.tone fun _ => rfl⟩
    · rw [Line.misdialled_of_recall (l := (s.chip.line x).expired.dialStopped) hd] at hg
      exact ⟨(Line.congr_of_unsensed hg Line.st fun _ => rfl).trans hd, Line.congr_of_unsensed hg Line.tone fun _ => rfl⟩
    · rw [Ctx.digitDone_of_room hlen, digitOf_error hp] at hwrites hheld
      exact ⟨fun ht hfull => hwrites ht hfull (by simpa using hsize), fun ht => by simpa using hheld ht⟩
  · replace hp := Nat.le_of_not_lt hp
    obtain ⟨g, hexec, hg⟩ := h.exec_value hp loop trip
    have hold : s.chip.Holding x k Line.expired := ⟨hs, rfl⟩
    obtain ⟨t, ht, hl, ho, hslots, h0, hframe, hslot, hjwr⟩ :=
      next_digitsOnly (writeDueBlock_digitsOnly (hold.modCall (h := Ctx.digitDone))) hexec
    rw [← hl] at hg
    refine ⟨t, ht, h0.trans Ctx.digitDone_pulses, ho, hslots, hframe, ?_, fun hlt => absurd hp (Nat.not_le.2 hlt),
      fun _ => ⟨?_, ?_, ?_⟩⟩
    · exact (Line.congr_of_unsensed hg Line.slot fun _ => rfl).trans hs
    · exact Line.congr_of_unsensed hg Line.st fun _ => rfl
    · exact Line.congr_of_unsensed hg Line.dialling fun _ => rfl
    · rw [hslot, hjwr, ← digitOf_value hp]
      exact writeDueBlock_digitDone hold

end
end

section
/-! SUPPORT. What the granting of a freed slot may do to the lines (04 R64): every line keeps its timing set, hook state and hook
interval, and a line that holds no slot and is not the one served keeps all but its ring relay. -/

namespace Sys2Proof.Machine

/-- The items of a line that no grant, walk or trip changes: timing set, hook state and hook interval. -/
def Line.fixed (l : Line) : SetNo × Hook × Nat := (l.tset, l.hook, l.interval)

/-- The line as it stands but for its ring relay, what the movement of the relay resets (02 R22), and the mirror-pending mark. -/
def Line.unrelayed (l : Line) : Line := { l with relay := false, run := 0, tripRun := 0, blank := 0, mark := false }

theorem Line.moveRelay_unrelayed (l : Line) (blank : Nat) (closed : Bool) :
    (l.moveRelay blank closed).unrelayed = l.unrelayed := by
  unfold Line.moveRelay
  split
  · rfl
  · split <;> rfl

theorem Line.moveRelay_fixed (l : Line) (blank : Nat) (closed : Bool) : (l.moveRelay blank closed).fixed = l.fixed := by
  unfold Line.moveRelay
  split
  · rfl
  · split <;> rfl

/-- Lines that agree but for the relay's items agree in every item that is not one of them. -/
theorem Line.congr_of_unrelayed {α : Type} {l m : Line} (h : l.unrelayed = m.unrelayed) (p : Line → α)
    (hp : ∀ l : Line, p l.unrelayed = p l) : p l = p m := by
  rw [← hp l, h, hp m]

/-- Work for line y, which reaches the lines with a slot besides and spares every other. -/
structure Chip.Spares (y : LineNo) (c d : Chip) : Prop where
  fixed : ∀ x, (d.line x).fixed = (c.line x).fixed
  rest : ∀ x, x ≠ y → (c.line x).slot = none → (d.line x).unrelayed = (c.line x).unrelayed

namespace Chip.Spares
variable {y z : LineNo} {c d e : Chip}

theorem refl (y : LineNo) (c : Chip) : Spares y c c := ⟨fun _ => rfl, fun _ _ _ => rfl⟩

/-- A line spared without a slot has none afterwards. -/
theorem slot_none (h : Spares y c d) {x : LineNo} (hx : x ≠ y) (hs : (c.line x).slot = none) : (d.line x).slot = none :=
  (Line.congr_of_unrelayed (h.rest x hx hs) Line.slot fun _ => rfl).trans hs

theorem trans (h : Spares y c d) (k : Spares y d e) : Spares y c e :=
  ⟨fun x => (k.fixed x).trans (h.fixed x), fun x hx hs => (k.rest x hx (h.slot_none hx hs)).trans (h.rest x hx hs)⟩

/-! ### The updates -/

theorem lines (h : Spares y c d) (hl : e.lines = d.lines) : Spares y c e := by
  have hline (x : LineNo) : e.line x = d.line x := by rw [Chip.line, hl]; rfl
  exact ⟨fun x => by rw [hline, h.fixed], fun x hx hs => by rw [hline, h.rest x hx hs]⟩

theorem modLine (h : Spares y c d) (hz : z = y ∨ (c.line z).slot ≠ none) (f : Line → Line) (hf : ∀ l, (f l).fixed = l.fixed) :
    Spares y c (d.modLine z f) where
  fixed x := by
    by_cases hx : x = z
    · rw [hx, Chip.line_modLine_self, hf, h.fixed]
    · rw [Chip.line_modLine_ne _ _ hx, h.fixed]
  rest x hx hs := by
    have hxz : x ≠ z := by
      rintro rfl
      exact hz.elim hx fun hsome => hsome hs
    rw [Chip.line_modLine_ne _ _ hxz, h.rest x hx hs]

theorem modSlot (h : Spares y c d) (i : SlotNo) (f : Slot → Slot) : Spares y c (d.modSlot i f) := h.lines rfl
theorem setLru (h : Spares y c d) (l : List SlotNo) : Spares y c (d.setLru l) := h.lines rfl
theorem setWaitList (h : Spares y c d) (l : List SlotWait) : Spares y c (d.setWaitList l) := h.lines rfl
theorem modMpt (h : Spares y c d) (f : Mpt → Mpt) : Spares y c (d.modMpt f) := h.lines rfl
theorem modJwr (h : Spares y c d) (f : Jwr → Jwr) : Spares y c (d.modJwr f) := h.lines rfl
theorem modRsc (h : Spares y c d) (f : Rsc → Rsc) : Spares y c (d.modRsc f) := h.lines rfl
theorem modEntry (h : Spares y c d) (w : LineNo) (f : RingWait → RingWait) : Spares y c (modEntry w f d) := h.modRsc _
theorem modGen (h : Spares y c d) (f : Gen → Gen) : Spares y c (d.modGen f) := h.lines rfl

theorem openRelays (h : Spares y c d) : Spares y c (openRelays d) := by
  have hline (x : LineNo) : (Machine.openRelays d).line x = (d.line x).moveRelay (d.sets[(d.line x).tset]).burstBlank false :=
    mapEach_get _ d.lines x
  exact ⟨fun x => by rw [hline, Line.moveRelay_fixed, h.fixed], fun x hx hs => by rw [hline, Line.moveRelay_unrelayed, h.rest x hx hs]⟩

theorem emit (h : Spares y c d) (w : Option LineNo) (b : Body) : Spares y c (emit w b d) := h.lines (emit_lines ..)

theorem raiseFault (h : Spares y c d) (k : FaultKind) (w : Option LineNo) (n : Nat) : Spares y c (raiseFault k w n d) :=
  h.lines (raiseFault_lines ..)

theorem modCtx (h : Spares y c d) (w : LineNo) (f : Ctx → Ctx) : Spares y c (modCtx w f d) := by
  unfold Machine.modCtx
  split
  · exact h.lines rfl
  · exact h

theorem setSt (h : Spares y c d) (hz : z = y ∨ (c.line z).slot ≠ none) (st : LineSt) : Spares y c (setSt z st d) :=
  h.modLine hz _ fun _ => rfl

theorem setTone (h : Spares y c d) (hz : z = y ∨ (c.line z).slot ≠ none) (t : Tone) : Spares y c (setTone z t d) :=
  h.modLine hz _ fun _ => rfl

theorem setSelector (h : Spares y c d) (hz : z = y ∨ (c.line z).slot ≠ none) (k : Option Selector) :
    Spares y c (setSelector z k d) :=
  h.modLine hz _ fun _ => rfl

theorem setRelay (h : Spares y c d) (hz : z = y ∨ (c.line z).slot ≠ none) (closed : Bool) : Spares y c (setRelay z closed d) :=
  h.modLine hz _ fun l => l.moveRelay_fixed _ _

theorem setSlotRef (h : Spares y c d) (hz : z = y ∨ (c.line z).slot ≠ none) (i : Option SlotNo) : Spares y c (setSlotRef z i d) :=
  h.modLine hz _ fun _ => rfl

/-! ### Ringing and the generator -/

theorem dropAlloc (h : Spares y c d) (hz : z = y ∨ (c.line z).slot ≠ none) (a : Alloc) : Spares y c (dropAlloc z a d) :=
  (((h.modRsc _).modCtx z _).setRelay hz _).setSelector hz _

/-- An allocation stands in the context of the line's slot. -/
theorem slot_of_alloc {a : Alloc} (h : c.alloc z = some a) : (c.line z).slot ≠ none := by
  intro hs
  simp [Chip.alloc, Chip.ctx, hs] at h

theorem shedLine (h : Spares y c d) (why : ShedReason) (z : LineNo) : Spares y c (shedLine why z d) := by
  unfold Machine.shedLine
  split
  · exact h.lines rfl
  · next a ha =>
    have hz : z = y ∨ (d.line z).slot ≠ none := .inr (slot_of_alloc ha)
    have hdrop : Spares y d (Machine.dropAlloc z a d) := (refl y d).dropAlloc hz a
    exact h.trans ((((hdrop.modRsc _).modCtx z _).setSt hz _).emit _ _)

theorem setGen (h : Spares y c d) (st : GenSt) (w : GenCause) (n : Nat) : Spares y c (setGen st w n d) := by
  have hemit : Spares y c (Machine.emit none (.genState st d.gen.state w n) (d.modGen fun g => { g with state := st })) :=
    (h.modGen _).emit _ _
  unfold Machine.setGen
  split
  · exact hemit.lines rfl
  · exact hemit

theorem tripGen (h : Spares y c d) : Spares y c (tripGen d) := by
  have hfold (l : List LineNo) {d : Chip} (h : Spares y c d) : Spares y c (l.foldl (fun c x => Machine.shedLine .trip x c) d) := by
    induction l generalizing d with
    | nil => exact h
    | cons x l ih => exact ih (h.shedLine _ x)
  unfold Machine.tripGen
  refine hfold _ ?_
  split
  · exact ((((h.modGen _).openRelays).modGen _).setGen _ _ _).raiseFault _ _ _
  · exact ((((h.modGen _).openRelays).modGen _).setGen _ _ _).raiseFault _ _ _

theorem startRequest (h : Spares y c d) : Spares y c (startRequest d) := by
  unfold Machine.startRequest
  split
  · dsimp only
    split
    · exact ((h.modGen _).setGen _ _ _).tripGen
    · exact (h.modGen _).setGen _ _ _
  · exact h

theorem admitRing (h : Spares y c d) {q : RingWait} (hz : (c.line q.line).slot ≠ none) (p : PlanNo) (segs : Plan)
    (copy : Vector Word 8) (k : Nat) : Spares y c (admitRing q p segs copy k d) :=
  (((((h.modCtx q.line _).modRsc _).setSelector (.inr hz) _).setSt (.inr hz) _).emit _ _)

theorem tryAdmit {q : RingWait} (h : tryAdmit q d = some e) : Spares y d e := by
  unfold Machine.tryAdmit at h
  split at h
  · next p copy _ hcopy =>
    have hz : (d.line q.line).slot ≠ none := by
      intro hs
      simp [Chip.record, hs] at hcopy
    split at h
    · obtain ⟨k, -, rfl⟩ := Option.map_eq_some_iff.1 h
      exact (refl y d).admitRing hz _ _ _ _
    · simp at h
  · simp at h

theorem walkFrom (l : List RingWait) (h : Spares y c d) : Spares y c (walkFrom l d) := by
  induction l generalizing d with
  | nil => exact h
  | cons q l ih =>
    unfold Machine.walkFrom
    split
    · split
      · next hq => exact ih (h.trans (tryAdmit hq))
      · split
        · exact h
        · exact ih h
    · exact ih h

theorem walk (h : Spares y c d) : Spares y c (walk d) := by
  unfold Machine.walk
  split
  · exact h.walkFrom _
  · split
    · exact h.startRequest
    · exact h
  all_goals exact h

/-! ### Slots -/

theorem markFailed (h : Spares y c d) (w : LineNo) : Spares y c (markFailed w d) := by
  unfold Machine.markFailed
  split
  · exact h.lines rfl
  · exact h

theorem dropValid (h : Spares y c d) (i : SlotNo) : Spares y c (dropValid y i d) := by
  obtain ⟨f, -, hd⟩ := dropValid_eq y i d
  rw [hd]
  exact (((h.modJwr f).setSlotRef (.inl rfl) none).modSlot i _).setLru _

theorem dropFetching (h : Spares y c d) (i : SlotNo) : Spares y c (dropFetching y i d) := by
  unfold Machine.dropFetching
  dsimp only
  split
  · exact (h.setSlotRef (.inl rfl) none).lines rfl
  · exact (h.setSlotRef (.inl rfl) none).lines rfl

theorem dropSlot (h : Spares y c d) : Spares y c (dropSlot y d).1 := by
  unfold Machine.dropSlot
  split
  · split
    · exact h.dropValid _
    · exact h.dropFetching _
  · exact (h.setWaitList _).modLine (.inl rfl) (fun l => { l with asking := false }) fun _ => rfl

theorem enterIdle (h : Spares y c d) : Spares y c (enterIdle y d) := by
  unfold Machine.enterIdle
  split
  · exact (h.setSt (.inl rfl) _).setTone (.inl rfl) _
  · exact enterUnequipped_eq y d ▸ h.modLine (.inl rfl) (fun l => l.unequip _) fun _ => rfl

theorem enterParked (h : Spares y c d) (r : ParkReason) : Spares y c (enterParked y (some r) d) := by
  rw [enterParked_some, enterParked_none]
  exact (h.modLine (.inl rfl) (fun l => l.parked _ _) fun _ => rfl).emit _ _

theorem giveDialTone (h : Spares y c d) : Spares y c (giveDialTone y d) := by
  rw [giveDialTone_eq]
  exact h.modLine (.inl rfl) (fun l => l.dialToned _ _ _) fun _ => rfl

theorem applyDialTone (h : Spares y c d) : Spares y c (applyDialTone y d) := h.giveDialTone.emit _ _

theorem refuseSeizure (h : Spares y c d) : Spares y c (refuseSeizure y d).1 :=
  (((h.markFailed y).raiseFault _ _ _).dropSlot).enterParked _

theorem refuseRing (h : Spares y c d) (why : RingFail) (p : Nat) : Spares y c (refuseRing y why p d).1 := by
  have hmark : Spares y c (if why = .record then Machine.markFailed y d else d) := by
    split
    · exact h.markFailed y
    · exact h
  exact ((((hmark.raiseFault _ _ _).emit _ _).modRsc _).dropSlot).enterIdle

theorem acceptRing (h : Spares y c d) (copy : Vector Word 8) : Spares y c (acceptRing y copy d) := (h.modRsc _).walk

theorem acceptRecall (h : Spares y c d) (copy : Vector Word 8) : Spares y c (acceptRecall y copy d) := by
  have htone : Spares y c (if recRecallTone copy then Machine.setTone y .dial d else d) := by
    split
    · exact h.setTone (.inl rfl) _
    · exact h
  exact htone.modLine (.inl rfl) (fun l => { l with dialling := _ }) fun _ => rfl

theorem refuseRecall (h : Spares y c d) : Spares y c (refuseRecall y d).1 := ((h.markFailed y).raiseFault _ _ _).dropSlot

theorem takeRecord (h : Spares y c d) : Spares y c (takeRecord y d).1 := by
  unfold Machine.takeRecord
  split
  · exact h
  · dsimp only
    split
    · split
      · exact h.applyDialTone
      · exact h.refuseSeizure
    · split
      · exact h
      · split
        · exact h.refuseRing _ _
        · split
          · exact h.refuseRing _ _
          · exact h.acceptRing _
    · split
      · exact h.acceptRecall _
      · exact h.refuseRecall
    · exact h

theorem bindSlot (h : Spares y c d) (i : SlotNo) : Spares y c (bindSlot i y d) := by
  have href : Spares y c (Machine.setSlotRef y (some i) (Machine.toMru i (d.modSlot i fun s => s.bind y ((d.slot i).grantKind y)))) :=
    ((h.modSlot i _).setLru _).setSlotRef (.inl rfl) _
  unfold Machine.bindSlot
  dsimp only
  split
  · exact href.modMpt _
  · exact href
  · exact href

theorem takeGrant (h : Spares y c d) (i : SlotNo) : Spares y c (takeGrant i y d).1 := by
  unfold Machine.takeGrant
  dsimp only
  split
  · exact h.modEntry _ _
  · exact (h.modEntry _ _).takeRecord

end Chip.Spares

/-! ### Grants one after another -/

section
variable {c : Chip} {x : LineNo}

/-- Every line keeps timing set, hook state and hook interval over the grant of a freed slot. -/
theorem settleFreed_fixed (n : Nat) (i : SlotNo) (c : Chip) (x : LineNo) :
    ((settleFreed n i c).line x).fixed = (c.line x).fixed := by
  induction n generalizing i c with
  | zero => rfl
  | succ n ih =>
    unfold settleFreed
    split
    · rfl
    · next e rest _ =>
      split
      · have hgrant := (((Chip.Spares.refl e.line c).setWaitList rest).bindSlot i).takeGrant i
        dsimp only
        split
        · rw [ih, hgrant.fixed]
        · exact hgrant.fixed x
      · rfl

theorem grantFreed_fixed (r : Chip × Option SlotNo) (x : LineNo) : ((grantFreed r).line x).fixed = (r.1.line x).fixed := by
  unfold grantFreed
  split
  · exact settleFreed_fixed _ _ _ _
  · rfl

/-- Every line keeps timing set, hook state and hook interval as a slot is given up. -/
theorem releaseSlot_fixed (x y : LineNo) (c : Chip) : ((releaseSlot x c).line y).fixed = (c.line y).fixed :=
  (grantFreed_fixed _ y).trans ((Chip.Spares.refl x c).dropSlot.fixed y)

/-- The states in which the LCT takes the record a slot brings (01 R2). -/
def LineSt.takesRecord : LineSt → Bool
  | .seizeWait | .ringWait | .recall => true
  | _ => false

/-- The line as it stands but for its slot and slot request, its ring relay and the mirror-pending mark. -/
def Line.unserved (l : Line) : Line := { l.unrelayed with slot := none, asking := false }

/-- Lines that agree but for slot and relay agree in every item that is not one of these. -/
theorem Line.congr_of_unserved {α : Type} {l m : Line} (h : l.unserved = m.unserved) (p : Line → α)
    (hp : ∀ l : Line, p l.unserved = p l) : p l = p m := by
  rw [← hp l, h, hp m]

theorem takeRecord_of_not_takes (h : (c.line x).st.takesRecord = false) : takeRecord x c = (c, none) := by
  unfold takeRecord
  split
  · rfl
  · dsimp only
    split
    all_goals simp_all [LineSt.takesRecord]

/-- A grant to a line that takes no record in its state changes its slot reference only. -/
theorem takeGrant_of_not_takes (i : SlotNo) (h : (c.line x).st.takesRecord = false) :
    (takeGrant i x c).2 = none ∧ (takeGrant i x c).1.line x = c.line x := by
  unfold takeGrant
  dsimp only
  split
  · exact ⟨rfl, rfl⟩
  · rw [takeRecord_of_not_takes (by simpa using h)]
    exact ⟨rfl, rfl⟩

/-- A line without a slot, in a state that takes no record, is left alone by the grant of a freed slot but for slot and relay. -/
theorem settleFreed_unserved (n : Nat) (i : SlotNo) (hs : (c.line x).slot = none) (hst : (c.line x).st.takesRecord = false) :
    ((settleFreed n i c).line x).unserved = (c.line x).unserved := by
  induction n generalizing i c with
  | zero => rfl
  | succ n ih =>
    unfold settleFreed
    split
    · rfl
    · next e rest _ =>
      split
      · dsimp only
        by_cases hx : x = e.line
        · subst hx
          have hbind := bindSlot_line_self i e.line (c.setWaitList rest)
          obtain ⟨hnone, hline⟩ := takeGrant_of_not_takes (c := bindSlot i e.line (c.setWaitList rest)) (x := e.line) i
            (by rw [hbind]; exact hst)
          rw [hnone]
          rw [hline, hbind]
          rfl
        · have hgrant := (((Chip.Spares.refl e.line c).setWaitList rest).bindSlot i).takeGrant i
          have hkept := hgrant.rest x hx hs
          split
          · rw [ih _ (hgrant.slot_none hx hs) (by rw [Line.congr_of_unrelayed hkept Line.st fun _ => rfl]; exact hst)]
            exact congrArg (fun l : Line => { l with slot := none, asking := false }) hkept
          · exact congrArg (fun l : Line => { l with slot := none, asking := false }) hkept
      · rfl

theorem dropSlot_of_fetching {i : SlotNo} (hs : (c.line x).slot = some i) (hp : (c.slot i).phase = .fetching) :
    dropSlot x c = (dropFetching x i c, some i) := by
  simp only [dropSlot, hs, hp]

theorem dropSlot_of_none (hs : (c.line x).slot = none) :
    dropSlot x c =
      ((c.setWaitList (c.sst.waitList.filter (·.line ≠ x))).modLine x fun l => { l with asking := false }, none) := by
  simp only [dropSlot, hs]

/-- Of the lines, the leaving of a slot that is fetched changes the slot reference of its line (04 R61). -/
theorem dropFetching_lines (x : LineNo) (i : SlotNo) (c : Chip) :
    (dropFetching x i c).lines = (c.modLine x fun l => l.slotted none).lines := by
  unfold dropFetching
  dsimp only
  split <;> rfl

/-- What the giving up of a slot or a request leaves of the line. -/
theorem dropSlot_line_self (x : LineNo) (c : Chip) :
    (dropSlot x c).1.line x = (c.line x).slotted none ∨
      (c.line x).slot = none ∧ (dropSlot x c).1.line x = { c.line x with asking := false } := by
  cases hs : (c.line x).slot with
  | none => exact .inr ⟨rfl, by simp [dropSlot_of_none hs]⟩
  | some i =>
    left
    cases hp : (c.slot i).phase with
    | valid => simp [dropSlot_of_valid hs hp]
    | fetching => simp [dropSlot_of_fetching hs hp, Chip.line, dropFetching_lines, Chip.modLine]

theorem dropSlot_slot (x : LineNo) (c : Chip) : ((dropSlot x c).1.line x).slot = none := by
  obtain h | ⟨hs, h⟩ := dropSlot_line_self x c
  · rw [h]
    rfl
  · rw [h]
    exact hs

theorem dropSlot_unserved (x : LineNo) (c : Chip) : ((dropSlot x c).1.line x).unserved = (c.line x).unserved := by
  obtain h | ⟨-, h⟩ := dropSlot_line_self x c
  · rw [h]
    rfl
  · rw [h]
    rfl

/-- A line in a state that takes no record gives up its slot, and keeps all but slot and relay whatever is granted on. -/
theorem releaseSlot_unserved (hst : (c.line x).st.takesRecord = false) :
    ((releaseSlot x c).line x).unserved = (c.line x).unserved := by
  unfold releaseSlot grantFreed
  split
  · rw [settleFreed_unserved _ _ (dropSlot_slot x c)
      (by rw [Line.congr_of_unserved (dropSlot_unserved x c) Line.st fun _ => rfl]; exact hst), dropSlot_unserved]
  · exact dropSlot_unserved x c

end

end Sys2Proof.Machine
end

section
/-! SUPPORT. A slot given up of which nothing is granted on (04 R61, R63, R66), and the entry to RELEASE_GUARD (01 R9). -/

namespace Sys2Proof.Machine

section
variable {c : Chip} {x : LineNo} {k : SlotNo}

/-! ### Nothing granted on -/

theorem dropSlot_line_ne {y : LineNo} (hy : y ≠ x) (c : Chip) : (dropSlot x c).1.line y = c.line y := by
  cases hs : (c.line x).slot with
  | none => simp [dropSlot_of_none hs, Chip.line_modLine_ne _ _ hy]
  | some i =>
    cases hp : (c.slot i).phase with
    | valid => simp [dropSlot_of_valid hs hp, dropValid_line_ne _ _ _ hy]
    | fetching =>
      rw [dropSlot_of_fetching hs hp, ← Chip.line_modLine_ne c (fun l => l.slotted none) hy]
      exact congrArg (·[y]) (dropFetching_lines x i c)

/-- The write queue is left alone as a slot is given up. -/
theorem dropSlot_queue (x : LineNo) (c : Chip) : (dropSlot x c).1.jwr.queue = c.jwr.queue := by
  cases hs : (c.line x).slot with
  | none => simp [dropSlot_of_none hs]
  | some i =>
    cases hp : (c.slot i).phase with
    | valid => simp [dropSlot_of_valid hs hp]
    | fetching =>
      rw [dropSlot_of_fetching hs hp]
      unfold dropFetching
      dsimp only
      split <;> rfl

/-- Nothing is lost of a slot given up while the journal takes records (04 R63). -/
theorem dropSlot_jwr_of_taking (x : LineNo) (h : c.taking = true) : (dropSlot x c).1.jwr = c.jwr := by
  cases hs : (c.line x).slot with
  | none => simp [dropSlot_of_none hs]
  | some i =>
    cases hp : (c.slot i).phase with
    | valid =>
      rw [dropSlot_of_valid hs hp]
      exact dropValid_jwr_of_kept (by simp [h])
    | fetching =>
      rw [dropSlot_of_fetching hs hp]
      unfold dropFetching
      dsimp only
      split <;> rfl

theorem dropSlot_shc (x : LineNo) (c : Chip) : (dropSlot x c).1.shc = c.shc := by
  cases hs : (c.line x).slot with
  | none => simp [dropSlot_of_none hs]
  | some i =>
    cases hp : (c.slot i).phase with
    | valid => simp [dropSlot_of_valid hs hp]
    | fetching =>
      rw [dropSlot_of_fetching hs hp]
      unfold dropFetching
      dsimp only
      split <;> rfl

theorem dropSlot_waitList_of_nil (x : LineNo) (h : c.sst.waitList = []) : (dropSlot x c).1.sst.waitList = [] := by
  cases hs : (c.line x).slot with
  | none => simp [dropSlot_of_none hs, h, Chip.setWaitList]
  | some i =>
    cases hp : (c.slot i).phase with
    | valid => simpa [dropSlot_of_valid hs hp] using h
    | fetching =>
      rw [dropSlot_of_fetching hs hp]
      unfold dropFetching
      dsimp only
      split <;> exact h

/-- With no line waiting a slot given up is granted to none. -/
theorem releaseSlot_of_nil (x : LineNo) (h : c.sst.waitList = []) : releaseSlot x c = (dropSlot x c).1 :=
  grantFreed_of_nil (dropSlot_waitList_of_nil x h)

@[simp] theorem Slot.released_lock (s : Slot) : s.released.lock = s.lock := by
  unfold Slot.released
  split <;> rfl

/-- A slot is granted to none that is locked (04 R64). -/
theorem settleFreed_of_locked (n : Nat) (h : (c.slot k).lock ≠ none) : settleFreed n k c = c := by
  cases n with
  | zero => rfl
  | succ n =>
    have hfree : (c.slot k).free = false := by simp [Slot.free, h]
    unfold settleFreed
    split
    · rfl
    · rw [if_neg (by simp [hfree])]

/-- Line x gives up nothing that is granted on: it holds no slot, no line waits, or its slot is VALID and locked (04 R64). -/
def Chip.GrantsNone (c : Chip) (x : LineNo) : Prop :=
  (c.line x).slot = none ∨ c.sst.waitList = [] ∨
    ∃ k, (c.line x).slot = some k ∧ (c.slot k).phase = .valid ∧ (c.slot k).lock ≠ none

theorem releaseSlot_of_grantsNone (h : c.GrantsNone x) : releaseSlot x c = (dropSlot x c).1 := by
  rcases h with hs | hnil | ⟨k, hs, hp, hlock⟩
  · rw [releaseSlot, dropSlot_of_none hs, grantFreed_of_none]
  · exact releaseSlot_of_nil x hnil
  · rw [releaseSlot, dropSlot_of_valid hs hp]
    exact settleFreed_of_locked _ (by simpa using hlock)

/-- The relay is left alone as a slot is given up. -/
theorem dropSlot_relay (x : LineNo) (c : Chip) : ((dropSlot x c).1.line x).relay = (c.line x).relay := by
  obtain h | ⟨-, h⟩ := dropSlot_line_self x c
  · rw [h]
    rfl
  · rw [h]

theorem releaseSlot_timing (x y : LineNo) (c : Chip) : (releaseSlot x c).timing y = c.timing y := by
  have htset : ((releaseSlot x c).line y).tset = (c.line y).tset := congrArg Prod.fst (releaseSlot_fixed x y c)
  have hsets := ((Quiet.refl c).releaseSlot x).sets
  simp only [Chip.timing, htset, hsets]

theorem dropValid_jwr (x : LineNo) (k : SlotNo) (c : Chip) :
    (dropValid x k c).jwr =
      (if (!(c.slot k).ctx.buffer.isEmpty || (c.slot k).ctx.mark.isSome) && !c.taking then markLost x c else c).jwr := by
  unfold dropValid
  dsimp only
  split
  · split <;> rfl
  · split <;> rfl

/-! ### The slot released -/

theorem Slot.released_cleared (s : Slot) : s.released.holder = none ∧ s.released.ctx = Ctx.fresh := by
  unfold Slot.released
  split <;> exact ⟨rfl, rfl⟩

/-- A slot released without a mark is WARM with its record (04 R63). -/
theorem Slot.released_of_unmarked {s : Slot} (h : s.refetch = false ∧ s.failed = false) :
    s.released = { s with status := .warm, holder := none, ctx := Ctx.fresh } := by
  simp [Slot.released, h]

/-- A slot released with a mark is EMPTY (04 R63). -/
theorem Slot.released_of_marked {s : Slot} (h : s.refetch = true ∨ s.failed = true) : s.released = s.emptied := by
  simp [Slot.released, h]

theorem Chip.releasedLru_of_unmarked (h : (c.slot k).refetch = false ∧ (c.slot k).failed = false) :
    c.releasedLru k = c.sst.lru.filter (· ≠ k) ++ [k] := by
  simp [Chip.releasedLru, h]

theorem Chip.releasedLru_of_marked (h : (c.slot k).refetch = true ∨ (c.slot k).failed = true) :
    c.releasedLru k = k :: c.sst.lru.filter (· ≠ k) := by
  simp [Chip.releasedLru, h]

/-- Where a VALID slot stands once it is released (04 R57, R63). -/
theorem dropValid_released (x : LineNo) (k : SlotNo) (c : Chip) :
    ((c.slot k).refetch = false ∧ (c.slot k).failed = false →
      ((dropValid x k c).slot k).status = .warm ∧ ((dropValid x k c).slot k).recLine = (c.slot k).recLine ∧
        ((dropValid x k c).slot k).copy = (c.slot k).copy ∧ (dropValid x k c).sst.lru = c.sst.lru.filter (· ≠ k) ++ [k]) ∧
    ((c.slot k).refetch = true ∨ (c.slot k).failed = true →
      ((dropValid x k c).slot k).status = .empty ∧ ((dropValid x k c).slot k).recLine = none ∧
        (dropValid x k c).sst.lru = k :: c.sst.lru.filter (· ≠ k)) := by
  rw [dropValid_slot_self, dropValid_lru]
  refine ⟨fun hm => ?_, fun hm => ?_⟩
  · rw [Slot.released_of_unmarked hm, Chip.releasedLru_of_unmarked hm]
    exact ⟨rfl, rfl, rfl, rfl⟩
  · rw [Slot.released_of_marked hm, Chip.releasedLru_of_marked hm]
    exact ⟨rfl, rfl, rfl⟩

/-- A released slot bears no mark (04 R63). -/
theorem Slot.released_unmarked (s : Slot) : s.released.refetch = false ∧ s.released.failed = false := by
  by_cases hm : s.refetch = true ∨ s.failed = true
  · rw [Slot.released_of_marked hm]
    exact ⟨rfl, rfl⟩
  · rw [Slot.released_of_unmarked (by simpa using hm)]
    simpa using hm

/-! ### RELEASE_GUARD -/

/-- The line as it enters RELEASE_GUARD with a guard of `ms` (01 R9). -/
def Line.guarded (l : Line) (clearAt ms : Nat) : Line :=
  { (l.enter clearAt .releaseGuard).toned .none with guard := some ⟨0, ms⟩ }

theorem enterReleaseGuard_eq (h : (c.timing x).releaseGuard ≠ 0) :
    enterReleaseGuard x c = c.modLine x fun l => l.guarded (c.timing x).clearAt (c.timing x).releaseGuard := by
  simp [enterReleaseGuard, enterGuard, h, Line.guarded, Timer.start]

theorem modCtx_line (x y : LineNo) (f : Ctx → Ctx) (c : Chip) : (modCtx x f c).line y = c.line y := by
  unfold modCtx
  split <;> rfl

theorem discardTrip_line (x : LineNo) (c : Chip) : (discardTrip x c).line x = { c.line x with tripRun := 0 } := by
  unfold discardTrip
  dsimp only
  split
  · rw [raiseFault_line, modCtx_line, Chip.line_modLine_self]
  · rw [modCtx_line, Chip.line_modLine_self]

/-- A line in RELEASE_GUARD has no more than its hook items and its trip run changed by what is sensed (02 Table 2-3, R23, R24). -/
theorem senseLine_line_of_guard (h : (c.line x).st = .releaseGuard) (loop trip : Bool) :
    ((senseLine x loop trip c).line x).unsensed = (c.line x).unsensed := by
  by_cases hr : (c.line x).relay = true
  · by_cases hon : (c.line x).sampling = .on
    · rw [senseLine_of_relay hon hr]
      unfold tripSense
      dsimp only
      split
      · split
        · simp [confirmTrip, h, Line.unsensed]
        · simp [Line.unsensed]
      · split
        · rw [discardTrip_line]
          rfl
        · rfl
    · simp [senseLine, hon]
  · obtain ⟨f, hf, hsame⟩ := senseLine_senses (c := c) (by simpa using hr) (.inr h) loop trip
    rw [hf, Chip.line_modLine_self, hsame]

end

end Sys2Proof.Machine
end

section
/-! SUPPORT. The expiry of a CLEAR threshold (02 R29, Table 2-3): the end of a call or of a park, and RELEASE_GUARD. -/

namespace Sys2Proof.Machine

/-! ### The record of a call that ends -/

/-- The record of a call that its subscriber ends: CLEAR in TALK and RECALL, ABANDON before (03 R50, 09 R142). -/
def Chip.endBody (c : Chip) (x : LineNo) : Body :=
  let st := (c.line x).st
  if st = .talk ∨ st = .recall then .clear st (if st = .recall then c.buffered x else 0)
  else .abandon st (if st = .dialling ∨ st = .routing then c.buffered x else 0)

/-- The call ended up to the release of the slot: the tone removed and the record formed, which a line in SEIZE_WAIT does not write in
STARTING (01 R16). -/
def Chip.callEnded (c : Chip) (x : LineNo) : Chip :=
  let d := c.modLine x fun l => l.toned .none
  if c.shc.run = .starting ∧ (c.line x).st = .seizeWait then d else emit (some x) (c.endBody x) d

section
variable {c : Chip} {x : LineNo}

theorem clearExpired_of_parked (h : (c.line x).st = .parked) : clearExpired x c = enterReleaseGuard x c := by
  simp only [clearExpired, h, parkEnd]

/-- A CLEAR expiry in a call ends it, gives the slot up and enters RELEASE_GUARD (03 R50, 09 R142). -/
theorem clearExpired_of_call (h : (c.line x).st ∈ [LineSt.seizeWait, .dialTone, .dialling, .routing, .talk, .recall]) :
    clearExpired x c = enterReleaseGuard x (releaseSlot x (c.callEnded x)) := by
  simp only [List.mem_cons, List.not_mem_nil, or_false] at h
  rcases h with h | h | h | h | h | h
  all_goals simp [clearExpired, abandon, subscriberClear, Chip.callEnded, Chip.endBody, h]

@[simp] theorem Chip.callEnded_sst (c : Chip) (x : LineNo) : (c.callEnded x).sst = c.sst := by
  unfold Chip.callEnded
  dsimp only
  split
  · rfl
  · simp

@[simp] theorem Chip.callEnded_slot (c : Chip) (x : LineNo) (k : SlotNo) : (c.callEnded x).slot k = c.slot k := by
  simp [Chip.slot]

@[simp] theorem Chip.callEnded_run (c : Chip) (x : LineNo) : (c.callEnded x).shc.run = c.shc.run := by
  unfold Chip.callEnded
  dsimp only
  split
  · rfl
  · simp

theorem Chip.callEnded_lines (c : Chip) (x : LineNo) : (c.callEnded x).lines = (c.modLine x fun l => l.toned .none).lines := by
  unfold Chip.callEnded
  dsimp only
  split
  · rfl
  · simp

@[simp] theorem Chip.callEnded_line (c : Chip) (x : LineNo) : (c.callEnded x).line x = (c.line x).toned .none := by
  rw [Chip.line, Chip.callEnded_lines]
  exact Chip.line_modLine_self _ _ _

theorem Chip.callEnded_line_ne (c : Chip) {y : LineNo} (h : y ≠ x) : (c.callEnded x).line y = c.line y := by
  rw [Chip.line, Chip.callEnded_lines]
  exact Chip.line_modLine_ne _ _ h

@[simp] theorem Chip.callEnded_timing (c : Chip) (x : LineNo) : (c.callEnded x).timing x = c.timing x := by
  unfold Chip.callEnded
  dsimp only
  split
  · exact Chip.timing_modLine _ _ _ _ rfl
  · rw [emit_timing]
    exact Chip.timing_modLine _ _ _ _ rfl

/-- The record is queued where the journal queues records of the line (10 R154). -/
theorem Chip.callEnded_jwr_of_queueing (h : c.Queueing x) :
    (c.callEnded x).jwr = { c.jwr with queue := c.jwr.queue ++ [⟨some x, c.shc.ms, c.endBody x⟩] } := by
  have hrun : c.shc.run = .running := h.1
  have hq : (c.modLine x fun l => l.toned .none).Queueing x := h.congr rfl rfl
  simp only [Chip.callEnded, hrun, reduceCtorEq, false_and, if_false, emit_of_queueing hq]
  rfl

/-! ### A record folded (10 R157) -/

/-- An event folded into a summary, as the statements say it. -/
theorem summaryAfter_eq_add (o : Option Summary) (r : Rec) : summaryAfter o r = some (Summary.add o r.body) := by
  simp only [summaryAfter, Summary.add, Body.kindBit]
  split <;> rfl

/-- In a stalled journal, and where the line holds a summary, a record is folded (10 R157). -/
theorem emit_of_held (hrun : c.shc.run = .running) (h : c.jwr.stall ≠ .none ∨ c.jwr.summaries[x] ≠ none) (b : Body) :
    emit (some x) b c = c.modJwr (·.fold ⟨some x, c.shc.ms, b⟩) := by
  have hstamp : c.stamp = c.shc.ms := Chip.stamp_of_running hrun
  by_cases hstall : c.jwr.stall = .none
  · have hheld : c.heldFlag x = true := Option.isSome_iff_ne_none.2 (h.resolve_left fun hne => hne hstall)
    simp [emit, hrun, enqueue, hstall, hheld, hstamp]
  · simp [emit, hrun, enqueue, hstall, hstamp]

theorem Chip.callEnded_jwr_of_held (hrun : c.shc.run = .running) (h : c.jwr.stall ≠ .none ∨ c.jwr.summaries[x] ≠ none) :
    (c.callEnded x).jwr = c.jwr.fold ⟨some x, c.shc.ms, c.endBody x⟩ := by
  have hemit := emit_of_held (c := c.modLine x fun l => l.toned .none) hrun h (c.endBody x)
  simp only [Chip.callEnded, hrun, reduceCtorEq, false_and, if_false, hemit]
  rfl

/-- A record folded into its line's summary, and the digits lost noted there (04 R63, 10 R157). -/
theorem fold_markLost {j : Jwr} (r : Rec) (hx : r.line = some x) (lost : Bool) (hc : c.jwr = j.fold r) :
    (if lost = true then markLost x c else c).jwr =
      { j with summaries := j.summaries.set x ((summaryAfter j.summaries[x] r).map fun m => { m with lost := m.lost || lost }) } := by
  have hfold : j.fold r = { j with summaries := j.summaries.set x (summaryAfter j.summaries[x] r) } := by
    rw [summaryAfter_eq_add, Jwr.fold, hx]
  rw [hfold, summaryAfter_eq_add] at hc
  rw [summaryAfter_eq_add]
  cases lost
  · simp [hc]
  · simp [markLost, hc]

end

/-! ### The command -/

section
variable {s : State} {x : LineNo} {n : Nat}

/-- A CLEAR expiry that enters RELEASE_GUARD from the chip `e`: what stands of the line, and what a line with its relay open leaves of
`e`. -/
theorem State.ClearDue.enters (h : s.ClearDue x n) {e : Chip}
    (he : clearExpired x (s.chip.modLine x Line.expired) = enterReleaseGuard x e) (ht : e.timing x = s.chip.timing x)
    (hg : (s.chip.timing x).releaseGuard ≠ 0) (loop trip : Bool) :
    ∃ t, exec (.clearExpiry x loop trip) s = .next t ∧ CallOnly s t ∧
      (t.chip.line x).unsensed =
        ((e.line x).guarded (s.chip.timing x).clearAt (s.chip.timing x).releaseGuard).unsensed ∧
      ((e.line x).relay = false →
        (∀ y, y ≠ x → t.chip.line y = e.line y) ∧ t.chip.sst = e.sst ∧ t.chip.jwr = e.jwr) := by
  have hexec := (h.exec_eq loop trip).2
  have hquiet := (((Quiet.refl s.chip).modLine x Line.expired).clearExpired x).senseLine x loop trip
  have hguard : enterReleaseGuard x e =
      e.modLine x fun l => l.guarded (s.chip.timing x).clearAt (s.chip.timing x).releaseGuard := by
    rw [← ht] at hg ⊢
    exact enterReleaseGuard_eq hg
  rw [he, hguard] at hexec hquiet
  refine ⟨_, hexec, hquiet.callOnly, ?_, fun hr => ?_⟩
  · rw [settle_line, senseLine_line_of_guard (by rw [Chip.line_modLine_self]; rfl), Chip.line_modLine_self]
  · obtain ⟨f, hf, -⟩ := senseLine_senses
      (c := e.modLine x fun l => l.guarded (s.chip.timing x).clearAt (s.chip.timing x).releaseGuard) (x := x)
      (by rw [Chip.line_modLine_self]; exact hr) (.inr (by rw [Chip.line_modLine_self]; rfl)) loop trip
    rw [hf]
    refine ⟨fun y hy => ?_, by simp, by simp⟩
    rw [settle_line, Chip.line_modLine_ne _ _ hy, Chip.line_modLine_ne _ _ hy]

/-- The end of a park (03 R53), as `State.ClearDue.enters` says it. -/
theorem State.ClearDue.parkEnds (h : s.ClearDue x n) (hst : (s.chip.line x).st = .parked)
    (hg : (s.chip.timing x).releaseGuard ≠ 0) (loop trip : Bool) :
    ∃ t, exec (.clearExpiry x loop trip) s = .next t ∧ CallOnly s t ∧
      (t.chip.line x).unsensed =
        ((s.chip.line x).expired.guarded (s.chip.timing x).clearAt (s.chip.timing x).releaseGuard).unsensed ∧
      ((s.chip.line x).relay = false → OthersKept x s t ∧ t.chip.sst = s.chip.sst ∧ t.chip.jwr = s.chip.jwr) := by
  obtain ⟨t, ht, hcall, hline, hkeeps⟩ := h.enters (e := s.chip.modLine x Line.expired)
    (clearExpired_of_parked (by simpa [Line.expired, Line.advanced] using hst)) (Chip.timing_modLine _ _ _ _ rfl) hg loop trip
  rw [Chip.line_modLine_self] at hline hkeeps
  refine ⟨t, ht, hcall, hline, fun hr => ?_⟩
  obtain ⟨hothers, hsst, hjwr⟩ := hkeeps hr
  exact ⟨fun y hy => (hothers y hy).trans (Chip.line_modLine_ne _ _ hy), hsst, hjwr⟩

/-- The chip as it stands when a CLEAR expiry in a call comes to give up the slot of line x. -/
def State.clearing (s : State) (x : LineNo) : Chip := (s.chip.modLine x Line.expired).callEnded x

@[simp] theorem State.clearing_sst (s : State) (x : LineNo) : (s.clearing x).sst = s.chip.sst := by simp [clearing]
@[simp] theorem State.clearing_slot (s : State) (x : LineNo) (k : SlotNo) : (s.clearing x).slot k = s.chip.slot k := by
  simp [clearing]
@[simp] theorem State.clearing_run (s : State) (x : LineNo) : (s.clearing x).shc.run = s.chip.shc.run := by simp [clearing]
theorem State.clearing_line (s : State) (x : LineNo) :
    (s.clearing x).line x = (s.chip.line x).expired.toned .none := by simp [clearing]
theorem State.clearing_line_ne (s : State) {y : LineNo} (h : y ≠ x) : (s.clearing x).line y = s.chip.line y := by
  rw [clearing, Chip.callEnded_line_ne _ h, Chip.line_modLine_ne _ _ h]

theorem State.clearing_timing (s : State) (x : LineNo) : (s.clearing x).timing x = s.chip.timing x := by
  rw [clearing, Chip.callEnded_timing]
  exact Chip.timing_modLine _ _ _ _ rfl

/-- The record is that of the line as it stood. -/
theorem endBody_expired (c : Chip) (x : LineNo) : (c.modLine x Line.expired).endBody x = c.endBody x := by
  simp [Chip.endBody, Chip.buffered, Chip.ctx, Line.expired, Line.advanced]

/-- A CLEAR expiry in a call, as `State.ClearDue.enters` says it. -/
theorem State.ClearDue.ends (h : s.ClearDue x n)
    (hst : (s.chip.line x).st ∈ [LineSt.seizeWait, .dialTone, .dialling, .routing, .talk, .recall])
    (hg : (s.chip.timing x).releaseGuard ≠ 0) (loop trip : Bool) :
    ∃ t, exec (.clearExpiry x loop trip) s = .next t ∧ CallOnly s t ∧
      (t.chip.line x).unsensed =
        (((releaseSlot x (s.clearing x)).line x).guarded (s.chip.timing x).clearAt (s.chip.timing x).releaseGuard).unsensed ∧
      (((releaseSlot x (s.clearing x)).line x).relay = false →
        (∀ y, y ≠ x → t.chip.line y = (releaseSlot x (s.clearing x)).line y) ∧
          t.chip.sst = (releaseSlot x (s.clearing x)).sst ∧ t.chip.jwr = (releaseSlot x (s.clearing x)).jwr) :=
  h.enters (clearExpired_of_call (by simpa [Line.expired, Line.advanced] using hst))
    ((releaseSlot_timing x x _).trans (s.clearing_timing x)) hg loop trip

end

end Sys2Proof.Machine
end

section
/-! SUPPORT. The clauses of a CLEAR expiry in a call (03 R50, 09 R142, 04 R63, R66, 10 R157). -/

namespace Sys2Proof.Machine

section
variable {s t : State} {x : LineNo} {k : SlotNo}

@[simp] theorem State.clearing_line_slot (s : State) (x : LineNo) : ((s.clearing x).line x).slot = (s.chip.line x).slot := by
  rw [s.clearing_line]
  rfl

@[simp] theorem State.clearing_line_relay (s : State) (x : LineNo) : ((s.clearing x).line x).relay = (s.chip.line x).relay := by
  rw [s.clearing_line]
  rfl

/-- The slot of line x is given up and granted to none: of the other lines, the Slot Store and the journal, the state `t` is the chip that
this leaves, and of line x but for what its sense input says. -/
structure State.Cleared (s t : State) (x : LineNo) : Prop where
  line : (t.chip.line x).unsensed =
    (((dropSlot x (s.clearing x)).1.line x).guarded (s.chip.timing x).clearAt (s.chip.timing x).releaseGuard).unsensed
  others : ∀ y, y ≠ x → t.chip.line y = (dropSlot x (s.clearing x)).1.line y
  sst : t.chip.sst = (dropSlot x (s.clearing x)).1.sst
  jwr : t.chip.jwr = (dropSlot x (s.clearing x)).1.jwr

/-- A CLEAR expiry in a call, its relay open. -/
theorem State.ClearDue.cleared {n : Nat} (h : s.ClearDue x n)
    (hst : (s.chip.line x).st ∈ [LineSt.seizeWait, .dialTone, .dialling, .routing, .talk, .recall])
    (hg : (s.chip.timing x).releaseGuard ≠ 0) {loop trip : Bool} (ht : exec (.clearExpiry x loop trip) s = .next t)
    (hr : (s.chip.line x).relay = false) (hnone : s.chip.GrantsNone x) : s.Cleared t x := by
  obtain ⟨t', ht', -, hline, hkeeps⟩ := h.ends hst hg loop trip
  obtain rfl : t' = t := Host.Outcome.next.inj (ht'.symm.trans ht)
  have he : releaseSlot x (s.clearing x) = (dropSlot x (s.clearing x)).1 :=
    releaseSlot_of_grantsNone (by simpa [Chip.GrantsNone] using hnone)
  rw [he] at hline hkeeps
  obtain ⟨hothers, hsst, hjwr⟩ := hkeeps ((dropSlot_relay x _).trans ((s.clearing_line_relay x).trans hr))
  exact ⟨hline, hothers, hsst, hjwr⟩

theorem State.Cleared.othersKept (h : s.Cleared t x) : OthersKept x s t := fun y hy => by
  rw [h.others y hy, dropSlot_line_ne hy, s.clearing_line_ne hy]

/-- A line without a slot leaves the Slot Wait List (04 R66). -/
theorem State.Cleared.of_none (h : s.Cleared t x) (hs : (s.chip.line x).slot = none) :
    t.chip.sst = { s.chip.sst with waitList := s.chip.sst.waitList.filter (·.line ≠ x) } := by
  rw [h.sst, dropSlot_of_none (by simpa using hs)]
  simp [Chip.setWaitList]

theorem State.dropSlot_clearing (hs : (s.chip.line x).slot = some k) (hp : (s.chip.slot k).phase = .valid) :
    (dropSlot x (s.clearing x)).1 = dropValid x k (s.clearing x) := by
  rw [dropSlot_of_valid (by simpa using hs) (by simpa using hp)]

/-- A VALID slot is released (04 R63). -/
theorem State.Cleared.of_valid (h : s.Cleared t x) (hs : (s.chip.line x).slot = some k) (hp : (s.chip.slot k).phase = .valid) :
    (t.chip.slot k).holder = none ∧ (t.chip.slot k).ctx = Ctx.fresh ∧ (t.chip.slot k).refetch = false ∧
      (t.chip.slot k).failed = false ∧ t.chip.sst.waitList = s.chip.sst.waitList ∧ OtherSlotsKept k s t ∧
      ((s.chip.slot k).refetch = false ∧ (s.chip.slot k).failed = false →
        (t.chip.slot k).status = .warm ∧ (t.chip.slot k).recLine = (s.chip.slot k).recLine ∧
        (t.chip.slot k).copy = (s.chip.slot k).copy ∧ t.chip.sst.lru = s.chip.sst.lru.filter (· ≠ k) ++ [k]) ∧
      ((s.chip.slot k).refetch = true ∨ (s.chip.slot k).failed = true →
        (t.chip.slot k).status = .empty ∧ (t.chip.slot k).recLine = none ∧
        t.chip.sst.lru = k :: s.chip.sst.lru.filter (· ≠ k)) := by
  have hsst : t.chip.sst = (dropValid x k (s.clearing x)).sst := h.sst.trans (by rw [State.dropSlot_clearing hs hp])
  have hslot (j : SlotNo) : t.chip.slot j = (dropValid x k (s.clearing x)).slot j := by
    rw [Chip.slot, hsst]
    rfl
  have hself : t.chip.slot k = (s.chip.slot k).released := by rw [hslot, dropValid_slot_self, s.clearing_slot]
  obtain ⟨hholder, hctx⟩ := (s.chip.slot k).released_cleared
  obtain ⟨hrefetch, hfailed⟩ := (s.chip.slot k).released_unmarked
  have hreleased := dropValid_released x k (s.clearing x)
  rw [← hslot, ← hsst, s.clearing_slot, s.clearing_sst] at hreleased
  rw [hself] at hreleased ⊢
  exact ⟨hholder, hctx, hrefetch, hfailed, by rw [hsst, dropValid_waitList, s.clearing_sst],
    fun j hj => by rw [hslot, dropValid_slot_ne _ _ _ hj, s.clearing_slot], hreleased⟩

/-- The record is queued where the journal queues records of the line (03 R50, 09 R142). -/
theorem State.Cleared.of_queues (h : s.Cleared t x) (hq : Queues x s) :
    (t.chip.line x).slot = none ∧
      t.chip.jwr.queue = s.chip.jwr.queue ++ [⟨some x, s.chip.shc.ms, s.chip.endBody x⟩] := by
  have hqueueing : (s.chip.modLine x Line.expired).Queueing x := Chip.Queueing.congr ((queues_iff x s).1 hq) rfl rfl
  refine ⟨?_, ?_⟩
  · rw [Line.congr_of_unsensed h.line Line.slot fun _ => rfl]
    exact dropSlot_slot x _
  · rw [h.jwr, dropSlot_queue, State.clearing, Chip.callEnded_jwr_of_queueing hqueueing, endBody_expired]
    rfl

/-- In a stalled journal, and for a line that holds a summary, the record is folded (10 R157, 04 R63). -/
theorem State.Cleared.of_held (h : s.Cleared t x) (hs : (s.chip.line x).slot = some k) (hp : (s.chip.slot k).phase = .valid)
    (hrun : s.chip.shc.run = .running) (hheld : s.chip.jwr.stall ≠ .none ∨ s.chip.jwr.summaries[x] ≠ none) :
    t.chip.jwr =
      { s.chip.jwr with
        summaries := s.chip.jwr.summaries.set x
          ((summaryAfter s.chip.jwr.summaries[x] ⟨some x, s.chip.shc.ms, s.chip.endBody x⟩).map fun m =>
            { m with
              lost := m.lost || (s.chip.jwr.stall != .none &&
                (!(s.chip.slot k).ctx.buffer.isEmpty || (s.chip.slot k).ctx.mark.isSome)) }) } := by
  have hfold : (s.clearing x).jwr = s.chip.jwr.fold ⟨some x, s.chip.shc.ms, s.chip.endBody x⟩ := by
    rw [State.clearing, Chip.callEnded_jwr_of_held (c := s.chip.modLine x Line.expired) hrun hheld, endBody_expired]
    rfl
  have htaking : (!(s.clearing x).taking) = (s.chip.jwr.stall != .none) := by
    rw [Chip.taking_of_running (by simpa using hrun), hfold]
    rfl
  rw [h.jwr, State.dropSlot_clearing hs hp, dropValid_jwr, fold_markLost _ rfl _ hfold, htaking, s.clearing_slot, Bool.and_comm]

end

end Sys2Proof.Machine

section
open Sys2Proof Sys2Proof.Machine

/-- Settles O22: a CLEAR expiry ends a call, with its slot released and its record formed, or a park, and enters RELEASE_GUARD. -/
theorem clearExpiryReleasesTheLine : Obligations.ClearExpiryReleasesTheLine := by
  unfold Obligations.ClearExpiryReleasesTheLine
  intro s x loop trip n l hon hthreshold hn hg hst
  have h : s.ClearDue x n := ⟨hon, hthreshold, hn⟩
  refine ⟨(h.exec_eq loop trip).1, ?_⟩
  by_cases hpark : l.st = .parked
  · obtain ⟨t, ht, hcall, hline, hkeeps⟩ := h.parkEnds hpark hg loop trip
    have hguard {α : Type} (p : Line → α) (hp : ∀ m : Line, p m.unsensed = p m) :
        p (t.chip.line x) = p (l.expired.guarded (s.chip.timing x).clearAt (s.chip.timing x).releaseGuard) :=
      Line.congr_of_unsensed hline p hp
    refine ⟨t, ht, hguard Line.st fun _ => rfl, hguard Line.guard fun _ => rfl, hguard Line.tone fun _ => rfl,
      (hguard Line.answered fun _ => rfl).trans (Bool.and_false _), hcall, fun _ _ hne => absurd hpark hne,
      fun _ _ _ hne => absurd hpark hne, fun hq hw hr => ?_, fun _ _ _ _ hne => absurd hpark hne⟩
    obtain ⟨hothers, -, hjwr⟩ := hkeeps hr
    rw [if_pos hpark, if_pos hpark, List.append_nil]
    exact ⟨hothers, hguard Line.slot fun _ => rfl, by rw [hjwr]⟩
  · replace hst : l.st ∈ [LineSt.seizeWait, .dialTone, .dialling, .routing, .talk, .recall] := by
      simpa [hpark] using hst
    obtain ⟨t, ht, hcall, hline, -⟩ := h.ends hst hg loop trip
    have hguard {α : Type} (p : Line → α) (hp : ∀ m : Line, p m.unsensed = p m) :=
      Line.congr_of_unsensed hline p hp
    have hcleared := h.cleared hst hg ht
    refine ⟨t, ht, hguard Line.st fun _ => rfl, hguard Line.guard fun _ => rfl, hguard Line.tone fun _ => rfl,
      (hguard Line.answered fun _ => rfl).trans (Bool.and_false _), hcall, fun hr hs _ => ?_, fun hr k hs _ hp hkeeps => ?_,
      fun hq hw hr => ?_, fun hrun hheld hw hr _ k hs hp => ?_⟩
    · have hc := hcleared hr (.inl hs)
      exact ⟨hc.of_none hs, hc.othersKept⟩
    · exact (hcleared hr (hkeeps.elim (fun hw => .inr (.inl hw)) fun hl => .inr (.inr ⟨k, hs, hp, hl⟩))).of_valid hs hp
    · have hc := hcleared hr (.inr (.inl hw))
      obtain ⟨hslot, hqueue⟩ := hc.of_queues hq
      rw [if_neg hpark, if_neg hpark]
      refine ⟨hc.othersKept, hslot, hqueue.trans ?_⟩
      unfold Chip.endBody
      dsimp only
      split <;> rfl
    · have hjwr := (hcleared hr (.inr (.inl hw))).of_held hs hp hrun hheld
      simp only [Chip.endBody, Chip.buffered_of_slot hs] at hjwr
      exact hjwr

end
end

section
/-! SUPPORT. The dial-tone timeout (03 R40, R51). -/

namespace Sys2Proof.Machine

section
variable {s : State} {x : LineNo} {k : SlotNo}

/-- The chip as it stands when the dial-tone timeout comes to give up the slot of line x. -/
def State.untoned (s : State) (x : LineNo) : Chip := s.chip.modLine x fun l => l.toned .none

@[simp] theorem State.untoned_slot (s : State) (x : LineNo) (k : SlotNo) : (s.untoned x).slot k = s.chip.slot k := rfl
theorem State.untoned_line (s : State) (x : LineNo) : (s.untoned x).line x = (s.chip.line x).toned .none :=
  Chip.line_modLine_self _ _ _

/-- What the dial-tone timeout leaves: the slot given up, the line PARKED, PARK formed (03 R40, R51). -/
theorem next_dialToneTimeout (hst : (s.chip.line x).st = .dialTone) (hd : timerDue (s.chip.line x).dialTone = true) :
    let e := releaseSlot x (s.untoned x)
    ∃ t, exec (.dialToneTimeout x) s = .next t ∧ CallOnly s t ∧
      t.chip.line x = (e.line x).parked (s.chip.timing x).clearAt (1000 * (s.chip.timing x).parkDelay) ∧
      (∀ y, y ≠ x → t.chip.line y = e.line y) ∧ t.chip.sst = e.sst ∧
      (e.Queueing x → t.chip.jwr.queue = e.jwr.queue ++ [⟨some x, e.shc.ms, .park .dialToneTimeout⟩]) := by
  intro e
  have ht : e.timing x = s.chip.timing x := (releaseSlot_timing x x _).trans (Chip.timing_modLine _ _ _ _ rfl)
  have hexec : exec (.dialToneTimeout x) s = finish s (enterParked x (some .dialToneTimeout) e) := if_pos ⟨hst, hd⟩
  refine ⟨_, hexec, ((((Quiet.refl s.chip).setTone x .none).releaseSlot x).enterParked x _).callOnly, ?_, fun y hy => ?_, ?_,
    fun hq => ?_⟩
  · simp [ht]
  · simp [Chip.line_modLine_ne _ _ hy]
  · simp
  · have hparked : (enterParked x none e).Queueing x := hq.congr (by rw [enterParked_none]; rfl) (by rw [enterParked_none]; rfl)
    rw [settle_jwr, enterParked_some, emit_of_queueing hparked, enterParked_none]
    rfl

/-- A CLEAR threshold armed in a break stays armed as the line is parked (02 R29). -/
theorem Line.parked_threshold {l : Line} {n : Nat} (hk : l.hook = .on) (ht : l.threshold = .clear n) (clearAt ms : Nat) :
    (l.parked clearAt ms).threshold = .clear n := by
  simp [Line.parked, Line.enter, Line.toned, entryThreshold, LineSt.judging, hk, ht]

/-- A line that gives up its slot in DIAL_TONE keeps its hook items. -/
theorem releaseSlot_untoned (hst : (s.chip.line x).st = .dialTone) :
    let l := (releaseSlot x (s.untoned x)).line x
    l.hook = (s.chip.line x).hook ∧ l.interval = (s.chip.line x).interval ∧ l.threshold = (s.chip.line x).threshold := by
  have hline := s.untoned_line x
  have hsame := releaseSlot_unserved (c := s.untoned x) (x := x) (by rw [hline]; exact congrArg LineSt.takesRecord hst)
  rw [hline] at hsame
  exact ⟨Line.congr_of_unserved hsame Line.hook fun _ => rfl, Line.congr_of_unserved hsame Line.interval fun _ => rfl,
    Line.congr_of_unserved hsame Line.threshold fun _ => rfl⟩

/-- What the dial-tone timeout leaves where no line waits (03 R40, 04 R63). -/
theorem dropSlot_untoned (x : LineNo) (s : State) :
    let d := (dropSlot x (s.untoned x)).1
    (∀ y, y ≠ x → d.line y = s.chip.line y) ∧ (d.line x).slot = none ∧
      (s.chip.taking = true → d.jwr = s.chip.jwr) ∧ d.shc = s.chip.shc :=
  ⟨fun _ hy => (dropSlot_line_ne hy _).trans (Chip.line_modLine_ne _ _ hy), dropSlot_slot x _,
    dropSlot_jwr_of_taking (c := s.untoned x) x, dropSlot_shc x _⟩

/-- The VALID slot given up at the dial-tone timeout (04 R63). -/
theorem dropSlot_untoned_valid {t : State} (hs : (s.chip.line x).slot = some k) (hp : (s.chip.slot k).phase = .valid)
    (hsst : t.chip.sst = (dropSlot x (s.untoned x)).1.sst) :
    (t.chip.slot k).holder = none ∧ (t.chip.slot k).ctx = Ctx.fresh ∧ (t.chip.slot k).lock = (s.chip.slot k).lock ∧
      OtherSlotsKept k s t ∧
      (if (s.chip.slot k).refetch = true ∨ (s.chip.slot k).failed = true then
        (t.chip.slot k).status = .empty ∧ (t.chip.slot k).recLine = none ∧
          t.chip.sst.lru = k :: s.chip.sst.lru.filter (· ≠ k)
      else
        (t.chip.slot k).status = .warm ∧ (t.chip.slot k).recLine = (s.chip.slot k).recLine ∧
          t.chip.sst.lru = s.chip.sst.lru.filter (· ≠ k) ++ [k]) := by
  have hs' : ((s.untoned x).line x).slot = some k := by
    rw [s.untoned_line]
    exact hs
  rw [dropSlot_of_valid hs' hp] at hsst
  have hslot (j : SlotNo) : t.chip.slot j = (dropValid x k (s.untoned x)).slot j := by
    rw [Chip.slot, hsst]
    rfl
  have hself : t.chip.slot k = (s.chip.slot k).released := (hslot k).trans (dropValid_slot_self x k _)
  obtain ⟨hholder, hctx⟩ := (s.chip.slot k).released_cleared
  obtain ⟨hwarm, hempty⟩ := dropValid_released x k (s.untoned x)
  rw [← hslot, ← hsst] at hwarm hempty
  refine ⟨by rw [hself, hholder], by rw [hself, hctx], by rw [hself, Slot.released_lock],
    fun j hj => (hslot j).trans (dropValid_slot_ne _ _ _ hj), ?_⟩
  split
  · next hm => exact hempty hm
  · next hm =>
    obtain ⟨hstatus, hrec, -, hlru⟩ := hwarm (by simpa using hm)
    exact ⟨hstatus, hrec, hlru⟩

end

end Sys2Proof.Machine

section
open Sys2Proof Sys2Proof.Machine

/-- Settles O24: the timeout parks the line over whatever its slot is granted on to; a break in PARKED is judged as a hit, and its CLEAR
expiry ends the park. -/
theorem dialToneTimeoutParksTheLine : Obligations.DialToneTimeoutParksTheLine := by
  unfold Obligations.DialToneTimeoutParksTheLine
  refine ⟨fun s x hst hdue => ?_, fun s x loop trip hst => ⟨fun hturn => ?_, fun n hon hthreshold hn hg => ?_⟩⟩
  · obtain ⟨t, ht, hcall, hline, hothers, hsst, hjwr⟩ := next_dialToneTimeout hst hdue
    obtain ⟨hhook, hinterval, hthreshold⟩ := releaseSlot_untoned hst
    refine ⟨t, ht, by rw [hline]; rfl, by rw [hline]; rfl, by rw [hline]; rfl, by rw [hline]; exact hhook,
      by rw [hline]; exact hinterval, fun n hk hn => ?_, ?_, hcall, fun hw => ?_⟩
    · rw [hline]
      exact Line.parked_threshold (hhook.trans hk) (hthreshold.trans hn) _ _
    · rw [hline]
      simp [Line.parked]
    · rw [releaseSlot_of_nil (c := s.untoned x) x hw] at hline hothers hsst hjwr
      obtain ⟨hkept, hslot, htaking, hshc⟩ := dropSlot_untoned x s
      refine ⟨fun y hy => (hothers y hy).trans (hkept y hy), by rw [hline]; exact hslot,
        fun k hs hp => dropSlot_untoned_valid hs hp hsst, fun hq => ?_⟩
      have hjwr' := htaking (by simp [Chip.taking, hq.1, hq.2.1])
      rw [hjwr (Chip.Queueing.congr ((queues_iff x s).1 hq) (by rw [hshc]) hjwr'), hjwr', hshc]
  · exact hookTransition_ignores hturn (by rw [hst]; rfl) (by simp [hst]) (by simp [hst]) (by simp [hst]) (by simp [hst]) trip
  · obtain ⟨t, ht, hcall, hline, -⟩ := State.ClearDue.parkEnds ⟨hon, hthreshold, hn⟩ hst hg loop trip
    exact ⟨t, ht, Line.congr_of_unsensed hline Line.st fun _ => rfl, Line.congr_of_unsensed hline Line.guard fun _ => rfl,
      Line.congr_of_unsensed hline Line.park fun _ => rfl, hcall⟩

end
end

section
/-! SUPPORT. The laws of the Slot Store (04 R55, R57), said of the store: a quiet operation keeps them, and so does each update that
is not quiet. -/

namespace Sys2Proof.Machine

/-! ### The laws, said of the store -/

/-- The Slot Store's laws: the stack orders the sixteen slots, no more slots are locked than may be, and a locked slot holds no
record but its owner's. -/
def Sst.Lawful (t : Sst) : Prop :=
  t.lru.Perm allSlots ∧ (allSlots.filter fun i => t.slots[i].lock.isSome).length ≤ Config.lockLimit ∧
    ∀ i : SlotNo, t.slots[i].Own

theorem slotLaws_iff (s : State) : SlotLaws s ↔ s.chip.sst.Lawful := Iff.rfl

/-- After a reset the laws hold (04 R72). -/
theorem Sst.reset_lawful : Sst.reset.Lawful := reset_slotLaws

theorem mem_allSlots (i : SlotNo) : i ∈ allSlots := List.mem_finRange i

/-- Slots that a list names are no more than its length. -/
theorem length_filter_allSlots_le {p : SlotNo → Bool} {l : List SlotNo} (h : ∀ i, p i = true → i ∈ l) :
    (allSlots.filter p).length ≤ l.length :=
  (List.subperm_of_subset ((List.nodup_finRange 16).filter _) fun i hi => h i (List.mem_filter.1 hi).2).length_le

section
variable {c d : Chip} {i : SlotNo} {x : LineNo}

theorem mem_lockedSlots : i ∈ (allSlots.filter fun i => (c.slot i).lock.isSome) ↔ (c.slot i).lock.isSome = true := by
  simp [mem_allSlots]

/-- A store whose stack is whole, that has no lock more, and in which every slot holds to its owner, is lawful. -/
theorem Sst.Lawful.of_locks (h : c.sst.Lawful) (hl : d.sst.lru.Perm allSlots)
    (hk : ∀ i, (d.slot i).lock.isSome = true → (c.slot i).lock.isSome = true) (ho : ∀ i, (d.slot i).Own) : d.sst.Lawful := by
  obtain ⟨-, hcount, -⟩ := h
  exact ⟨hl, (length_filter_allSlots_le fun i hi => mem_lockedSlots.2 (hk i hi)).trans hcount, ho⟩

/-- A quiet operation keeps the laws: it keeps the stack whole, every lock as it is, and every slot its owner's. -/
theorem Quiet.lawful (q : Quiet c d) (h : c.sst.Lawful) : d.sst.Lawful := by
  obtain ⟨hlru, -, hown⟩ := id h
  exact h.of_locks (q.lru hlru) (fun i hi => by rwa [q.locks i] at hi) fun i => q.own i (hown i)

/-- A quiet operation locks no slot and unlocks none. -/
theorem Quiet.lockedCount (q : Quiet c d) : d.lockedCount = c.lockedCount := by simp [Chip.lockedCount, q.locks]

/-! ### Locks set and cleared (04 R67 to R69) -/

theorem setLock_slot (i j : SlotNo) (o : Option LineNo) (c : Chip) :
    (setLock i o c).slot j = if j = i then { c.slot i with lock := o } else c.slot j := Chip.slot_modSlot _ _ _ _

/-- A slot without a lock is no other's. -/
theorem Slot.own_of_unlocked {k : Slot} (h : k.lock = none) : k.Own := fun y e => by simp [h] at e

theorem Sst.Lawful.unlock (h : c.sst.Lawful) (i : SlotNo) : (setLock i none c).sst.Lawful := by
  obtain ⟨hlru, -, hown⟩ := id h
  refine h.of_locks hlru (fun j hj => ?_) fun j => ?_
  · rw [setLock_slot] at hj
    split at hj
    · cases hj
    · exact hj
  · rw [setLock_slot]
    split
    · exact Slot.own_of_unlocked rfl
    · exact hown j

/-- A lock is set, where one more may be, on a slot that holds no record but its owner's. -/
theorem Sst.Lawful.lock (h : c.sst.Lawful) (hn : c.lockedCount < Config.lockLimit)
    (hr : (c.slot i).recLine = none ∨ (c.slot i).recLine = some x) : (setLock i (some x) c).sst.Lawful := by
  obtain ⟨hlru, -, hown⟩ := h
  have hmem : ∀ j, ((setLock i (some x) c).slot j).lock.isSome = true →
      j ∈ i :: (allSlots.filter fun j => (c.slot j).lock.isSome) := fun j hj => by
    rw [setLock_slot] at hj
    split at hj
    · exact List.mem_cons.2 (.inl ‹_›)
    · exact List.mem_cons_of_mem _ (mem_lockedSlots.2 hj)
  refine ⟨hlru, (length_filter_allSlots_le hmem).trans hn, fun j => ?_⟩
  change ((setLock i (some x) c).slot j).Own
  rw [setLock_slot]
  split
  · intro y e
    cases e
    exact hr
  · exact hown j

/-- A slot that becomes the most recent leaves the stack whole (04 R57). -/
theorem Sst.Lawful.toMru (h : c.sst.Lawful) (i : SlotNo) : (toMru i c).sst.Lawful := ((Quiet.refl c).toMru i).lawful h

/-! ### Every slot changed alike -/

/-- Every slot of the store changed by `f`. -/
def Chip.mapSlots (c : Chip) (f : Slot → Slot) : Chip := { c with sst := { c.sst with slots := mapEach f c.sst.slots } }

@[simp] theorem Chip.mapSlots_slot (c : Chip) (f : Slot → Slot) (i : SlotNo) : (c.mapSlots f).slot i = f (c.slot i) :=
  mapEach_get f c.sst.slots i

/-- A change of every slot that sets no lock and leaves every slot its owner's. -/
theorem Sst.Lawful.mapSlots {f : Slot → Slot} (h : c.sst.Lawful) (hk : ∀ k : Slot, (f k).lock = none ∨ (f k).lock = k.lock)
    (ho : ∀ k : Slot, k.Own → (f k).Own) : (c.mapSlots f).sst.Lawful := by
  obtain ⟨hlru, -, hown⟩ := id h
  refine h.of_locks hlru (fun i hi => ?_) fun i => ?_
  · rw [Chip.mapSlots_slot] at hi
    rcases hk (c.slot i) with e | e
    · simp [e] at hi
    · rwa [e] at hi
  · rw [Chip.mapSlots_slot]
    exact ho _ (hown i)

theorem Slot.emptied_own (k : Slot) : k.emptied.Own := fun _ _ => .inl rfl

end

end Sys2Proof.Machine
end

section
/-! SUPPORT. The operations of the orders, of the events and of a restart that are quiet: they change lines, slots, ringing and
journal only. -/

namespace Sys2Proof.Machine

variable {c d : Chip}

/-! ### The orders of a call (03, 07, 09, 01) -/

theorem Quiet.startRing (h : Quiet c d) (x : LineNo) (party : Nat) (plan : Option PlanNo) (cycles : Nat) (cls : LineClass)
    (notBefore : Option Nat) : Quiet c (startRing x party plan cycles cls notBefore d) :=
  ((h.modRsc _).setSt x _).requestSlot x _ _

theorem Quiet.orderRing (h : Quiet c d) (x : LineNo) (party : Nat) (plan : Option PlanNo) (cycles : Nat) (priority : Bool) :
    Quiet c (orderRing x party plan cycles priority d).1 := by
  unfold Machine.orderRing
  dsimp only
  split
  case h_1 => exact h.startRing x _ _ _ _ _
  case h_2 =>
    split
    · exact h
    · split
      · exact h
      · exact h.startRing x _ _ _ _ _
  all_goals exact h

theorem Quiet.orderStopRing (h : Quiet c d) (x : LineNo) : Quiet c (orderStopRing x d).1 := by
  unfold Machine.orderStopRing
  split
  · exact ((h.removeAlloc x).releaseSlot x).enterPostRingGuard x
  · exact ((h.dropEntry x).releaseSlot x).enterIdle x
  all_goals exact h

theorem Quiet.orderDigitSeen (h : Quiet c d) (x : LineNo) : Quiet c (orderDigitSeen x d).1 := by
  unfold Machine.orderDigitSeen
  split
  · exact h
  · split
    · exact ((h.setSt x _).setTone x _).startDialling x
    · exact h

theorem Quiet.orderEnddial (h : Quiet c d) (x : LineNo) : Quiet c (orderEnddial x d).1 := by
  unfold Machine.orderEnddial
  split
  case h_3 => exact h
  all_goals exact (((h.dropPulses x).stopDialling x).terminalFlush x _).enterRouting x

theorem Quiet.orderConnect (h : Quiet c d) (x : LineNo) : Quiet c (orderConnect x d).1 := by
  have hEnd {e : Chip} (q : Quiet c e) : Quiet c (Machine.enterTalk x false (Machine.releaseSlot x (Machine.setTone x .none e))) :=
    ((q.setTone x _).releaseSlot x).enterTalk x _
  unfold Machine.orderConnect
  split
  · refine hEnd ?_
    split
    · exact h.terminalFlush x _
    · exact h
  · refine hEnd ?_
    split
    · exact ((h.dropPulses x).stopDialling x).terminalFlush x _
    · exact h
  · exact h

theorem Quiet.orderTone (h : Quiet c d) (x : LineNo) (t : Tone) : Quiet c (orderTone x t d).1 := by
  unfold Machine.orderTone
  split
  case h_3 => exact h
  all_goals exact h.setTone x _

theorem Quiet.orderClear (h : Quiet c d) (x : LineNo) : Quiet c (orderClear x d).1 := by
  have hParked := ((h.setTone x .none).releaseSlot x).enterParked x (some .cleared)
  have hGuard := ((h.setTone x .none).releaseSlot x).enterReleaseGuard x
  unfold Machine.orderClear
  cases (d.line x).st with
  | seizeWait => exact hParked
  | idle | releaseGuard | parked | blocked | ringWait | ringing | unequipped => exact h
  | _ =>
    dsimp only
    split
    · exact hGuard
    · exact hParked

theorem Quiet.orderBlock (h : Quiet c d) (x : LineNo) : Quiet c (orderBlock x d).1 := by
  unfold Machine.orderBlock
  cases (d.line x).st with
  | idle | parked | releaseGuard => exact (h.setSt x _).setTone x _
  | _ => exact h

theorem Quiet.orderUnblock (h : Quiet c d) (x : LineNo) : Quiet c (orderUnblock x d).1 := by
  unfold Machine.orderUnblock
  dsimp only
  split
  · split
    · exact h.enterUnequipped x
    · split
      · exact h.enterIdle x
      · exact h.enterParked x none
  all_goals exact h

theorem Quiet.orderGenReset (h : Quiet c d) : Quiet c (orderGenReset d).1 := by
  unfold Machine.orderGenReset
  split
  · dsimp only
    split
    · exact (h.setGen _ _ _).startRequest
    · exact h.setGen _ _ _
  · exact h

/-! ### The expiries (01, 03, 06, 08) -/

theorem Quiet.dropDigit (h : Quiet c d) (x : LineNo) : Quiet c (dropDigit x d) := by
  unfold Machine.dropDigit
  split
  · exact h.setThreshold x _
  all_goals exact h

theorem Quiet.dialToneExpired (h : Quiet c d) (x : LineNo) : Quiet c (dialToneExpired x d) :=
  ((h.setTone x _).releaseSlot x).enterParked x _

theorem Quiet.diallingExpired (h : Quiet c d) (x : LineNo) : Quiet c (diallingExpired x d) :=
  ((((h.dropPulses x).stopDialling x).dropDigit x).terminalFlush x _).enterRouting x

theorem Quiet.recallExpired (h : Quiet c d) (x : LineNo) : Quiet c (recallExpired x d) := by
  have hFlush := (((h.dropPulses x).stopDialling x).dropDigit x).terminalFlush x .timeout
  unfold Machine.recallExpired
  dsimp only
  split
  · exact hFlush.setTone x _
  · exact hFlush

theorem Quiet.guardEnds (h : Quiet c d) (x : LineNo) : Quiet c (guardEnds x d) := by
  unfold Machine.guardEnds
  dsimp only
  split
  · exact h.enterUnequipped x
  · split
    · exact h.enterIdle x
    · exact h.seize x

theorem Quiet.parkExpired (h : Quiet c d) (x : LineNo) : Quiet c (parkExpired x d) := (h.setTone x _).modLine x _

theorem Quiet.howlerExpired (h : Quiet c d) (x : LineNo) : Quiet c (howlerExpired x d) := (h.setTone x _).modLine x _

theorem Quiet.waitExpired (h : Quiet c d) (x : LineNo) (e : RingWait) : Quiet c (waitExpired x e d) :=
  (((h.emit _ _).dropEntry x).releaseSlot x).enterIdle x

theorem Quiet.notBeforeOver (h : Quiet c d) (x : LineNo) : Quiet c (notBeforeOver x d) := (h.modEntry x _).walk

theorem Quiet.genStarted (h : Quiet c d) : Quiet c (genStarted d) := ((h.modGen _).setGen _ _ _).walk

theorem Quiet.genRests (h : Quiet c d) : Quiet c (genRests d) := (h.modGen _).setGen _ _ _

theorem Quiet.holdOver (h : Quiet c d) : Quiet c (holdOver d) := by
  have hOff := (h.modGen fun g => { g with holdTimer := none }).setGen .off .holdEnd 0
  unfold Machine.holdOver
  dsimp only
  split
  · exact hOff.startRequest
  · exact hOff

/-! ### Core fields, fetches and requests (01 R3, 04 R60 to R62) -/

theorem Quiet.coreEffect (h : Quiet c d) (x : LineNo) (w : Word) : Quiet c (coreEffect x w d) := by
  have hTaken := h.modLine x (·.takeCore w)
  unfold Machine.coreEffect
  dsimp only
  split
  · split
    · exact hTaken
    · exact hTaken.enterUnequipped x
  · exact hTaken.modLine x _
  · split
    · exact hTaken.modLine x _
    · exact hTaken
  · exact hTaken

theorem Quiet.readFetchWord (h : Quiet c d) (i : SlotNo) (x : LineNo) (k : Fin 8) (m : Memory) :
    Quiet c (readFetchWord i x k m d) :=
  (h.modSlotKeep i (fun s => s.putWord k (readWord m (d.recordAddr x + k.val))) (fun _ => rfl) (fun _ => rfl)).dropRequest _

theorem Quiet.abandonedFetch (h : Quiet c d) (i : SlotNo) : Quiet c (abandonedFetch i d) := by
  unfold Machine.abandonedFetch
  dsimp only
  refine Quiet.grantFreed ?_
  dsimp only
  split
  · exact (h.emptied i).toLru i
  · exact (h.modSlotKeep i (fun s => { s with status := .warm, ctx := Ctx.fresh }) (fun _ => rfl) (fun _ => rfl)).toMru i

theorem Quiet.fetchDone (h : Quiet c d) (i : SlotNo) : Quiet c (fetchDone i d) := by
  unfold Machine.fetchDone
  split
  · exact Quiet.grantFreed
      ((h.modSlotKeep i (fun s => { s with phase := .valid }) (fun _ => rfl) (fun _ => rfl)).takeRecord _)
  · exact h.abandonedFetch i

theorem Quiet.askAgain (h : Quiet c d) (x : LineNo) : Quiet c (askAgain x d) :=
  ((h.setSlotRef x _).modEntry x _).requestSlot x _ _

theorem Quiet.failFetch (h : Quiet c d) (i : SlotNo) : Quiet c (failFetch i d) := by
  have hEmpty := ((h.emptied i).toLru i).dropRequest (.fetch i)
  unfold Machine.failFetch
  dsimp only
  split
  · exact hEmpty.askAgain _
  · exact Quiet.grantFreed hEmpty

/-! ### A restart (01 Table 1-4, 11 R167, R170) -/

theorem Quiet.warmLine (h : Quiet c d) (x : LineNo) : Quiet c (warmLine x d) := by
  unfold Machine.warmLine
  dsimp only
  cases (d.line x).st with
  | ringWait | ringing => exact h.enterPostRingGuard x
  | unequipped | idle | blocked | talk | parked | releaseGuard => exact h
  | _ =>
    dsimp only
    split
    · exact h.enterReleaseGuard x
    · exact ((h.setSt x _).setTone x _).modLine x _

theorem Quiet.runLine (h : Quiet c d) (x : LineNo) : Quiet c (runLine x d) := by
  unfold Machine.runLine
  dsimp only
  split
  · exact h.enterUnequipped x
  · split
    · exact h.enterUnequipped x
    · exact h

theorem Quiet.seizeAtRun (h : Quiet c d) (x : LineNo) : Quiet c (seizeAtRun x d) := by
  unfold Machine.seizeAtRun
  split
  · exact (h.emit _ _).modLine x _
  · exact h

theorem Quiet.askAtRun (h : Quiet c d) (x : LineNo) : Quiet c (askAtRun x d) := by
  unfold Machine.askAtRun
  dsimp only
  split
  · exact (h.modLine x _).requestSlot x _ _
  · exact h

/-- The work of one line after another is quiet where each line's is. -/
theorem Quiet.allLines (f : LineNo → Chip → Chip) (hf : ∀ (x : LineNo) (e : Chip), Quiet e (f x e)) (h : Quiet c d) :
    Quiet c (allLines.foldl (fun e x => f x e) d) := Quiet.foldl _ (fun e x => hf x e) _ h

theorem Quiet.planFaults (h : Quiet c d) (ps : List PlanNo) : Quiet c (planFaults ps d) := by
  have hOffered := Quiet.foldl (fun e (p : PlanNo) => Machine.offerFault .planInvalid none p.val e)
    (fun e p => (Quiet.refl e).offerFault _ _ _) ps h
  exact hOffered.modJwr
    (fun j => { j with startRecs := (ps.map fun p => (⟨none, 0, .fault .planInvalid p.val⟩ : Rec)) ++ j.startRecs })
    ⟨rfl, rfl, rfl, rfl, rfl, rfl, rfl⟩

end Sys2Proof.Machine
end

section
/-! SUPPORT. The laws of the Slot Store over the commands: what each changes in the store keeps them (04 R55, R57, R67
to R73). -/

namespace Sys2Proof.Machine

section
variable {c : Chip}

/-! ### The lock orders (04 R67 to R69) -/

/-- The slot that LOCK_SLOT locks as it stands holds the line's record (04 R67 step 3). -/
theorem ownCopy_recLine {x : LineNo} {i : SlotNo} (h : c.ownCopy x = some i) : (c.slot i).recLine = some x := by
  have hi := List.find?_some h
  simp only [Bool.and_eq_true, beq_iff_eq] at hi
  obtain ⟨⟨-, hrec⟩, -⟩ := hi
  exact hrec

theorem orderLockSlot_lawful (h : c.sst.Lawful) (x : LineNo) : (orderLockSlot x c).1.sst.Lawful := by
  unfold orderLockSlot
  split
  · exact h
  · split
    · exact h
    · have hn : c.lockedCount < Config.lockLimit := Nat.lt_of_not_le ‹_›
      split
      · next i hi => exact (h.lock hn (.inr (ownCopy_recLine hi))).toMru i
      · split
        · next i hi =>
          have hq := (Quiet.refl c).emptied i
          have hrec : ((c.modSlot i Slot.emptied).slot i).recLine = none := by simp [Slot.emptied]
          exact ((hq.lawful h).lock (hq.lockedCount ▸ hn) (.inl hrec)).toMru i
        · exact h

theorem orderUnlockSlot_lawful (h : c.sst.Lawful) (x : LineNo) : (orderUnlockSlot x c).1.sst.Lawful := by
  unfold orderUnlockSlot
  split
  · next i _ => exact (Quiet.grantFreed (r := (_, some i)) (Quiet.refl _)).lawful ((h.unlock i).toMru i)
  · exact h

/-- A slot without its lock. -/
def Slot.unlocked (s : Slot) : Slot := { s with lock := none }

/-- The grants that follow FREE_LOCKS change no lock (04 R69). -/
theorem orderFreeLocks_quiet (c : Chip) : Quiet (c.mapSlots Slot.unlocked) (orderFreeLocks c).1 :=
  Quiet.foldl _ (fun e j => Quiet.grantFreed (r := (e, some j)) (Quiet.refl e)) _ (Quiet.refl _)

theorem orderFreeLocks_lawful (h : c.sst.Lawful) : (orderFreeLocks c).1.sst.Lawful := by
  have hUnlocked : (c.mapSlots Slot.unlocked).sst.Lawful :=
    h.mapSlots (fun _ => .inl rfl) fun _ _ => Slot.own_of_unlocked rfl
  exact (orderFreeLocks_quiet c).lawful hUnlocked

/-! ### INVALIDATE (04 R70, R71) -/

theorem Slot.invalidated_lock (k : Slot) : k.invalidated.lock = k.lock := by
  unfold Slot.invalidated
  split <;> rfl

theorem Slot.invalidated_own {k : Slot} (h : k.Own) : k.invalidated.Own := by
  unfold Slot.invalidated
  split
  · exact h
  · exact k.emptied_own
  · exact h

theorem invalidateSlots_lawful (h : c.sst.Lawful) (p : LineNo → Bool) : (invalidateSlots p c).sst.Lawful := by
  have hSlots : (c.mapSlots fun k => if k.concerns p then k.invalidated else k).sst.Lawful := by
    refine h.mapSlots (fun k => .inr ?_) fun k hk => ?_
    · split
      · exact k.invalidated_lock
      · rfl
    · split
      · exact Slot.invalidated_own hk
      · exact hk
  obtain ⟨hlru, hrest⟩ := hSlots
  exact ⟨(List.filter_append_perm _ _).trans hlru, hrest⟩

/-! ### An order taken (10 R150) -/

theorem orderReloadPlan_sst (p : PlanNo) (c : Chip) : (orderReloadPlan p c).1.sst = c.sst := by
  unfold orderReloadPlan
  split <;> rfl

theorem handOver_lawful (h : c.sst.Lawful) (k : OrderKind) (o : OrderCopy) : (handOver k o c).sst.Lawful := by
  have q := Quiet.refl c
  unfold handOver
  cases k with
  | ring => exact (q.orderRing _ _ _ _ _).lawful h
  | stopRing => exact (q.orderStopRing _).lawful h
  | digitSeen => exact (q.orderDigitSeen _).lawful h
  | enddial => exact (q.orderEnddial _).lawful h
  | connect => exact (q.orderConnect _).lawful h
  | tone => exact (q.orderTone _ _).lawful h
  | clear => exact (q.orderClear _).lawful h
  | block => exact (q.orderBlock _).lawful h
  | unblock => exact (q.orderUnblock _).lawful h
  | lockSlot => exact orderLockSlot_lawful h _
  | unlockSlot => exact orderUnlockSlot_lawful h _
  | freeLocks => exact orderFreeLocks_lawful h
  | invalidate =>
    dsimp only
    split
    · exact invalidateSlots_lawful h _
    · exact invalidateSlots_lawful h _
  | reloadPlan =>
    have hsst := orderReloadPlan_sst (Fin.ofNat 8 o.a1.toNat) c
    dsimp only
    split
    · exact hsst ▸ h
    · exact hsst ▸ h
  | setCapacity => exact h
  | powerMode => exact h
  | genReset => exact q.orderGenReset.lawful h

theorem takeOrder_lawful (h : c.sst.Lawful) (o : OrderCopy) : (takeOrder o c).sst.Lawful := by
  unfold takeOrder
  dsimp only
  split
  · exact h
  · exact handOver_lawful (c := copyOrder o c) h _ _

/-! ### The accesses (10 R150, R154 to R156, R159, 05 R79, 01 R3) -/

theorem reloadDone_sst (p : PlanNo) (ws : List Word) (c : Chip) : (reloadDone p ws c).sst = c.sst := by
  unfold reloadDone
  dsimp only
  split
  · rfl
  · rfl
  · split
    · rfl
    · split <;> rfl

theorem resultWritten_sst (c : Chip) : (resultWritten c).sst = c.sst := by
  unfold resultWritten
  dsimp only
  split <;> rfl

theorem resume_lawful (h : c.sst.Lawful) : (resume c).sst.Lawful := (Quiet.refl c).resume.lawful h

theorem endQueueStall_lawful (h : c.sst.Lawful) : (endQueueStall c).sst.Lawful := by
  unfold endQueueStall
  split
  · exact resume_lawful h
  · exact h

theorem pageAccess_lawful (h : c.sst.Lawful) (m : Memory) : (pageAccess c m).1.sst.Lawful := by
  have hRecord (r : Rec) : (if c.jwr.fits r then recordAccess r c m else beginClose c m).1.sst.Lawful := by
    split
    · unfold recordAccess
      dsimp only
      split
      · exact h
      · exact endQueueStall_lawful (c := c.modJwr (·.wrote r)) h
    · exact h
  unfold pageAccess
  split
  · exact h
  · exact h
  · exact hRecord _
  · exact hRecord _
  · exact h
  · exact h

theorem openAccess_sst (c : Chip) (m : Memory) : (openAccess c m).1.sst = c.sst := by
  unfold openAccess
  split
  · split <;> rfl
  · rfl
  · rfl

theorem afterPage_sst (c : Chip) : (afterPage c).sst = c.sst := by
  unfold afterPage
  dsimp only
  split <;> rfl

theorem firstAccess_sst (c : Chip) (m : Memory) : (firstAccess c m).1.sst = c.sst := by
  unfold firstAccess
  split
  · split
    · rfl
    · exact afterPage_sst _
  · rfl
  · exact afterPage_sst _

theorem retryAccess_lawful (h : c.sst.Lawful) (m : Memory) : (retryAccess c m).1.sst.Lawful := by
  unfold retryAccess
  split
  · split
    · exact h
    · exact h
  · exact h
  · exact resume_lawful (c := (openPage c m).1) h

theorem askClose_sst (c : Chip) : (askClose c).sst = c.sst := by
  unfold askClose
  split <;> rfl

/-! ### An access that fails, and the start procedure (10 R161, 11 R167, R168) -/

/-- Who waits for a slot is no matter of the laws. -/
theorem Sst.Lawful.waitList {t : Sst} (h : t.Lawful) (l : List SlotWait) : ({ t with waitList := l } : Sst).Lawful := h

/-- A start procedure that fails leaves the slots as they stand (11 R168). -/
theorem failStart_sst (k : FaultKind) (c : Chip) :
    (failStart k c).sst = { (foldFault k (offerFault k none 0 c)).sst with waitList := [] } := by
  unfold failStart
  rfl

theorem failStart_lawful (h : c.sst.Lawful) (k : FaultKind) : (failStart k c).sst.Lawful := by
  rw [failStart_sst]
  exact h.waitList []

theorem plansBefore_lawful (h : c.sst.Lawful) : (plansBefore c).sst.Lawful := by
  unfold plansBefore
  split
  · dsimp only
    exact ((Quiet.refl _).planFaults _).lawful h
  · exact h

/-- The shelf becomes ISOLATED with its slots as they stand (10 R161). -/
theorem isolate_lawful (h : c.sst.Lawful) : (isolate c).sst.Lawful := h

theorem afterTimeout_lawful (h : c.sst.Lawful) (a : Access) : (afterTimeout a c).sst.Lawful := by
  unfold afterTimeout
  cases a with
  | fetch i => exact ((Quiet.refl c).failFetch i).lawful h
  | mirror =>
    dsimp only
    split
    · exact h
    · exact h
  | journal | core | reload | start | order => exact h

theorem headerDone_lawful (h : c.sst.Lawful) (ws : List Word) : (headerDone ws c).sst.Lawful := by
  unfold headerDone
  split
  · exact h
  · exact failStart_lawful h _

theorem takeTiming_lawful (h : c.sst.Lawful) (ws : List Word) : (takeTiming ws c).sst.Lawful := h

theorem takePlans_lawful (h : c.sst.Lawful) (ws : List Word) : (takePlans ws c).sst.Lawful := by
  have hKept : (keepPlansBelow 8 (planOf c.shc.hdr.n ws) c).sst.Lawful := by
    rw [keepPlansBelow]
    exact h
  unfold takePlans
  exact ((Quiet.refl _).planFaults _).lawful hKept

theorem beginRunning_lawful (h : c.sst.Lawful) : (beginRunning c).sst.Lawful := h

theorem shelfRuns_lawful (h : c.sst.Lawful) : (shelfRuns c).sst.Lawful := by
  have hLines := (Quiet.allLines runLine (fun x e => (Quiet.refl e).runLine x) (Quiet.refl c)).lawful h
  unfold shelfRuns
  refine Quiet.lawful ?_ (beginRunning_lawful hLines)
  exact Quiet.allLines askAtRun (fun x e => (Quiet.refl e).askAtRun x)
    (Quiet.allLines seizeAtRun (fun x e => (Quiet.refl e).seizeAtRun x) ((Quiet.refl _).emit _ _))

/-! ### Restarts (11 R169, R170, R172) -/

theorem startCommand_sst (c : Chip) : (startCommand c).sst = c.sst := by
  unfold startCommand
  split <;> rfl

theorem startCommand_lawful (h : c.sst.Lawful) : (startCommand c).sst.Lawful := by
  rw [startCommand_sst]
  exact h

theorem stopCommand_lawful (h : c.sst.Lawful) : (stopCommand c).sst.Lawful := by
  unfold stopCommand
  split
  · exact h
  all_goals exact Sst.reset_lawful

theorem coldRestartCommand_lawful (h : c.sst.Lawful) : (coldRestartCommand c).sst.Lawful := by
  unfold coldRestartCommand
  split
  · exact h
  · exact Sst.reset_lawful
  · exact Sst.reset_lawful
  · exact Sst.reset_lawful
  · exact h

theorem emptySlots_lawful (h : c.sst.Lawful) : (emptySlots c).sst.Lawful :=
  h.mapSlots (fun _ => .inr rfl) fun k _ => k.emptied_own

theorem warmRestartCommand_lawful (h : c.sst.Lawful) : (warmRestartCommand c).sst.Lawful := by
  have hWarm : (warmRestart c).sst.Lawful := by
    unfold warmRestart
    refine (Quiet.allLines warmLine (fun x e => (Quiet.refl e).warmLine x) (Quiet.refl _)).lawful ?_
    exact emptySlots_lawful h
  unfold warmRestartCommand
  split
  · exact hWarm
  · exact hWarm
  all_goals exact h

/-! ### The step boundary (05 R82, R87) -/

theorem beginStep_lawful (h : c.sst.Lawful) : (beginStep c).1.sst.Lawful := by
  unfold beginStep
  dsimp only
  split
  · unfold wrapWork
    dsimp only
    refine ((Quiet.shedOver _ (Quiet.refl _)).modRsc _).walk.lawful ?_
    exact h
  · exact h

theorem boundary_lawful (h : c.sst.Lawful) : (boundary c).sst.Lawful :=
  (Quiet.boundaryLines _ (Quiet.refl _)).lawful (beginStep_lawful h)

end

end Sys2Proof.Machine
end

section
/-! SUPPORT. The laws of the Slot Store over every outcome: a command that goes on goes on with them (04 R55, R57). -/

namespace Sys2Proof.Machine

/-! ### Outcomes -/

/-- An outcome that, where the machine goes on, has the laws of the Slot Store. -/
def KeepsSlotLaws (o : Out) : Prop := ∀ t, o = .next t → SlotLaws t

section
variable {s : State} {d : Chip}

theorem finish_slotLaws (h : d.sst.Lawful) : KeepsSlotLaws (finish s d) := fun t e => by
  rw [finish_eq] at e
  cases e
  rw [slotLaws_iff]
  simpa using h

theorem finishRam_slotLaws {r : Chip × Memory} (h : r.1.sst.Lawful) : KeepsSlotLaws (finishRam s r) := fun t e => by
  rw [finishRam] at e
  cases e
  rw [slotLaws_iff]
  simpa using h

theorem stay_slotLaws (h : s.chip.sst.Lawful) : KeepsSlotLaws (stay s) := fun t e => by
  cases e
  exact h

theorem inRam_slotLaws {o : Out} (h : KeepsSlotLaws o) (a n : Nat) : KeepsSlotLaws (inRam a n o) := by
  unfold inRam
  split
  · exact h
  · exact fun _ e => by cases e

/-- A command that is taken only when its occurrence is due (log 1). -/
theorem due_slotLaws (h : s.chip.sst.Lawful) (p : Prop) [Decidable p] {o : Out} (ho : KeepsSlotLaws o) :
    KeepsSlotLaws (if p then o else stay s) := by
  split
  · exact ho
  · exact stay_slotLaws h

/-- A row of accesses, each of which keeps the laws (10 R160). -/
theorem accesses_slotLaws {u : Chip → Bool} {one : State → Out} (h : s.chip.sst.Lawful)
    (hone : ∀ s : State, s.chip.sst.Lawful → KeepsSlotLaws (one s)) (more : Nat) : KeepsSlotLaws (accesses u one more s) :=
  fun _ e => accesses_keeps (P := SlotLaws) (fun s t hs ht => hone s hs t ht) more h e

/-! ### The rows that go to the RAM (10 §10.6) -/

theorem visitAccess_slotLaws (h : s.chip.sst.Lawful) : KeepsSlotLaws (visitAccess s) := by
  unfold visitAccess
  dsimp only
  split
  · exact due_slotLaws h _ (inRam_slotLaws (finish_slotLaws (by exact h)) _ _)
  · exact due_slotLaws h _ (inRam_slotLaws (finishRam_slotLaws (by exact h)) _ _)

theorem takenAccess_slotLaws (h : s.chip.sst.Lawful) : KeepsSlotLaws (takenAccess s) := by
  unfold takenAccess
  dsimp only
  split
  · exact stay_slotLaws h
  · refine due_slotLaws h _ (inRam_slotLaws (finish_slotLaws ?_) _ _)
    split
    · exact h
    · exact takeOrder_lawful (c := release s.chip) h _

theorem doneAccess_slotLaws (h : s.chip.sst.Lawful) : KeepsSlotLaws (doneAccess s) := by
  unfold doneAccess
  dsimp only
  split
  · refine due_slotLaws h _ (inRam_slotLaws (finishRam_slotLaws ?_) _ _)
    split
    · exact h
    · exact resultWritten_sst (release s.chip) ▸ h
  · exact stay_slotLaws h

theorem reloadAccess_slotLaws (h : s.chip.sst.Lawful) : KeepsSlotLaws (reloadAccess s) := by
  unfold reloadAccess
  dsimp only
  split
  · refine due_slotLaws h _ (inRam_slotLaws (finish_slotLaws ?_) _ _)
    split
    · exact h
    · rw [reloadDone_sst]
      exact h
  · exact stay_slotLaws h

theorem journalAccess_slotLaws (h : s.chip.sst.Lawful) : KeepsSlotLaws (journalAccess s) :=
  due_slotLaws h _ (inRam_slotLaws (finishRam_slotLaws (pageAccess_lawful (c := release s.chip) h _)) _ _)

theorem pageOpenAccess_slotLaws (h : s.chip.sst.Lawful) : KeepsSlotLaws (pageOpenAccess s) := by
  refine due_slotLaws h _ (inRam_slotLaws (finishRam_slotLaws ?_) _ _)
  split
  · rw [firstAccess_sst]
    exact h
  · rw [openAccess_sst]
    exact h

theorem stallRetryAccess_slotLaws (h : s.chip.sst.Lawful) : KeepsSlotLaws (stallRetryAccess s) :=
  due_slotLaws h _ (inRam_slotLaws (finishRam_slotLaws (retryAccess_lawful (c := release s.chip) h _)) _ _)

theorem startAccess_slotLaws {all : List Word → Chip → Chip}
    (hall : ∀ (ws : List Word) (c : Chip), c.sst.Lawful → (all ws c).sst.Lawful) (st : StartStep) (a n : Nat)
    (h : s.chip.sst.Lawful) : KeepsSlotLaws (startAccess st a n all s) := by
  refine due_slotLaws h _ (finish_slotLaws ?_)
  split
  · exact h
  · exact hall _ _ h

theorem areaAccess_slotLaws {all : List Word → Chip → Chip}
    (hall : ∀ (ws : List Word) (c : Chip), c.sst.Lawful → (all ws c).sst.Lawful) (st : StartStep) (a n : Nat)
    (h : s.chip.sst.Lawful) : KeepsSlotLaws (areaAccess st a n all s) :=
  due_slotLaws h _ (inRam_slotLaws (startAccess_slotLaws hall st a n h) _ _)

/-- The page is asked to be closed, and the close may begin at once (10 R155). -/
theorem closeOut_slotLaws {c : Chip} (h : c.sst.Lawful) (more : Nat) : KeepsSlotLaws (closeOut s c more) := by
  have hAsked : (settle s.chip (askClose c)).sst.Lawful := by
    rw [settle_sst, askClose_sst]
    exact h
  have hNext : KeepsSlotLaws (.next { s with chip := settle s.chip (askClose c) }) := stay_slotLaws hAsked
  unfold closeOut
  cases more with
  | zero => exact hNext
  | succ k =>
    dsimp only
    split
    · exact accesses_slotLaws (by exact hAsked) (fun _ => journalAccess_slotLaws) k
    · exact hNext

theorem flushOut_slotLaws {c : Chip} (h : c.sst.Lawful) (more : Nat) : KeepsSlotLaws (flushOut s c more) := by
  unfold flushOut
  split
  · exact closeOut_slotLaws h more
  · exact finish_slotLaws h

/-! ### The commands of Shelf Control (11) -/

theorem controlRegisterWrite_slotLaws (h : s.chip.sst.Lawful) (w : Word) (more : Nat) :
    KeepsSlotLaws (execControlRegisterWrite w s more) := by
  have hStored : (storeControl (selectField w) (maskField w) s.chip).sst.Lawful := h
  unfold execControlRegisterWrite
  dsimp only
  split
  · exact finish_slotLaws (startCommand_lawful hStored)
  · exact finish_slotLaws (stopCommand_lawful hStored)
  · exact finish_slotLaws (coldRestartCommand_lawful hStored)
  · exact finish_slotLaws (warmRestartCommand_lawful hStored)
  · exact flushOut_slotLaws hStored more
  · exact finish_slotLaws hStored
  · exact finish_slotLaws hStored

theorem areaBaseWrite_slotLaws (h : s.chip.sst.Lawful) (w : Word) : KeepsSlotLaws (execAreaBaseWrite w s) := by
  unfold execAreaBaseWrite
  split
  · exact finish_slotLaws h
  all_goals exact stay_slotLaws h

theorem mains_slotLaws (h : s.chip.sst.Lawful) :
    KeepsSlotLaws (execMainsFailAsserted s) ∧ KeepsSlotLaws (execMainsFailReleased s) := by
  constructor
  all_goals
    refine finish_slotLaws ?_
    split
    · exact h
    · exact h

theorem overloadAsserted_slotLaws (h : s.chip.sst.Lawful) (standing : Bool) :
    KeepsSlotLaws (execOverloadAsserted standing s) := by
  have q := (Quiet.refl s.chip).modGen fun g => { g with overload := standing }
  unfold execOverloadAsserted
  dsimp only
  split
  · exact finish_slotLaws (q.tripGen.lawful h)
  · exact finish_slotLaws (q.tripGen.lawful h)
  all_goals exact finish_slotLaws (q.lawful h)

theorem memoryTimeout_slotLaws (h : s.chip.sst.Lawful) (a : Access) : KeepsSlotLaws (execMemoryTimeout a s) := by
  refine due_slotLaws h _ ?_
  split
  · exact finish_slotLaws (failStart_lawful (plansBefore_lawful h) _)
  · exact finish_slotLaws (afterTimeout_lawful (isolate_lawful h) a)
  all_goals exact stay_slotLaws h

/-! ### The other commands -/

theorem sampleIf_slotLaws (h : s.chip.sst.Lawful) (due : Bool) (x : LineNo) (loop trip : Bool) :
    KeepsSlotLaws (sampleIf due x loop trip s) :=
  due_slotLaws h _ (finish_slotLaws (((Quiet.refl _).sample x loop trip).lawful h))

theorem orderCommand_slotLaws (h : s.chip.sst.Lawful) (kind : Nat) (a1 a2 a3 a4 a5 : Word) :
    KeepsSlotLaws (orderCommand kind a1 a2 a3 a4 a5 s) :=
  due_slotLaws h _ (finish_slotLaws (takeOrder_lawful h _))

theorem diallingTimeout_slotLaws (h : s.chip.sst.Lawful) (x : LineNo) : KeepsSlotLaws (execDiallingTimeout x s) := by
  refine due_slotLaws h _ ?_
  split
  · exact finish_slotLaws (((Quiet.refl _).diallingExpired x).lawful h)
  · exact finish_slotLaws (((Quiet.refl _).recallExpired x).lawful h)
  · exact stay_slotLaws h

theorem waitExpiry_slotLaws (h : s.chip.sst.Lawful) (x : LineNo) : KeepsSlotLaws (execWaitExpiry x s) := by
  unfold execWaitExpiry
  split
  · exact due_slotLaws h _ (finish_slotLaws (((Quiet.refl _).waitExpired x _).lawful h))
  · exact stay_slotLaws h

theorem notBeforeExpiry_slotLaws (h : s.chip.sst.Lawful) (x : LineNo) : KeepsSlotLaws (execNotBeforeExpiry x s) := by
  unfold execNotBeforeExpiry
  split
  · exact due_slotLaws h _ (finish_slotLaws (((Quiet.refl _).notBeforeOver x).lawful h))
  · exact stay_slotLaws h

theorem fetchWordRead_slotLaws (h : s.chip.sst.Lawful) (i : SlotNo) : KeepsSlotLaws (execFetchWordRead i s) := by
  unfold execFetchWordRead
  dsimp only
  split
  · exact stay_slotLaws h
  · split
    · refine due_slotLaws h _ (inRam_slotLaws (finish_slotLaws ?_) _ _)
      exact (((Quiet.refl (release s.chip)).readFetchWord i _ _ _).addRequest _).lawful h
    · exact stay_slotLaws h

theorem fetchComplete_slotLaws (h : s.chip.sst.Lawful) (i : SlotNo) : KeepsSlotLaws (execFetchComplete i s) := by
  unfold execFetchComplete
  dsimp only
  split
  · exact stay_slotLaws h
  · refine due_slotLaws h _ (inRam_slotLaws (finish_slotLaws ?_) _ _)
    exact (((Quiet.refl (release s.chip)).readFetchWord i _ _ _).fetchDone i).lawful h

theorem coreFieldReadComplete_slotLaws (h : s.chip.sst.Lawful) : KeepsSlotLaws (execCoreFieldReadComplete s) := by
  unfold execCoreFieldReadComplete
  dsimp only
  split
  · exact stay_slotLaws h
  · refine due_slotLaws h _ (inRam_slotLaws (finish_slotLaws ?_) _ _)
    rw [nextCoreRead_sst]
    exact ((Quiet.refl (release s.chip)).coreEffect _ _).lawful h

theorem mirrorWrite_slotLaws (h : s.chip.sst.Lawful) : KeepsSlotLaws (execMirrorWrite s) := by
  unfold execMirrorWrite
  dsimp only
  split
  · exact stay_slotLaws h
  · exact due_slotLaws h _ (inRam_slotLaws (finishRam_slotLaws (by exact h)) _ _)

/-! ### Every command -/

/-- Every command keeps the laws of the Slot Store. -/
theorem exec_slotLaws (i : Instr) (h : s.chip.sst.Lawful) : KeepsSlotLaws (exec i s) := by
  have q := Quiet.refl s.chip
  cases i with
  | powerOnReset => exact finish_slotLaws Sst.reset_lawful
  | resetInput => exact finish_slotLaws Sst.reset_lawful
  | start sel mask => exact finish_slotLaws (startCommand_lawful (c := storeControl sel mask s.chip) h)
  | stop sel mask => exact finish_slotLaws (stopCommand_lawful (c := storeControl sel mask s.chip) h)
  | coldRestart sel mask => exact finish_slotLaws (coldRestartCommand_lawful (c := storeControl sel mask s.chip) h)
  | warmRestart sel mask => exact finish_slotLaws (warmRestartCommand_lawful (c := storeControl sel mask s.chip) h)
  | flush sel mask more => exact flushOut_slotLaws (c := storeControl sel mask s.chip) h more
  | faultClear sel mask => exact finish_slotLaws (by exact h)
  | areaBaseWrite w => exact areaBaseWrite_slotLaws h w
  | attentionWrite w => exact finish_slotLaws (by exact h)
  | mainsFailAsserted => exact (mains_slotLaws h).1
  | mainsFailReleased => exact (mains_slotLaws h).2
  | overloadAsserted standing => exact overloadAsserted_slotLaws h standing
  | lineSample x loop trip => exact finish_slotLaws ((q.sample x loop trip).lawful h)
  | hookTransition x loop trip => exact sampleIf_slotLaws h _ x loop trip
  | firstDebouncedState x loop trip => exact sampleIf_slotLaws h _ x loop trip
  | tripConfirm x loop trip => exact sampleIf_slotLaws h _ x loop trip
  | clearExpiry x loop trip => exact sampleIf_slotLaws h _ x loop trip
  | digitExpiry x loop trip => exact sampleIf_slotLaws h _ x loop trip
  | dialToneTimeout x => exact due_slotLaws h _ (finish_slotLaws ((q.dialToneExpired x).lawful h))
  | diallingTimeout x => exact diallingTimeout_slotLaws h x
  | guardExpiry x => exact due_slotLaws h _ (finish_slotLaws ((q.guardEnds x).lawful h))
  | parkTimerExpiry x => exact due_slotLaws h _ (finish_slotLaws ((q.parkExpired x).lawful h))
  | howlerTimerExpiry x => exact due_slotLaws h _ (finish_slotLaws ((q.howlerExpired x).lawful h))
  | fetchComplete i => exact fetchComplete_slotLaws h i
  | coreFieldReadComplete => exact coreFieldReadComplete_slotLaws h
  | stepBoundary => exact due_slotLaws h _ (finish_slotLaws (boundary_lawful h))
  | ringExpiry x => exact due_slotLaws h _ (finish_slotLaws (boundary_lawful h))
  | waitExpiry x => exact waitExpiry_slotLaws h x
  | notBeforeExpiry x => exact notBeforeExpiry_slotLaws h x
  | genStartDone => exact due_slotLaws h _ (finish_slotLaws (q.genStarted.lawful h))
  | idleStop => exact due_slotLaws h _ (finish_slotLaws (q.genRests.lawful h))
  | holdEnd => exact due_slotLaws h _ (finish_slotLaws (q.holdOver.lawful h))
  | ring | stopRing | digitSeen | enddial | connect | tone | clear | block | unblock | lockSlot | unlockSlot | freeLocks
  | invalidate | invalidateAll | reloadPlan | setCapacity | powerMode | genReset =>
    exact orderCommand_slotLaws h _ _ _ _ _ _
  | reloadPlanReadComplete more => exact accesses_slotLaws h (fun _ => reloadAccess_slotLaws) more
  | orderPass => exact due_slotLaws h _ (finish_slotLaws (by exact h))
  | orderCellVisit more => exact accesses_slotLaws h (fun _ => visitAccess_slotLaws) more
  | orderTaken more => exact accesses_slotLaws h (fun _ => takenAccess_slotLaws) more
  | orderDone more => exact accesses_slotLaws h (fun _ => doneAccess_slotLaws) more
  | journalWrite more => exact accesses_slotLaws h (fun _ => journalAccess_slotLaws) more
  | pageCloseTimerExpiry more => exact due_slotLaws h _ (closeOut_slotLaws h more)
  | pageOpen more => exact accesses_slotLaws h (fun _ => pageOpenAccess_slotLaws) more
  | pageStallRetry more => exact accesses_slotLaws h (fun _ => stallRetryAccess_slotLaws) more
  | mirrorWrite => exact mirrorWrite_slotLaws h
  | memoryTimeout a => exact memoryTimeout_slotLaws h a
  | headerReadComplete more =>
    exact accesses_slotLaws h (fun _ => startAccess_slotLaws (fun ws _ hc => headerDone_lawful hc ws) _ _ _) more
  | timingSetReadComplete more =>
    exact accesses_slotLaws h (fun _ => areaAccess_slotLaws (fun ws _ hc => takeTiming_lawful hc ws) _ _ _) more
  | planReadComplete more =>
    exact accesses_slotLaws h (fun _ => areaAccess_slotLaws (fun ws _ hc => takePlans_lawful hc ws) _ _ _) more
  | shelfRunning => exact due_slotLaws h _ (finish_slotLaws (shelfRuns_lawful h))
  | controlRegisterWrite w more => exact controlRegisterWrite_slotLaws h w more
  | fetchWordRead i => exact fetchWordRead_slotLaws h i

end

end Sys2Proof.Machine

section
open Sys2Proof Sys2Proof.Machine

/-- Settles O56: the scan period does not touch the slots, and every command keeps the laws. -/
theorem stepKeepsSlotLaws : Obligations.StepKeepsSlotLaws := by
  unfold Obligations.StepKeepsSlotLaws
  intro s t h hstep
  unfold step at hstep
  split at hstep
  · exact finish_slotLaws (d := tickChip s.chip) h t hstep
  · next i rest _ => exact exec_slotLaws (s := { s with pending := rest }) i h t hstep

end
end

section
/-! SUPPORT. LOCK_SLOT, UNLOCK_SLOT and FREE_LOCKS taken (04 R64, R67 to R69, 10 R150). -/

namespace Sys2Proof.Machine

section
variable {c : Chip} {x : LineNo} {i : SlotNo}

/-! ### The slots that the lock orders look for -/

theorem lockedTo_eq_none (h : ∀ j, (c.slot j).lock ≠ some x) : c.lockedTo x = none :=
  find_allSlots_none (P := fun j => (c.slot j).lock = some x) (fun _ => by simp) h

theorem lockedTo_isSome (h : (c.slot i).lock = some x) : ∃ k, c.lockedTo x = some k ∧ (c.slot k).lock = some x :=
  find_allSlots (P := fun j => (c.slot j).lock = some x) (fun _ => by simp) h

theorem lockedTo_eq_some (h : (c.slot i).lock = some x) (hone : ∀ j, (c.slot j).lock = some x → j = i) :
    c.lockedTo x = some i := by
  obtain ⟨k, hk, hlock⟩ := lockedTo_isSome h
  rw [hk, hone k hlock]

/-- The slot is unlocked and holds a copy of the line's record, in use or not (04 R67 step 3). -/
def Chip.HoldsCopy (c : Chip) (x : LineNo) (i : SlotNo) : Prop :=
  (c.slot i).lock = none ∧ (c.slot i).recLine = some x ∧ (c.slot i).status ≠ .empty

theorem holdsCopyTest_iff :
    ((c.slot i).lock.isNone && (c.slot i).recLine == some x && ((c.slot i).status == .bound || (c.slot i).status == .warm)) =
        true ↔ c.HoldsCopy x i := by
  cases hs : (c.slot i).status <;> simp [Chip.HoldsCopy, hs]

theorem ownCopy_eq_none (h : ∀ j, ¬c.HoldsCopy x j) : c.ownCopy x = none :=
  find_allSlots_none (P := c.HoldsCopy x) (fun _ => holdsCopyTest_iff) h

theorem ownCopy_eq_some (h : c.HoldsCopy x i) (hone : ∀ j, c.HoldsCopy x j → j = i) : c.ownCopy x = some i := by
  obtain ⟨k, hk, hcopy⟩ := find_allSlots (P := c.HoldsCopy x) (fun _ => holdsCopyTest_iff) h
  exact hk.trans (congrArg some (hone k hcopy))

/-! ### LOCK_SLOT by the first case that applies (04 R67) -/

theorem orderLockSlot_of_locked (h : (c.slot i).lock = some x) : orderLockSlot x c = (c, .ok) := by
  obtain ⟨k, hk, -⟩ := lockedTo_isSome h
  simp only [orderLockSlot, hk]

theorem orderLockSlot_of_full (h : ∀ j, (c.slot j).lock ≠ some x) (hn : 12 ≤ c.lockedCount) :
    orderLockSlot x c = (c, .noSlot) := by
  simp only [orderLockSlot, lockedTo_eq_none h, Config.lockLimit, hn, if_true]

theorem orderLockSlot_of_copy (h : ∀ j, (c.slot j).lock ≠ some x) (hn : c.lockedCount < 12) (hi : c.ownCopy x = some i) :
    orderLockSlot x c = (toMru i (setLock i (some x) c), .ok) := by
  simp only [orderLockSlot, lockedTo_eq_none h, Config.lockLimit, if_neg (Nat.not_le.2 hn), hi]

theorem orderLockSlot_of_free (h : ∀ j, (c.slot j).lock ≠ some x) (hn : c.lockedCount < 12) (hc : c.ownCopy x = none)
    (hf : c.sst.lru.find? (fun j => (c.slot j).free) = some i) :
    orderLockSlot x c = (toMru i (setLock i (some x) (c.modSlot i Slot.emptied)), .ok) := by
  simp only [orderLockSlot, lockedTo_eq_none h, Config.lockLimit, if_neg (Nat.not_le.2 hn), hc, hf]

theorem orderLockSlot_of_none (h : ∀ j, (c.slot j).lock ≠ some x) (hn : c.lockedCount < 12) (hc : c.ownCopy x = none)
    (hf : c.sst.lru.find? (fun j => (c.slot j).free) = none) : orderLockSlot x c = (c, .noSlot) := by
  simp only [orderLockSlot, lockedTo_eq_none h, Config.lockLimit, if_neg (Nat.not_le.2 hn), hc, hf]

/-! ### UNLOCK_SLOT and the grant that follows (04 R64, R68) -/

/-- The slot unlocked as it stands, at the MRU end. -/
def Chip.unlocked (c : Chip) (i : SlotNo) : Chip := toMru i (setLock i none c)

@[simp] theorem Chip.unlocked_slot : (c.unlocked i).slot i = { c.slot i with lock := none } := by
  simp [Chip.unlocked, setLock]

theorem Chip.unlocked_slot_ne {j : SlotNo} (h : j ≠ i) : (c.unlocked i).slot j = c.slot j := by
  simp [Chip.unlocked, setLock, Chip.slot_modSlot_ne _ _ h]

@[simp] theorem Chip.unlocked_waitList : (c.unlocked i).sst.waitList = c.sst.waitList := rfl

theorem orderUnlockSlot_of_locked (h : c.lockedTo x = some i) :
    orderUnlockSlot x c = (grantFreed (c.unlocked i, some i), .ok) := by
  simp only [orderUnlockSlot, h, Chip.unlocked]

/-- Where nobody waits, or the slot is BOUND, nothing is granted (04 R64). -/
theorem grantFreed_of_not_granted (h : c.sst.waitList = [] ∨ (c.slot i).free = false) : grantFreed (c, some i) = c := by
  rcases h with h | h
  · exact grantFreed_of_nil h
  · simp only [grantFreed]
    cases hw : c.sst.waitList with
    | nil => rfl
    | cons e rest => simp [settleFreed, hw, h]

/-- The slot unlocked and granted as a miss to the line of the entry `e` of the Slot Wait List, of which `rest` stays (04 R59,
R64). -/
def Chip.unlockedTo (c : Chip) (i : SlotNo) (e : SlotWait) (rest : List SlotWait) : Chip :=
  modEntry e.line (fun q => { q with needsSlot := false, fetching := true })
    (addRequest (.fetch i) (((c.unlocked i).setWaitList rest).boundTo e.line i .miss))

section
variable (c : Chip) (i : SlotNo) (e : SlotWait) (rest : List SlotWait)

@[simp] theorem Chip.unlockedTo_slot :
    (c.unlockedTo i e rest).slot i = ({ c.slot i with lock := none } : Slot).bind e.line .miss := by
  simp [Chip.unlockedTo]

theorem Chip.unlockedTo_slot_ne {j : SlotNo} (h : j ≠ i) : (c.unlockedTo i e rest).slot j = c.slot j := by
  simp [Chip.unlockedTo, Chip.boundTo_slot_ne _ h, Chip.unlocked_slot_ne h]

@[simp] theorem Chip.unlockedTo_line : (c.unlockedTo i e rest).line e.line = (c.line e.line).slotted (some i) := by
  simp [Chip.unlockedTo]
  rfl

theorem Chip.unlockedTo_line_ne {y : LineNo} (h : y ≠ e.line) : (c.unlockedTo i e rest).line y = c.line y := by
  simp [Chip.unlockedTo, Chip.boundTo_line_ne _ h]
  rfl

@[simp] theorem Chip.unlockedTo_waitList : (c.unlockedTo i e rest).sst.waitList = rest := by simp [Chip.unlockedTo]
@[simp] theorem Chip.unlockedTo_sets : (c.unlockedTo i e rest).sets = c.sets := rfl
@[simp] theorem Chip.unlockedTo_ctb : (c.unlockedTo i e rest).ctb = c.ctb := rfl
@[simp] theorem Chip.unlockedTo_gen : (c.unlockedTo i e rest).gen = c.gen := rfl
@[simp] theorem Chip.unlockedTo_ord : (c.unlockedTo i e rest).ord = c.ord := rfl
@[simp] theorem Chip.unlockedTo_jwr : (c.unlockedTo i e rest).jwr = c.jwr := rfl
@[simp] theorem Chip.unlockedTo_shc : (c.unlockedTo i e rest).shc = c.shc := rfl

end

/-- A slot unlocked, not BOUND and without a copy of the record of the line that waits longest is granted to it (04 R64). -/
theorem grantFreed_unlocked {e : SlotWait} {rest : List SlotWait} (hw : c.sst.waitList = e :: rest)
    (hb : (c.slot i).status ≠ .bound) (hm : (c.slot i).recLine ≠ some e.line) :
    grantFreed (c.unlocked i, some i) = c.unlockedTo i e rest := by
  have hfree : ((c.unlocked i).slot i).free = true := by simpa [Slot.free] using hb
  have hmiss : (((c.unlocked i).setWaitList rest).slot i).grantKind e.line = .miss :=
    Slot.Misses.grantKind ⟨by simpa using hb, fun h => hm (by simpa using h.2)⟩
  simp only [grantFreed, Chip.unlocked_waitList, hw, List.length_cons, settleFreed, hfree, if_true,
    takeGrant_bindSlot_of_miss hmiss]
  rw [bindSlot_of_miss hmiss]
  rfl

/-! ### FREE_LOCKS (04 R69) -/

theorem foldl_grantFreed_of_nil (h : c.sst.waitList = []) (l : List SlotNo) :
    l.foldl (fun d j => grantFreed (d, some j)) c = c := by
  induction l with
  | nil => rfl
  | cons j l ih => rw [List.foldl_cons, grantFreed_of_nil (r := (c, some j)) h, ih]

theorem orderFreeLocks_of_nil (h : c.sst.waitList = []) : (orderFreeLocks c).1 = c.mapSlots Slot.unlocked :=
  foldl_grantFreed_of_nil (c := c.mapSlots Slot.unlocked) h _

end

/-! ### The orders taken -/

section
variable {c : Chip} {x : LineNo}

theorem takeOrder_lockSlot (he : x.val < c.shc.hdr.equipped) :
    takeOrder ⟨10, word x.val, 0, 0, 0, 0⟩ c =
      withResult (orderLockSlot x (copyOrder ⟨10, word x.val, 0, 0, 0, 0⟩ c)) := by
  rw [takeOrder_of_names (k := .lockSlot) rfl (by simp [argsInRange, lineInRange_word]) (by simp [orderLine])
    (lineOf_word x) he]
  simp [takenUnequipped, handOver]

theorem takeOrder_unlockSlot (he : x.val < c.shc.hdr.equipped) :
    takeOrder ⟨11, word x.val, 0, 0, 0, 0⟩ c =
      withResult (orderUnlockSlot x (copyOrder ⟨11, word x.val, 0, 0, 0, 0⟩ c)) := by
  rw [takeOrder_of_names (k := .unlockSlot) rfl (by simp [argsInRange, lineInRange_word]) (by simp [orderLine])
    (lineOf_word x) he]
  simp [takenUnequipped, handOver]

theorem takeOrder_freeLocks (c : Chip) :
    takeOrder ⟨12, 0, 0, 0, 0, 0⟩ c = setResult .ok (orderFreeLocks (copyOrder ⟨12, 0, 0, 0, 0, 0⟩ c)).1 := rfl

end

section
variable {s : State} {i : Instr} {o : OrderCopy} {r : Result} {d : Chip}

/-- An order answered at once, of which the block changed the slots and nothing else. -/
theorem answers_slots (h : Ready s) (ho : orderOf i = some o) (ht : takeOrder o s.chip = setResult r d)
    (hd : d = { copyOrder o s.chip with sst := d.sst }) :
    ∃ t, exec i s = .next t ∧ Answered o r s t ∧ t.chip.sst = d.sst ∧ OnlyChanges [.slots, .orders] s t := by
  refine ⟨_, (exec_of_ready h ho).trans (finish_eq _ _), ?_, by rw [ht]; simp [setResult], ?_⟩
  · rw [ht, hd]
    simp [Answered, setResult, copyOrder]
  · rw [ht, hd]
    exact OnlyChanges.of_chip (m := s.ram) (fun _ => rfl) (fun _ => rfl) (by simp) (fun _ => rfl) (fun _ => rfl) (fun _ => rfl)
      (by simp) (fun _ => rfl) (fun _ => rfl) (fun _ => rfl) (fun _ => rfl)

/-- A slot emptied and locked to a line (04 R67). -/
def Slot.lockedTo (k : Slot) (x : LineNo) : Slot := { k.emptied with lock := some x }

theorem setLock_emptied (i : SlotNo) (x : LineNo) (c : Chip) :
    setLock i (some x) (c.modSlot i Slot.emptied) = c.modSlot i fun k => k.lockedTo x := by
  simp [setLock, Chip.modSlot, Slot.lockedTo]

/-- The slots of a machine whose store is that of a chip are the chip's. -/
theorem Chip.slot_of_sst {a b : Chip} (h : a.sst = b.sst) (j : SlotNo) : a.slot j = b.slot j := by
  rw [Chip.slot, h]
  rfl

/-- An order answered at once that changed one slot and moved it to the MRU end. -/
theorem answers_modSlot {k : SlotNo} {f : Slot → Slot} (h : Ready s) (ho : orderOf i = some o)
    (ht : takeOrder o s.chip = setResult r (toMru k ((copyOrder o s.chip).modSlot k f))) :
    ∃ t, exec i s = .next t ∧ Answered o r s t ∧ t.chip.slot k = f (s.chip.slot k) ∧ OtherSlotsKept k s t ∧
      t.chip.sst.lru = s.chip.sst.lru.filter (· ≠ k) ++ [k] ∧ OnlyChanges [.slots, .orders] s t := by
  obtain ⟨t, hexec, hans, hsst, honly⟩ := answers_slots h ho ht rfl
  refine ⟨t, hexec, hans, ?_, fun j hj => ?_, ?_, honly⟩
  · rw [Chip.slot_of_sst hsst, toMru_eq, Chip.setLru_slot, Chip.slot_modSlot_self]
    rfl
  · rw [Chip.slot_of_sst hsst, toMru_eq, Chip.setLru_slot, Chip.slot_modSlot_ne _ _ hj]
    rfl
  · rw [hsst]
    rfl

/-! ### Each order on the machine -/

variable {x : LineNo} {k : SlotNo}

/-- LOCK_SLOT that finds a copy of the line's record locks the slot as it stands (04 R67). -/
theorem lockSlot_locks_copy (hr : Ready s) (he : x.val < s.chip.shc.hdr.equipped) (h : ∀ j, (s.chip.slot j).lock ≠ some x)
    (hn : s.chip.lockedCount < 12) (hk : s.chip.ownCopy x = some k) :
    ∃ t, exec (.lockSlot (word x.val)) s = .next t ∧ Answered ⟨10, word x.val, 0, 0, 0, 0⟩ .ok s t ∧
      t.chip.slot k = { s.chip.slot k with lock := some x } ∧ OtherSlotsKept k s t ∧
      t.chip.sst.lru = s.chip.sst.lru.filter (· ≠ k) ++ [k] ∧ OnlyChanges [.slots, .orders] s t := by
  refine answers_modSlot (f := fun q => { q with lock := some x }) hr rfl ?_
  rw [takeOrder_lockSlot he, orderLockSlot_of_copy (c := copyOrder _ s.chip) h hn hk]
  rfl

/-- LOCK_SLOT that finds no copy empties the free slot nearest the LRU end and locks it (04 R67). -/
theorem lockSlot_locks_free (hr : Ready s) (he : x.val < s.chip.shc.hdr.equipped) (h : ∀ j, (s.chip.slot j).lock ≠ some x)
    (hn : s.chip.lockedCount < 12) (hc : s.chip.ownCopy x = none)
    (hf : s.chip.sst.lru.find? (fun j => (s.chip.slot j).free) = some k) :
    ∃ t, exec (.lockSlot (word x.val)) s = .next t ∧ Answered ⟨10, word x.val, 0, 0, 0, 0⟩ .ok s t ∧
      t.chip.slot k = (s.chip.slot k).lockedTo x ∧ OtherSlotsKept k s t ∧
      t.chip.sst.lru = s.chip.sst.lru.filter (· ≠ k) ++ [k] ∧ OnlyChanges [.slots, .orders] s t := by
  refine answers_modSlot (f := fun q => q.lockedTo x) hr rfl ?_
  rw [takeOrder_lockSlot he, orderLockSlot_of_free (c := copyOrder _ s.chip) h hn hc hf, setLock_emptied]
  rfl

/-- UNLOCK_SLOT of a slot that nobody is granted (04 R68). -/
theorem unlockSlot_unlocks (hr : Ready s) (he : x.val < s.chip.shc.hdr.equipped) (hk : s.chip.lockedTo x = some k)
    (hw : s.chip.sst.waitList = [] ∨ (s.chip.slot k).status = .bound) :
    ∃ t, exec (.unlockSlot (word x.val)) s = .next t ∧ Answered ⟨11, word x.val, 0, 0, 0, 0⟩ .ok s t ∧
      t.chip.slot k = { s.chip.slot k with lock := none } ∧ OtherSlotsKept k s t ∧
      t.chip.sst.lru = s.chip.sst.lru.filter (· ≠ k) ++ [k] ∧ OnlyChanges [.slots, .orders] s t := by
  refine answers_modSlot (f := fun q => { q with lock := none }) hr rfl ?_
  generalize ho : (⟨11, word x.val, 0, 0, 0, 0⟩ : OrderCopy) = o
  have hgrant : grantFreed ((copyOrder o s.chip).unlocked k, some k) = (copyOrder o s.chip).unlocked k :=
    grantFreed_of_not_granted (hw.imp id fun hb => by
      have hb' : ((copyOrder o s.chip).slot k).status = .bound := hb
      simp [Slot.free, hb'])
  rw [← ho, takeOrder_unlockSlot he, ho, orderUnlockSlot_of_locked (c := copyOrder o s.chip) hk, hgrant]
  rfl

/-- UNLOCK_SLOT of a slot that the head of the Slot Wait List is granted as a miss (04 R64, R68). -/
theorem unlockSlot_grants (hr : Ready s) (he : x.val < s.chip.shc.hdr.equipped) (hk : s.chip.lockedTo x = some k)
    {e : SlotWait} {rest : List SlotWait} (hw : s.chip.sst.waitList = e :: rest) (hb : (s.chip.slot k).status ≠ .bound)
    (hm : (s.chip.slot k).recLine ≠ some e.line) :
    ∃ t, exec (.unlockSlot (word x.val)) s = .next t ∧ Answered ⟨11, word x.val, 0, 0, 0, 0⟩ .ok s t ∧
      t.chip.slot k = ({ s.chip.slot k with lock := none } : Slot).bind e.line .miss ∧
      (t.chip.line e.line).slot = some k ∧ t.chip.sst.waitList = rest ∧ OtherSlotsKept k s t ∧ OthersKept e.line s t ∧
      OnlyChanges [.lines, .slots, .scheduler, .orders, .port] s t := by
  have htake : takeOrder ⟨11, word x.val, 0, 0, 0, 0⟩ s.chip =
      setResult .ok ((copyOrder ⟨11, word x.val, 0, 0, 0, 0⟩ s.chip).unlockedTo k e rest) := by
    rw [takeOrder_unlockSlot he, orderUnlockSlot_of_locked (c := copyOrder _ s.chip) hk,
      grantFreed_unlocked (c := copyOrder _ s.chip) hw hb hm]
    rfl
  refine ⟨_, (exec_of_ready hr rfl).trans (finish_eq _ _), ?_⟩
  rw [htake]
  generalize (⟨11, word x.val, 0, 0, 0, 0⟩ : OrderCopy) = o
  generalize hd : (copyOrder o s.chip).unlockedTo k e rest = d
  refine ⟨?_, ?_, ?_, ?_, fun j hj => ?_, fun y hy => ?_, ?_⟩
  all_goals subst hd
  · simp [Answered, setResult, copyOrder]
  · exact (settle_slot _ _ _).trans (Chip.unlockedTo_slot _ _ _ _)
  · rw [settle_line]
    exact congrArg Line.slot (Chip.unlockedTo_line _ _ _ _)
  · rw [settle_sst]
    exact Chip.unlockedTo_waitList _ _ _ _
  · exact (settle_slot _ _ _).trans (Chip.unlockedTo_slot_ne _ _ _ _ hj)
  · exact (settle_line _ _ _).trans (Chip.unlockedTo_line_ne _ _ _ _ hy)
  · exact OnlyChanges.of_chip (m := s.ram) (by simp) (fun _ => rfl) (by simp) (fun _ => rfl) (by simp) (fun _ => rfl)
      (by simp) (fun _ => rfl) (by simp) (fun _ => rfl) (fun _ => rfl)

/-- FREE_LOCKS unlocks every slot; where nobody waits nothing else is done (04 R69). -/
theorem freeLocks_unlocks (hr : Ready s) :
    ∃ t, exec .freeLocks s = .next t ∧ Answered ⟨12, 0, 0, 0, 0, 0⟩ .ok s t ∧ (∀ j, (t.chip.slot j).lock = none) ∧
      (s.chip.sst.waitList = [] → (∀ j, t.chip.slot j = { s.chip.slot j with lock := none }) ∧
        t.chip.sst.lru = s.chip.sst.lru ∧ OnlyChanges [.slots, .orders] s t) := by
  have hquiet := orderFreeLocks_quiet (copyOrder ⟨12, 0, 0, 0, 0, 0⟩ s.chip)
  refine ⟨_, (exec_of_ready hr rfl).trans (finish_eq _ _), ?_, fun j => ?_, fun hw => ?_⟩
  all_goals rw [takeOrder_freeLocks]
  · rw [Answered, settle_ord]
    exact congrArg (fun o : Ord => { o with result := some .ok }) hquiet.ord
  · rw [settle_slot]
    exact (hquiet.locks j).trans (by simp [Slot.unlocked])
  · have hnil := orderFreeLocks_of_nil (c := copyOrder ⟨12, 0, 0, 0, 0, 0⟩ s.chip) hw
    refine ⟨fun j => ?_, ?_, ?_⟩
    all_goals rw [hnil]
    · rw [settle_slot]
      exact Chip.mapSlots_slot _ _ j
    · rw [settle_sst]
      rfl
    · exact OnlyChanges.of_chip (m := s.ram) (fun _ => rfl) (fun _ => rfl) (by simp) (fun _ => rfl) (fun _ => rfl) (fun _ => rfl)
        (by simp) (fun _ => rfl) (fun _ => rfl) (fun _ => rfl) (fun _ => rfl)

end

end Sys2Proof.Machine
section
open Sys2Proof Sys2Proof.Machine

/-- Settles O43: each order by the first of its cases that applies. -/
theorem lockOrdersSetAndClearLocks : Obligations.LockOrdersSetAndClearLocks := by
  unfold Obligations.LockOrdersSetAndClearLocks
  intro s x hr he lockO lock unlockO unlock own free
  refine ⟨?_, fun hno hfull => ?_, fun hno hn => ⟨fun i hi hone => ?_, fun hnone => ⟨fun i hi => ?_, fun hfind => ?_⟩⟩,
    fun hno => ?_, fun i hi hone => ⟨fun hw => ?_, fun e rest hw hb hm => ?_⟩, freeLocks_unlocks hr⟩
  · rintro ⟨i, hi⟩
    refine answersOnly_of_takeOrder hr rfl ?_
    rw [takeOrder_lockSlot he, orderLockSlot_of_locked (c := copyOrder _ s.chip) hi]
    rfl
  · refine answersOnly_of_takeOrder hr rfl ?_
    rw [takeOrder_lockSlot he, orderLockSlot_of_full (c := copyOrder _ s.chip) hno hfull]
    rfl
  · exact lockSlot_locks_copy hr he hno hn (ownCopy_eq_some hi hone)
  · have hfind : s.chip.sst.lru.find? (fun j => (s.chip.slot j).free) = some i := by
      simpa [free, Slot.free] using hi
    obtain ⟨t, ht, hans, hslot, hrest⟩ := lockSlot_locks_free hr he hno hn (ownCopy_eq_none hnone) hfind
    exact ⟨t, ht, hans, by rw [hslot]; rfl, by rw [hslot]; rfl, by rw [hslot]; rfl, hrest⟩
  · have hfind' : s.chip.sst.lru.find? (fun j => (s.chip.slot j).free) = none := by
      simpa [free, Slot.free] using hfind
    refine answersOnly_of_takeOrder hr rfl ?_
    rw [takeOrder_lockSlot he,
      orderLockSlot_of_none (c := copyOrder _ s.chip) hno hn (ownCopy_eq_none (c := s.chip) hnone) hfind']
    rfl
  · refine answersOnly_of_takeOrder hr rfl ?_
    have hnone : (copyOrder unlockO s.chip).lockedTo x = none := lockedTo_eq_none (c := s.chip) hno
    rw [takeOrder_unlockSlot he, orderUnlockSlot, hnone]
    rfl
  · exact unlockSlot_unlocks hr he (lockedTo_eq_some hi hone) hw
  · obtain ⟨t, ht, hans, hslot, hrest⟩ := unlockSlot_grants hr he (lockedTo_eq_some hi hone) hw hb hm
    exact ⟨t, ht, hans, by rw [hslot]; rfl, by rw [hslot]; rfl, by rw [hslot]; rfl, hrest⟩

end
end

section
/-! SUPPORT. INVALIDATE taken, for one line and for all lines (04 R70, R71, 10 R150). -/

namespace Sys2Proof.Machine

/-! ### The slots that it concerns -/

section
variable {p : LineNo → Bool} {xs : List LineNo} {c : Chip}

/-- A slot concerns the lines of a list where it holds the record of one of them or is locked to one. -/
theorem Slot.concerns_eq_any (hp : ∀ y, p y = true ↔ y ∈ xs) (k : Slot) :
    k.concerns p = xs.any fun y => k.recLine == some y || k.lock == some y := by
  have hany (o : Option LineNo) : o.any p = true ↔ ∃ y ∈ xs, o = some y := by
    cases o with
    | none => simp
    | some z => simp [hp]
  rw [Bool.eq_iff_iff, Slot.concerns, Bool.or_eq_true, hany, hany, List.any_eq_true]
  simp only [Bool.or_eq_true, beq_iff_eq, and_or_left, exists_or]

@[simp] theorem invalidateSlots_slot (k : SlotNo) :
    (invalidateSlots p c).slot k = if (c.slot k).concerns p then (c.slot k).invalidated else c.slot k :=
  mapEach_get (fun q : Slot => if q.concerns p then q.invalidated else q) c.sst.slots k

theorem Slot.invalidated_of_empty {k : Slot} (h : k.status = .empty) : k.invalidated = k := by
  simp only [Slot.invalidated, h]

theorem Slot.invalidated_of_warm {k : Slot} (h : k.status = .warm) : k.invalidated = k.emptied := by
  simp only [Slot.invalidated, h]

theorem Slot.invalidated_of_bound {k : Slot} (h : k.status = .bound) : k.invalidated = { k with refetch := true } := by
  simp only [Slot.invalidated, h]

/-! ### The order taken -/

theorem takeOrder_invalidate {x : LineNo} (he : x.val < c.shc.hdr.equipped) :
    takeOrder ⟨13, word x.val, 0, 0, 0, 0⟩ c =
      awaitCoreReads [x] (invalidateSlots (· == x) (copyOrder ⟨13, word x.val, 0, 0, 0, 0⟩ c)) := by
  have hx : x.val ≠ 255 := by omega
  rw [takeOrder_of_names (k := .invalidate) rfl (by simp [argsInRange, lineInRange_word])
    (by simp [orderLine, allLinesArg, hx]) (lineOf_word x) he]
  simp [takenUnequipped, handOver, allLinesArg, hx, orderInvalidate]

theorem takeOrder_invalidateAll (c : Chip) :
    takeOrder ⟨13, 255, 0, 0, 0, 0⟩ c =
      awaitCoreReads c.linesBelow
        (invalidateSlots (fun y => decide (y.val < c.shc.hdr.equipped)) (copyOrder ⟨13, 255, 0, 0, 0, 0⟩ c)) := rfl

end

section
variable {s : State} {i : Instr} {o : OrderCopy} {p : LineNo → Bool} {xs : List LineNo}

/-- INVALIDATE of the lines `xs`, which `p` names. -/
theorem invalidate_next (hr : Ready s) (ho : orderOf i = some o) (hp : ∀ y, p y = true ↔ y ∈ xs)
    (ht : takeOrder o s.chip = awaitCoreReads xs (invalidateSlots p (copyOrder o s.chip))) :
    let hit := fun k : SlotNo => xs.any fun y => (s.chip.slot k).recLine == some y || (s.chip.slot k).lock == some y
    let gone := fun k : SlotNo => hit k && (s.chip.slot k).status == .warm
    ∃ t, exec i s = .next t ∧
      t.chip.ord = { s.chip.ord with read := [], copy := some o, work := some .invalidate, result := none } ∧
      (∀ k : SlotNo, t.chip.slot k = if hit k = true then (s.chip.slot k).invalidated else s.chip.slot k) ∧
      t.chip.sst.lru = s.chip.sst.lru.filter gone ++ s.chip.sst.lru.filter (fun k => !gone k) ∧
      t.chip.sst.waitList = s.chip.sst.waitList ∧ t.chip.mpt.coreReads = xs ∧
      t.chip.mpt.reqs = s.chip.mpt.reqs ++ [.core] ∧ t.chip.mpt.last = s.chip.mpt.last ∧
      OnlyChanges [.slots, .orders, .port] s t := by
  intro hit gone
  have hconcerns : ∀ k, (s.chip.slot k).concerns p = hit k := fun k => Slot.concerns_eq_any hp _
  have hgone : (fun k => (s.chip.slot k).concerns p && (s.chip.slot k).status == .warm) = gone :=
    funext fun k => by rw [hconcerns]
  refine ⟨_, (exec_of_ready hr ho).trans (finish_eq _ _), ?_⟩
  rw [ht]
  refine ⟨by rw [settle_ord]; rfl, fun k => ?_, ?_, by rw [settle_sst]; rfl, by rw [settle_mpt_coreReads]; rfl,
    by rw [settle_mpt_reqs]; rfl, by rw [settle_mpt_last]; rfl, ?_⟩
  · rw [settle_slot, ← hconcerns]
    exact invalidateSlots_slot (c := copyOrder o s.chip) k
  · rw [settle_sst, ← hgone]
    rfl
  · exact OnlyChanges.of_chip (m := s.ram) (fun _ => rfl) (fun _ => rfl) (by simp) (fun _ => rfl) (fun _ => rfl) (fun _ => rfl)
      (by simp) (fun _ => rfl) (by simp) (fun _ => rfl) (fun _ => rfl)

end

end Sys2Proof.Machine

section
open Sys2Proof Sys2Proof.Machine

/-- Settles O44: one line and all lines are the same order with another list of lines. -/
theorem invalidateDropsRecordCopies : Obligations.InvalidateDropsRecordCopies := by
  unfold Obligations.InvalidateDropsRecordCopies
  intro s i o xs hr hcase hit gone
  obtain ⟨p, hp, ho, htake⟩ : ∃ p : LineNo → Bool, (∀ y, p y = true ↔ y ∈ xs) ∧ orderOf i = some o ∧
      takeOrder o s.chip = awaitCoreReads xs (invalidateSlots p (copyOrder o s.chip)) := by
    rcases hcase with ⟨x, he, rfl, rfl, rfl⟩ | ⟨rfl, rfl, rfl⟩
    · exact ⟨_, by simp, rfl, takeOrder_invalidate he⟩
    · exact ⟨_, by simp, rfl, takeOrder_invalidateAll s.chip⟩
  obtain ⟨t, ht, hord, hslot, hrest⟩ := invalidate_next hr ho hp htake
  refine ⟨t, ht, hord, fun k => ⟨fun hk => ?_, fun hk hb => ?_, fun hk => ?_⟩, hrest⟩
  · obtain ⟨hhit, hwarm⟩ : hit k = true ∧ (s.chip.slot k).status = .warm := by simpa [gone] using hk
    rw [hslot k, if_pos hhit, Slot.invalidated_of_warm hwarm]
    exact ⟨rfl, rfl, rfl⟩
  · rw [hslot, if_pos hk, Slot.invalidated_of_bound hb]
  · rw [hslot]
    rcases hk with hk | hk
    · have hmiss : ¬hit k = true := by simp only [hk, Bool.false_eq_true, not_false_eq_true]
      exact if_neg hmiss
    · rw [Slot.invalidated_of_empty hk, ite_self]

end
end

section
/-! SUPPORT. One of the first seven words of a record fetch (04 R60, 10 R160). -/

namespace Sys2Proof.Machine

/-- A word of the fetch of line x's record into slot i is being served, and it is word number `n` (04 R60). -/
structure State.FetchWord (s : State) (i : SlotNo) (x : LineNo) (n : Fin 8) : Prop where
  recLine : (s.chip.slot i).recLine = some x
  serves : s.chip.serves (.fetch i) = true
  status : (s.chip.slot i).status = .bound
  phase : (s.chip.slot i).phase = .fetching
  words : (s.chip.slot i).words = n.val
  addr : s.chip.recordAddr x + 8 ≤ Config.ramWords

/-- The chip with word number `n` of the record of line x in the copy of slot i, and the next word requested. -/
def State.wordFetched (s : State) (i : SlotNo) (x : LineNo) (n : Fin 8) : Chip :=
  addRequest (.fetch i) (readFetchWord i x n s.ram (release s.chip))

section
variable {s : State} {i : SlotNo} {x : LineNo} {n : Fin 8}

theorem State.FetchWord.exec_eq (h : s.FetchWord i x n) (hn : n.val < 7) :
    exec (.fetchWordRead i) s = finish s (s.wordFetched i x n) := by
  have hk : (⟨(s.chip.slot i).words, by have := h.words; omega⟩ : Fin 8) = n := Fin.ext h.words
  have hlt : (s.chip.slot i).words < 7 := h.words ▸ hn
  simp [exec, execFetchWordRead, h.recLine, hlt, h.serves, Slot.fetching, h.status, h.phase, inRam_of_le h.addr, hk,
    State.wordFetched]

variable (s i x n)

@[simp] theorem State.wordFetched_slot :
    (s.wordFetched i x n).slot i = (s.chip.slot i).putWord n (readWord s.ram (s.chip.recordAddr x + n.val)) := by
  simp [State.wordFetched, readFetchWord, release]
  rfl

theorem State.wordFetched_slot_ne {j : SlotNo} (h : j ≠ i) : (s.wordFetched i x n).slot j = s.chip.slot j := by
  simp [State.wordFetched, readFetchWord, release, Chip.slot_modSlot_ne _ _ h]

theorem State.wordFetched_reqs :
    (s.wordFetched i x n).mpt.reqs = s.chip.mpt.reqs.filter (· ≠ .fetch i) ++ [.fetch i] := rfl

end

end Sys2Proof.Machine

section
open Sys2Proof Sys2Proof.Machine

/-- Settles O27: the word enters the copy, and its request goes behind the others. -/
theorem fetchReadsWordByWord : Obligations.FetchReadsWordByWord := by
  unfold Obligations.FetchReadsWordByWord
  intro s i x hrec hserves hstatus hphase haddr hwords
  have hfetch : s.FetchWord i x ⟨(s.chip.slot i).words, by omega⟩ := ⟨hrec, hserves, hstatus, hphase, rfl, haddr⟩
  refine ⟨_, (hfetch.exec_eq hwords).trans (finish_eq _ _), ?_, fun j hj => ?_, ?_, ?_, ?_, ?_, ?_, ?_⟩
  · rw [settle_slot, State.wordFetched_slot]
    rfl
  · rw [settle_slot, State.wordFetched_slot_ne _ _ _ _ hj]
  · rw [settle_sst]
    rfl
  · rw [settle_sst]
    rfl
  · rw [settle_mpt_reqs, State.wordFetched_reqs]
  · rw [settle_mpt_coreReads]
    rfl
  · rw [settle_mpt_last]
    rfl
  · exact OnlyChanges.of_chip (m := s.ram) (fun _ => rfl) (fun _ => rfl) (by simp) (fun _ => rfl) (fun _ => rfl) (fun _ => rfl)
      (fun _ => rfl) (fun _ => rfl) (by simp) (fun _ => rfl) (fun _ => rfl)

end
end

section
/-! SUPPORT. The Slot Store after the resets, STOP and the beginning of a start procedure (04 R72, 11 R167, R169, R172). -/

namespace Sys2Proof.Machine

variable {c d : Chip} {s : State}

/-! ### The fetches -/

/-- No fetch is requested. -/
def Chip.NoFetch (c : Chip) : Prop := ∀ i : SlotNo, Access.fetch i ∉ c.mpt.reqs

/-- A fetch that is wanted is a request made (10 R160). -/
theorem mem_reqs_of_readWants {i : SlotNo} (h : c.readWants = some (.fetch i)) : Access.fetch i ∈ c.mpt.reqs := by
  unfold Chip.readWants at h
  split at h
  · exact List.mem_of_mem_head? h
  · cases h
  · cases h
  · cases h
  · split at h <;> cases h
  · cases h

/-- The arbiter takes no fetch that is not requested. -/
theorem Chip.NoFetch.nextAccess (h : c.NoFetch) (i : SlotNo) : c.nextAccess ≠ some (.fetch i) := by
  intro e
  unfold Chip.nextAccess at e
  split at e
  · cases e
  · split at e
    · next a ha =>
      cases e
      exact h i (mem_reqs_of_readWants ha)
    · split at e
      · cases e
      · split at e <;> cases e

/-- Where no fetch is requested none is in progress after a command (10 R160). -/
theorem Chip.NoFetch.busy (h : c.NoFetch) (i : SlotNo) : (settle d c).mpt.busy ≠ some (.fetch i) := by
  rw [settle_busy]
  split
  · next a _ =>
    split
    · next hw =>
      intro e
      cases e
      exact h i (mem_reqs_of_readWants (by simpa [Chip.wants] using hw))
    · exact h.nextAccess i
  · exact h.nextAccess i

/-! ### The store -/

/-- The counts of Status look at the slots alone (10 Table 10-13). -/
theorem readStatus_counts (hsst : d.sst = c.sst) :
    { d with shc := { d.shc with sel := true } }.readStatus = { c with shc := { c.shc with sel := true } }.readStatus := by
  simp only [Chip.readStatus, if_true, Chip.lockedCount, Chip.boundCount, Chip.slot, hsst]

/-- A command that leaves the Slot Store as one at reset has it, no line with a slot and no fetch requested, leaves it at reset. -/
theorem slotsAtReset_of_sst {u : State} (hu : SlotsAtReset u) (hsst : c.sst = u.chip.sst) (hl : ∀ x, (c.line x).slot = none)
    (hr : c.NoFetch) : SlotsAtReset { s with chip := settle s.chip c } := by
  obtain ⟨hslots, hlru, hwait, -, -, hstatus⟩ := hu
  refine ⟨fun i => ?_, ?_, ?_, fun i => ⟨?_, hr.busy i⟩, fun x => ?_, ?_⟩
  · rw [settle_slot, Chip.slot_of_sst hsst]
    exact hslots i
  · rw [settle_sst, hsst]
    exact hlru
  · rw [settle_sst, hsst]
    exact hwait
  · rw [settle_mpt_reqs]
    exact hr i
  · rw [settle_line]
    exact hl x
  · exact (readStatus_counts ((settle_sst _ _).trans hsst)).trans hstatus

/-! ### The resets and STOP (11 R169, R172) -/

theorem reset_slotsAtReset : SlotsAtReset State.reset := by
  unfold SlotsAtReset
  decide

/-- The chip has the Slot Store of a reset, no line with a slot and nothing requested of the Memory Port. -/
structure Chip.SlotsReset (c : Chip) : Prop where
  sst : c.sst = Sst.reset
  lines : ∀ x, (c.line x).slot = none
  reqs : c.mpt.reqs = []

theorem Chip.SlotsReset.slotsAtReset (h : c.SlotsReset) : SlotsAtReset { s with chip := settle s.chip c } :=
  slotsAtReset_of_sst reset_slotsAtReset h.sst h.lines fun i => by simp [h.reqs]

theorem powerOn_slotsReset (c : Chip) : (powerOn c).SlotsReset :=
  ⟨rfl, fun x => by rw [show (powerOn c).line x = State.reset.chip.line x from rfl, reset_line]; rfl, rfl⟩

theorem resetInput_slotsReset (c : Chip) : (resetInput c).SlotsReset :=
  ⟨rfl, (powerOn_slotsReset c).lines, rfl⟩

theorem stopAll_slotsReset (c : Chip) : (stopAll c).SlotsReset :=
  ⟨rfl, fun x => by simp [stopAll, Chip.line, Line.reset], rfl⟩

theorem startProcedure_slotsReset (h : c.SlotsReset) : (startProcedure c).SlotsReset := ⟨h.sst, h.lines, h.reqs⟩

theorem stopCommand_eq (h : c.shc.run ≠ .halted) : stopCommand c = stopAll c := by
  unfold stopCommand
  split <;> simp_all

theorem coldRestartCommand_eq (h : c.shc.run ≠ .halted) (hf : c.shc.run ≠ .failed) :
    coldRestartCommand c = startProcedure (stopAll c) := by
  unfold coldRestartCommand
  split <;> simp_all

theorem coldRestartCommand_of_halted (h : c.shc.run = .halted) : coldRestartCommand c = startCommand c := by
  simp only [coldRestartCommand, startCommand, h]

/-! ### The beginning of a start procedure (11 R167) -/

/-- START leaves slots, lines and requests as they are, whether it is taken or ignored (11 R167). -/
theorem startCommand_parts (c : Chip) :
    startCommand c = { c with jwr := (startCommand c).jwr, shc := (startCommand c).shc } := by
  unfold startCommand
  split <;> rfl

/-- A command that is START after the registers are written takes the Slot Store as it finds it. -/
theorem startCommand_keeps (sel : Bool) (mask : BitVec 5) (s : State) :
    let t : State := { s with chip := settle s.chip (startCommand (storeControl sel mask s.chip)) }
    t.chip.sst = s.chip.sst ∧ (∀ x, (t.chip.line x).slot = (s.chip.line x).slot) ∧ (SlotsAtReset s → SlotsAtReset t) := by
  have hparts := startCommand_parts (storeControl sel mask s.chip)
  have hline (x : LineNo) : (startCommand (storeControl sel mask s.chip)).line x = s.chip.line x := by
    rw [hparts]
    rfl
  refine ⟨?_, fun x => ?_, fun h => ?_⟩
  · rw [settle_sst, startCommand_sst]
    rfl
  · rw [settle_line, hline]
  · obtain ⟨-, -, -, hfetches, hlines, -⟩ := id h
    refine slotsAtReset_of_sst h (startCommand_sst _) (fun x => ?_) fun i => ?_
    · rw [hline]
      exact hlines x
    · rw [hparts]
      exact (hfetches i).1

end Sys2Proof.Machine

section
open Sys2Proof Sys2Proof.Machine

/-- Settles O60: the resets and STOP replace the store, and START does not touch it. -/
theorem resetsAndStopEmptyTheSlotStore : Obligations.ResetsAndStopEmptyTheSlotStore := by
  unfold Obligations.ResetsAndStopEmptyTheSlotStore
  refine fun s sel mask => ⟨fun i hi => ?_, fun i hi => ?_⟩
  · rcases hi with rfl | rfl | ⟨rfl, hrun⟩ | ⟨rfl, hrun, hfailed⟩
    · exact ⟨_, finish_eq _ _, (powerOn_slotsReset s.chip).slotsAtReset⟩
    · exact ⟨_, finish_eq _ _, (resetInput_slotsReset s.chip).slotsAtReset⟩
    · refine ⟨_, finish_eq _ _, ?_⟩
      rw [stopCommand_eq (c := storeControl sel mask s.chip) hrun]
      exact (stopAll_slotsReset _).slotsAtReset
    · refine ⟨_, finish_eq _ _, ?_⟩
      rw [coldRestartCommand_eq (c := storeControl sel mask s.chip) hrun hfailed]
      exact (startProcedure_slotsReset (stopAll_slotsReset _)).slotsAtReset
  · rcases hi with rfl | ⟨rfl, hrun⟩
    · exact ⟨_, finish_eq _ _, startCommand_keeps sel mask s⟩
    · refine ⟨_, finish_eq _ _, ?_⟩
      rw [coldRestartCommand_of_halted (c := storeControl sel mask s.chip) hrun]
      exact startCommand_keeps sel mask s

end
end

section
/-! SUPPORT. The plans as they are read at start (05 R75, R77): the words of one plan, and the faults of the malformed ones. -/

namespace Sys2Proof.Machine

/-! ### The words of a plan (05 R75) -/

/-- The segments that the words of a plan give, the first word being their count. -/
def planSegs (w : Nat → Nat) : Plan := (List.range (w 0)).map fun j => w (1 + j)

/-- The words of a plan are well formed for the cycle length n. -/
def planGood (n : Nat) (w : Nat → Nat) : Bool :=
  (w 0 == 2 || w 0 == 4 || w 0 == 6 || w 0 == 8) && (planSegs w).all (fun d => 1 ≤ d && d ≤ 60) && (planSegs w).sum == n

/-- What the words of a plan give (05 R75). -/
def planRead (n : Nat) (w : Nat → Nat) : PlanRead :=
  if w 0 = 0 then .absent else if planGood n w then .good (planSegs w) else .malformed

theorem parsePlan_eq (n : Nat) (ws : List Word) : parsePlan n ws = planRead n fun j => (ws.getD j 0).toNat := rfl

section
variable {v w : Nat → Nat} {n : Nat}

/-- The counts that a well-formed plan may have. -/
theorem planGood_count (h : planGood n w = true) : w 0 ≤ 8 ∧ w 0 ≠ 0 := by
  simp only [planGood, Bool.and_eq_true, Bool.or_eq_true, beq_iff_eq] at h
  omega

theorem planSegs_congr (hle : w 0 ≤ 8) (h : ∀ j < 10, v j = w j) : planSegs v = planSegs w := by
  rw [planSegs, planSegs, h 0 (by omega)]
  refine List.map_congr_left fun j hj => h _ ?_
  have := List.mem_range.1 hj
  omega

/-- Only the first ten words of a plan are looked at. -/
theorem planGood_congr (h : ∀ j < 10, v j = w j) : planGood n v = planGood n w := by
  by_cases hle : w 0 ≤ 8
  · rw [planGood, planGood, planSegs_congr hle h, h 0 (by omega)]
  · have hv : planGood n v ≠ true := fun e => hle (h 0 (by omega) ▸ (planGood_count e).1)
    have hw : planGood n w ≠ true := fun e => hle (planGood_count e).1
    rw [Bool.eq_false_iff.2 hv, Bool.eq_false_iff.2 hw]

theorem planRead_congr (h : ∀ j < 10, v j = w j) : planRead n v = planRead n w := by
  rw [planRead, planRead, h 0 (by omega), planGood_congr h]
  by_cases hg : planGood n w = true
  · rw [planSegs_congr (planGood_count hg).1 h]
  · simp only [hg, Bool.false_eq_true, if_false]

/-- The copy that the words of a plan leave. -/
theorem planRead_copy (n : Nat) (w : Nat → Nat) :
    (planRead n w).copy = if w 0 ≠ 0 ∧ planGood n w = true then some (planSegs w) else none := by
  unfold planRead
  split_ifs <;> simp_all [PlanRead.copy]

theorem planRead_malformed (n : Nat) (w : Nat → Nat) : (planRead n w == .malformed) = (w 0 != 0 && !planGood n w) := by
  unfold planRead
  split_ifs <;> simp_all

end

/-- The word number j of the plan p in the words of the plan area. -/
def planWord (ws : List Word) (p : PlanNo) (j : Nat) : Nat := (ws.getD (10 * p.val + j) 0).toNat

theorem planOf_eq (n : Nat) (ws : List Word) (p : PlanNo) : planOf n ws p = planRead n (planWord ws p) := by
  refine (parsePlan_eq n _).trans (planRead_congr fun j hj => ?_)
  simp [planWord, List.getD_eq_getElem?_getD, List.getElem?_drop, hj]

/-- The plans read as malformed. -/
theorem badPlans_planOf (n : Nat) (ws : List Word) :
    badPlans 8 (planOf n ws) = (List.finRange 8).filter fun p => planWord ws p 0 != 0 && !planGood n (planWord ws p) :=
  List.filter_congr fun p _ => by simp only [planOf_eq, planRead_malformed, p.isLt, decide_true, Bool.true_and]

/-! ### The faults (05 R77, 11 R165) -/

/-- The fault record and count after PLAN_INVALID was offered for each of the plans. -/
def planFaultsHeld (stamp : Word) (held : Option FaultRec) (further : Nat) (ps : List PlanNo) : Option FaultRec × Nat :=
  ps.foldl (fun r p => offered r.1 r.2 ⟨.planInvalid, none, p.val, stamp⟩) (held, further)

section
variable (stamp : Word) (further : Nat)

/-- A fault held is counted up for each plan: PLAN_INVALID is MINOR and replaces none. -/
theorem planFaultsHeld_of_some (h : further ≤ 255) (f : FaultRec) (ps : List PlanNo) :
    planFaultsHeld stamp (some f) further ps = (some f, min 255 (further + ps.length)) := by
  induction ps generalizing further with
  | nil => simp [planFaultsHeld, h]
  | cons p ps ih =>
    have hstep : planFaultsHeld stamp (some f) further (p :: ps) = planFaultsHeld stamp (some f) (min 255 (further + 1)) ps := rfl
    rw [hstep, ih _ (Nat.min_le_left _ _), List.length_cons]
    congr 1
    omega

theorem planFaultsHeld_isSome (held : Option FaultRec) {ps : List PlanNo} (h : ps ≠ []) :
    (planFaultsHeld stamp held further ps).1.isSome = true := by
  obtain ⟨qs, p, rfl⟩ := (List.eq_nil_or_concat' ps).resolve_left h
  rw [planFaultsHeld, List.foldl_append]
  exact offered_isSome _ _ _

end

/-- Faults of the plans offered one after another. -/
theorem foldl_offerFault (ps : List PlanNo) (c : Chip) :
    ps.foldl (fun c p => offerFault .planInvalid none p.val c) c =
      { c with
        shc :=
          { c.shc with
            attention := if ps = [] then c.shc.attention else c.shc.attention ||| attnFault
            fault := (planFaultsHeld c.stamp c.shc.fault c.shc.further ps).1
            further := (planFaultsHeld c.stamp c.shc.fault c.shc.further ps).2 } } := by
  induction ps generalizing c with
  | nil => rfl
  | cons p ps ih =>
    have hflag : (c.shc.attention ||| attnFault) ||| attnFault = c.shc.attention ||| attnFault := by
      rw [BitVec.or_assoc, BitVec.or_self]
    rw [List.foldl_cons, ih]
    cases ps with
    | nil => rfl
    | cons q qs =>
      simp only [offerFault, setAttention, reduceCtorEq, if_false, hflag]
      rfl

/-! ### The plans taken (05 R77, 01 R1) -/

section
variable (ws : List Word) (c : Chip)

theorem takePlans_eq :
    let bad := badPlans 8 (planOf c.shc.hdr.n ws)
    takePlans ws c =
      { c with
        ctb :=
          { c.ctb with
            active := Vector.ofFn fun p : PlanNo => (planOf c.shc.hdr.n ws p).copy
            staged := Vector.replicate 8 none }
        jwr :=
          { c.jwr with
            startRecs := bad.map (fun p => (⟨none, 0, .fault .planInvalid p.val⟩ : Rec)) ++ c.jwr.startRecs }
        mpt := { c.mpt with coreReads := c.linesBelow }
        shc :=
          { c.shc with
            start := .core
            attention := if bad = [] then c.shc.attention else c.shc.attention ||| attnFault
            fault := (planFaultsHeld c.stamp c.shc.fault c.shc.further bad).1
            further := (planFaultsHeld c.stamp c.shc.fault c.shc.further bad).2 } } := by
  intro bad
  have hkeep : keepPlansBelow 8 (planOf c.shc.hdr.n ws) c =
      c.modCtb fun t =>
        { t with
          active := Vector.ofFn fun p : PlanNo => (planOf c.shc.hdr.n ws p).copy
          staged := Vector.replicate 8 none } := by
    simp only [keepPlansBelow, Fin.is_lt, if_true]
  simp only [takePlans, hkeep, planFaults, foldl_offerFault]
  rfl

theorem takePlans_ctb :
    (takePlans ws c).ctb =
      { c.ctb with
        active := Vector.ofFn fun p : PlanNo => (planOf c.shc.hdr.n ws p).copy
        staged := Vector.replicate 8 none } := by rw [takePlans_eq]

theorem takePlans_jwr :
    (takePlans ws c).jwr =
      { c.jwr with
        startRecs :=
          (badPlans 8 (planOf c.shc.hdr.n ws)).map (fun p => (⟨none, 0, .fault .planInvalid p.val⟩ : Rec)) ++
            c.jwr.startRecs } := by rw [takePlans_eq]

theorem takePlans_mpt : (takePlans ws c).mpt = { c.mpt with coreReads := c.linesBelow } := by rw [takePlans_eq]

theorem takePlans_shc :
    let bad := badPlans 8 (planOf c.shc.hdr.n ws)
    (takePlans ws c).shc =
      { c.shc with
        start := .core
        attention := if bad = [] then c.shc.attention else c.shc.attention ||| attnFault
        fault := (planFaultsHeld c.stamp c.shc.fault c.shc.further bad).1
        further := (planFaultsHeld c.stamp c.shc.fault c.shc.further bad).2 } := by rw [takePlans_eq]

end

/-- The chip as the last access of a read of the start procedure leaves it, before the words are taken. -/
def State.readDone (u : State) : Chip := (release u.chip).modMpt fun m => { m with read := [] }

/-- PLAN_READ_COMPLETE makes its accesses in the area that the header names (05 R77, 11 R167). -/
theorem areaAccess_plans {s : State} (hfit : s.chip.base + s.chip.shc.hdr.plans + 80 ≤ Config.ramWords) (u : State)
    (h : u.Reading .plans) (hs : u.chip.shc = s.chip.shc) :
    areaAccess .plans (u.chip.planAddr 0) 80 takePlans u =
      startAccess .plans (s.chip.base + s.chip.shc.hdr.plans) 80 takePlans u := by
  have ha : u.chip.planAddr 0 = s.chip.base + s.chip.shc.hdr.plans := by
    simp [Chip.planAddr, Chip.base, hs]
  rw [areaAccess, if_pos ⟨h.serves, h.start⟩, ha, inRam_of_le hfit]

end Sys2Proof.Machine
end

section
open Sys2Proof Sys2Proof.Machine

/-- Settles O53: the row reads its 80 words and takes the plans with the last. -/
theorem plansAreReadAtStart : Obligations.PlansAreReadAtStart := by
  unfold Obligations.PlansAreReadAtStart
  intro s hserves hstart hrun a n hfit
  have h : s.Reading .plans := ⟨hserves, hstart, hrun, .inr (.inr rfl)⟩
  refine ⟨fun hn => ?_, fun more hn hm => ?_⟩
  · refine ⟨s.readOn a, ?_, ?_, (s.readOn_only a).1⟩
    · exact (areaAccess_plans hfit s h rfl).trans (startAccess_more h (Nat.succ_lt_succ hn))
    · rw [State.readOn, settle_mpt_busy]
      rfl
  · obtain ⟨u, hu, hport, e⟩ := accesses_startAccess (all := takePlans) (fun ws c => by rw [takePlans_eq]) more
      (areaAccess_plans hfit) h (Nat.lt_succ_of_le hn) (by omega)
    intro ws w segs good bad
    have hexec : exec (.planReadComplete more) s = finish u (takePlans ws u.readDone) := e
    have hframe : OnlyChanges [.timebase, .journal, .port, .shelf] s
        { u with chip := settle u.chip (takePlans ws u.readDone) } := by
      refine (hu.mono (by decide)).trans ?_
      apply OnlyChanges.of_chip (m := u.ram) <;> simp [takePlans_eq, State.readDone, release]
    have hshc : u.readDone.shc = s.chip.shc := hu .shelf (by decide)
    have hjwr : u.readDone.jwr = s.chip.jwr := hu .journal (by decide)
    have hctb : u.readDone.ctb = s.chip.ctb := hu .timebase (by decide)
    have hreqs : u.readDone.mpt.reqs = s.chip.mpt.reqs := by
      have hunread := congrArg Mpt.reqs hport
      exact hunread
    have hread : u.readDone.mpt.read = [] := rfl
    generalize u.readDone = c at hexec hframe hshc hjwr hctb hreqs hread
    have hstamp : c.stamp = s.chip.stamp := by rw [Chip.stamp, Chip.stamp, hshc]
    have hbad : badPlans 8 (planOf c.shc.hdr.n ws) = bad := by
      rw [hshc]
      exact badPlans_planOf _ ws
    have hcopy (p : PlanNo) :
        (planOf c.shc.hdr.n ws p).copy = if w p 0 ≠ 0 ∧ good p = true then some (segs p) else none := by
      rw [hshc, planOf_eq]
      exact planRead_copy _ _
    refine ⟨_, hexec, fun p => ?_, ?_, ?_, fun hnil => ?_, fun hne => ?_, fun hfault hle p rest hcons => ?_, ?_, ?_, ?_, ?_,
      ?_, hframe⟩
    · rw [settle_ctb, takePlans_ctb]
      simp [hcopy]
    · rw [settle_ctb, takePlans_ctb, hctb]
    · rw [settle_jwr, takePlans_jwr, hbad, hjwr]
    · rw [settle_shc, takePlans_shc, hbad, hnil, hshc]
      rfl
    · rw [settle_shc, takePlans_shc, hbad, hshc]
      exact ⟨if_neg hne, planFaultsHeld_isSome _ _ _ hne⟩
    · rw [settle_shc, takePlans_shc, hbad, hshc, hfault, hcons, hstamp]
      have hrest := planFaultsHeld_of_some s.chip.stamp s.chip.shc.further hle ⟨.planInvalid, none, p.val, s.chip.stamp⟩ rest
      exact ⟨congrArg Prod.fst hrest, congrArg Prod.snd hrest⟩
    · rw [settle_shc, takePlans_shc]
    · rw [settle_shc, takePlans_shc, hshc]
    · rw [settle_mpt_coreReads, takePlans_mpt, ← hshc]
      rfl
    · rw [settle_mpt_reqs, takePlans_mpt, hreqs]
    · rw [settle_mpt_read, takePlans_mpt, hread]

end

section
/-! SUPPORT. Plans by their segments, the offset search, eligibility and the walk (05 R75, 06 R93, R94, R97, R99). -/

namespace Sys2Proof.Machine

/-! ### Plan steps (05 R75) -/

/-- The segment that begins at or before a plan step: the segments are ON and OFF in turn, the first of them as `on` tells. -/
theorem planOnFrom_segment (on : Bool) (p : Plan) (j i : Nat) (hi : i < p.length) (hle : (p.take i).sum ≤ j)
    (hlt : j < (p.take (i + 1)).sum) : planOnFrom on p j = (on == (i % 2 == 0)) := by
  induction p generalizing on j i with
  | nil => exact absurd hi (Nat.not_lt_zero i)
  | cons d ds ih =>
    cases i with
    | zero =>
      have hd : j < d := by simpa using hlt
      simp [planOnFrom, hd]
    | succ i =>
      simp only [List.take_succ_cons, List.sum_cons] at hle hlt
      have hrest := ih (!on) (j - d) i (Nat.lt_of_succ_lt_succ hi) (by omega) (by omega)
      rw [planOnFrom, if_neg (by omega), hrest]
      rcases Nat.mod_two_eq_zero_or_one i with h | h <;> cases on <;> simp [h, Nat.add_mod]

/-- No plan step beyond the last segment is ON. -/
theorem planOnFrom_beyond (on : Bool) (p : Plan) (j : Nat) (h : p.sum ≤ j) : planOnFrom on p j = false := by
  induction p generalizing on j with
  | nil => rfl
  | cons d ds ih =>
    rw [List.sum_cons] at h
    rw [planOnFrom, if_neg (by omega), ih _ _ (by omega)]

/-! ### The offset search (06 R94) -/

/-- An offset fits if no counter of a step where the plan is ON would go beyond the limit. -/
theorem fits_iff (n : Nat) (plt : List Nat) (p : Plan) (load limit phase : Nat) :
    fits n plt p load limit phase = true ↔
      ∀ i < n, planOn p ((i + n - phase) % n) = true → plt.getD i 0 + load ≤ limit := by
  simp only [fits, onAt, planStep, List.all_eq_true, List.mem_range, Bool.or_eq_true, Bool.not_eq_true', decide_eq_true_eq,
    ← Bool.not_eq_true, ← imp_iff_not_or]

section
variable (n : Nat) (plt : List Nat) (p : Plan) (load limit c : Nat)

/-- The candidate k of the search fits. -/
def CandidateFits (k : Nat) : Prop := fits n plt p load limit ((c + k) % n) = true

theorem findOffset_eq_some (k : Nat) :
    findOffset n plt p load limit c = some k ↔
      1 ≤ k ∧ k ≤ n ∧ CandidateFits n plt p load limit c k ∧ ∀ j, 1 ≤ j → j < k → ¬CandidateFits n plt p load limit c j := by
  rw [findOffset, List.find?_map, Option.map_eq_some_iff]
  constructor
  · rintro ⟨i, hi, rfl⟩
    obtain ⟨hfit, hmem, hleast⟩ := List.find?_range_eq_some.1 hi
    refine ⟨by omega, List.mem_range.1 hmem, hfit, fun j h1 hj => ?_⟩
    have := hleast (j - 1) (by omega)
    simpa [Function.comp, Nat.sub_add_cancel h1, CandidateFits] using this
  · rintro ⟨h1, hn, hfit, hleast⟩
    refine ⟨k - 1, List.find?_range_eq_some.2 ⟨?_, List.mem_range.2 (by omega), fun j hj => ?_⟩, by omega⟩
    · simpa [Function.comp, Nat.sub_add_cancel h1, CandidateFits] using hfit
    · simpa [Function.comp, CandidateFits] using hleast (j + 1) (by omega) (by omega)

theorem findOffset_eq_none :
    findOffset n plt p load limit c = none ↔ ∀ k, 1 ≤ k → k ≤ n → ¬CandidateFits n plt p load limit c k := by
  simp only [findOffset, List.find?_eq_none, List.mem_map, List.mem_range]
  constructor
  · intro h k h1 hn
    exact h k ⟨k - 1, by omega, by omega⟩
  · rintro h _ ⟨i, hi, rfl⟩
    exact h (i + 1) (by omega) (by omega)

end

/-! ### The limit and eligibility (06 R93, R97, R100) -/

theorem Rsc.cap_eq (r : Rsc) : r.cap = if r.mode = .normal then r.capacity else r.conserveCap := by
  cases h : r.mode <;> simp [Rsc.cap, h]

theorem Rsc.limit_eq (r : Rsc) (e : RingWait) :
    r.limit e = if e.cls = .priority ∨ r.boost ≠ 0 ∧ r.boost ≤ e.age then r.cap else r.cap - min r.reserve r.cap := by
  by_cases hc : e.cls = .priority
  · simp [Rsc.limit, hc]
  · by_cases hb : r.boost ≠ 0 ∧ r.boost ≤ e.age <;> simp [Rsc.limit, Rsc.boosted, Rsc.res, hc, hb]

/-- A plan is ACTIVE: it has an active copy and no staged one (05 Table 5-2). -/
theorem planSt_eq_active (c : Chip) (p : PlanNo) :
    c.planSt p = .active ↔ (c.ctb.active[p]).isSome = true ∧ c.ctb.staged[p] = none := by
  unfold Chip.planSt
  split <;> simp_all

theorem Chip.ready_iff (c : Chip) (e : RingWait) :
    c.ready e = true ↔
      e.needsSlot = false ∧ e.fetching = false ∧ e.notBefore = none ∧
        ∃ p, e.plan = some p ∧ (c.ctb.active[p]).isSome = true ∧ c.ctb.staged[p] = none ∧ (c.ord.staging.map (·.1)) ≠ some p := by
  cases hp : e.plan with
  | none => simp [Chip.ready, hp]
  | some p =>
    have hplan := planSt_eq_active c p
    simp only [Chip.ready, hp, Bool.and_eq_true, Bool.not_eq_true', Option.isNone_iff_eq_none, beq_iff_eq, hplan, Chip.reloading,
      beq_eq_false_iff_ne, Option.some.injEq, exists_eq_left', and_assoc]

/-! ### The walk (06 R99) -/

section
variable {c : Chip} {e : RingWait}

/-- An attempt for an entry whose line has its slot: the first offset that fits decides it (06 R94). -/
theorem tryAdmit_of_slot {p : PlanNo} {segs : Plan} {k : SlotNo} (hp : e.plan = some p) (hsegs : c.ctb.active[p] = some segs)
    (hs : (c.line e.line).slot = some k) :
    tryAdmit e c =
      (findOffset c.shc.hdr.n c.rsc.plt segs (requestLoad (c.slot k).copy e.party) (c.rsc.limit e) c.ctb.step).map
        fun q => admitRing e p segs (c.slot k).copy q c := by
  simp only [tryAdmit, hp, Chip.record, hs, Option.map_some, hsegs]

theorem walkFrom_of_not_ready (h : c.ready e = false) (es : List RingWait) : walkFrom (e :: es) c = walkFrom es c := by
  rw [walkFrom, if_neg (by simp [h])]

theorem walkFrom_of_fit (h : c.ready e = true) {d : Chip} (ht : tryAdmit e c = some d) (es : List RingWait) :
    walkFrom (e :: es) c = walkFrom es d := by
  rw [walkFrom, if_pos h, ht]

theorem walkFrom_of_no_fit (h : c.ready e = true) (ht : tryAdmit e c = none) (es : List RingWait) :
    walkFrom (e :: es) c = if c.rsc.press ≠ 0 ∧ c.rsc.press ≤ e.age then c else walkFrom es c := by
  rw [walkFrom, if_pos h, ht]
  by_cases hpress : c.rsc.press ≠ 0 ∧ c.rsc.press ≤ e.age <;> simp [Rsc.pressed, hpress]

end

end Sys2Proof.Machine
end

section
open Sys2Proof Sys2Proof.Machine

/-- Settles O34: the segments of a plan, the search over the candidates, the limit, eligibility and the walk, each by its own law. -/
theorem offsetSearchTakesTheFirstFit : Obligations.OffsetSearchTakesTheFirstFit := by
  unfold Obligations.OffsetSearchTakesTheFirstFit
  refine ⟨fun p j => ⟨fun i hi hle hlt => ?_, planOnFrom_beyond true p j⟩, fun n plt p load limit c => ?_, fun r e => ?_,
    Chip.ready_iff, fun e es c => ⟨fun h => walkFrom_of_not_ready h es, fun h p segs k hp hsegs hs => ?_⟩⟩
  · exact (planOnFrom_segment true p j i hi hle hlt).trans (by simp)
  · intro fit
    have hfit (k : Nat) : CandidateFits n plt p load limit c k ↔ fit k := fits_iff n plt p load limit ((c + k) % n)
    refine ⟨fun k => ?_, ?_⟩
    · simpa only [hfit] using findOffset_eq_some n plt p load limit c k
    · simpa only [hfit] using findOffset_eq_none n plt p load limit c
  · rw [Rsc.limit_eq, Rsc.cap_eq]
  · intro found
    have htry : tryAdmit e c = found.map fun q => admitRing e p segs (c.slot k).copy q c := tryAdmit_of_slot hp hsegs hs
    refine ⟨fun q hq => walkFrom_of_fit h ?_ es, fun hn => walkFrom_of_no_fit h ?_ es⟩
    · rw [htry, hq, Option.map_some]
    · rw [htry, hn, Option.map_none]

end

section
/-! SUPPORT. A row of accesses under way to its last (10 R160), and the words that it reads one by one. -/

namespace Sys2Proof.Machine

/-- A row of which every access but the last leaves it under way, with one access fewer to go, comes to its last access in a state
that stands in whatever relation the accesses keep. -/
theorem accesses_until {u : Chip → Bool} {one : State → Out} {R : State → Prop} {left : State → Nat}
    (hstep : ∀ v, R v → 1 < left v → ∃ t, one v = .next t ∧ u t.chip = true ∧ R t ∧ left t + 1 = left v) (more : Nat)
    {s : State} (hs : R s) (hpos : 1 ≤ left s) (hmore : left s ≤ more + 1) :
    ∃ v m, R v ∧ left v = 1 ∧ accesses u one more s = accesses u one m v := by
  induction more generalizing s with
  | zero => exact ⟨s, 0, hs, by omega, rfl⟩
  | succ more ih =>
    by_cases hlast : left s = 1
    · exact ⟨s, more + 1, hs, hlast, rfl⟩
    · obtain ⟨t, ht, hway, hR, hleft⟩ := hstep s hs (by omega)
      obtain ⟨v, m, hv, hone, e⟩ := ih hR (by omega) (by omega)
      exact ⟨v, m, hv, hone, (accesses_succ ht hway more).trans e⟩

/-- The words of a read of `n` words, word number `k` being `f k`, of which the words `read` have been read. -/
def wordsTo (f : Nat → Word) (n : Nat) (read : List Word) : List Word :=
  read ++ (List.range (n - read.length)).map fun j => f (read.length + j)

section
variable (f : Nat → Word) {n : Nat} {read : List Word}

/-- A word read leaves the words of the whole read as they are. -/
theorem wordsTo_read (h : read.length < n) : wordsTo f n (read ++ [f read.length]) = wordsTo f n read := by
  obtain ⟨m, rfl⟩ : ∃ m, n = read.length + 1 + m := ⟨_, (Nat.add_sub_cancel' h).symm⟩
  have e1 : read.length + 1 + m - read.length = m + 1 := by omega
  have e2 : read.length + 1 + m - (read.length + 1) = m := by omega
  simp only [wordsTo, List.length_append, List.length_singleton, e1, e2, List.range_succ_eq_map, List.map_cons, List.map_map,
    List.append_assoc, List.singleton_append, Nat.add_zero]
  congr 3
  funext j
  simp only [Function.comp_apply, Nat.succ_eq_add_one]
  congr 1
  omega

theorem wordsTo_last (h : read.length + 1 = n) : wordsTo f n read = read ++ [f read.length] := by
  simp [wordsTo, ← h]

end

end Sys2Proof.Machine
end

section
/-! SUPPORT. RELOAD_PLAN taken, its read word by word, and the read complete (05 R76, R78, R79). -/

namespace Sys2Proof.Machine

/-! ### The order taken (05 R78) -/

section
variable {c d : Chip} {p : PlanNo}

/-- A plan is in use where the slot of an allocated line holds an allocation that names it (05 R78). -/
theorem planInUse_iff :
    c.planInUse p = true ↔
      ∃ x ∈ c.rsc.allocs, ∃ k a, (c.line x).slot = some k ∧ (c.slot k).ctx.alloc = some a ∧ a.plan = p := by
  rw [Chip.planInUse, List.any_eq_true]
  refine exists_congr fun x => and_congr_right fun _ => ?_
  cases hs : (c.line x).slot with
  | none => simp [Chip.alloc, Chip.ctx, hs]
  | some k =>
    cases ha : (c.slot k).ctx.alloc with
    | none => simp [Chip.alloc, Chip.ctx, hs, ha]
    | some a => simp [Chip.alloc, Chip.ctx, hs, ha]

/-- RELOAD_PLAN as the Order Reader copies it (10 Table 10-11). -/
def reloadOrder (p : PlanNo) : OrderCopy := ⟨14, word p.val, 0, 0, 0, 0⟩

theorem takeOrder_reloadPlan (p : PlanNo) (c : Chip) :
    takeOrder (reloadOrder p) c =
      if c.planInUse p then setResult .planInUse (copyOrder (reloadOrder p) c)
      else addRequest .reload ((copyOrder (reloadOrder p) c).modOrd fun o => { o with work := some (.reload p) }) := by
  have hp : (word p.val).toNat = p.val := by
    simp only [word, BitVec.toNat_ofNat]
    omega
  have hvalid : validate (reloadOrder p) (copyOrder (reloadOrder p) c) = .ok .reloadPlan := by
    have hrange : p.val ≤ 7 := by omega
    simp [validate, reloadOrder, orderKind, argsInRange, orderLine, hp, hrange]
  have harg : Fin.ofNat 8 (reloadOrder p).a1.toNat = p := by simp [reloadOrder, hp]
  have huse : (copyOrder (reloadOrder p) c).planInUse p = c.planInUse p := rfl
  simp only [takeOrder, hvalid, handOver, harg, orderReloadPlan, huse]
  by_cases h : c.planInUse p = true <;> simp [h, Chip.modOrd]

end

/-! ### One access -/

/-- The read of RELOAD_PLAN is being served for plan p, in an area that lies in the RAM (05 R79, 10 R160). -/
structure State.Reloading (s : State) (p : PlanNo) : Prop where
  work : s.chip.ord.work = some (.reload p)
  serves : s.chip.serves .reload = true
  fits : s.chip.planAddr p + 10 ≤ Config.ramWords

/-- No other request waits, and none of a higher class, so that the read goes on without another access between (10 R160). -/
structure State.ReloadAlone (s : State) : Prop where
  reqs : s.chip.mpt.reqs = [.reload]
  journal : s.chip.journalWants = false
  run : s.chip.shc.run = .running

/-- Word number `k` of plan p in the RAM. -/
def State.planWordAt (s : State) (p : PlanNo) (k : Nat) : Word := readWord s.ram (s.chip.planAddr p + k)

/-- The chip with one more word of plan p read and the next requested. -/
def State.reloadedWord (s : State) (p : PlanNo) : Chip :=
  addRequest .reload (dropRequest .reload ((release s.chip).modOrd fun o =>
    { o with read := o.read ++ [s.planWordAt p o.read.length] }))

/-- The state after an access of the read that is not its last. -/
def State.reloadOn (s : State) (p : PlanNo) : State := { s with chip := settle s.chip (s.reloadedWord p) }

/-- The Order Reader but for the words read. -/
def Ord.unread (o : Ord) : Ord := { o with read := [] }

section
variable {s : State} {p : PlanNo}

theorem reloadAccess_more (h : s.Reloading p) (hn : s.chip.ord.read.length < 9) : reloadAccess s = .next (s.reloadOn p) := by
  have hlen : s.chip.ord.read.length + 1 < 10 := by omega
  simp only [reloadAccess, h.work, h.serves, if_true, inRam_of_le h.fits, List.length_append, List.length_singleton, hlen]
  rfl

theorem reloadAccess_last (h : s.Reloading p) (hn : s.chip.ord.read.length = 9) :
    reloadAccess s =
      finish s (reloadDone p (s.chip.ord.read ++ [s.planWordAt p s.chip.ord.read.length]) (release s.chip)) := by
  simp only [reloadAccess, h.work, h.serves, if_true, inRam_of_le h.fits, List.length_append, List.length_singleton, hn,
    Nat.lt_irrefl, Nat.reduceAdd, if_false]
  rfl

@[simp] theorem State.reloadOn_ord :
    (s.reloadOn p).chip.ord =
      { s.chip.ord with read := s.chip.ord.read ++ [s.planWordAt p s.chip.ord.read.length] } := by
  rw [State.reloadOn, settle_ord]
  rfl

theorem State.reloadOn_reqs : (s.reloadOn p).chip.mpt.reqs = s.chip.mpt.reqs.filter (· ≠ .reload) ++ [.reload] := by
  rw [State.reloadOn, settle_mpt_reqs]
  rfl

theorem State.reloadOn_only : OnlyChanges [.orders, .port] s (s.reloadOn p) :=
  OnlyChanges.of_chip (m := s.ram) (fun _ => rfl) (fun _ => rfl) (fun _ => rfl) (fun _ => rfl) (fun _ => rfl) (fun _ => rfl)
    (by simp) (fun _ => rfl) (by simp) (fun _ => rfl) (fun _ => rfl)

theorem State.reloadOn_shc : (s.reloadOn p).chip.shc = s.chip.shc := State.reloadOn_only .shelf (by decide)

theorem State.reloadOn_planWordAt : (s.reloadOn p).planWordAt p = s.planWordAt p := by
  funext k
  simp only [State.planWordAt, Chip.planAddr, Chip.base, State.reloadOn_shc]
  rfl

/-- Where no other request waits the Memory Port stands as it did, but for the access in progress. -/
theorem State.ReloadAlone.reloadOn_only (h : s.ReloadAlone) : OnlyChanges [.orders] s (s.reloadOn p) := fun q hq => by
  by_cases hport : q = .port
  · subst hport
    have hreqs : (s.reloadOn p).chip.mpt.reqs = s.chip.mpt.reqs := by
      rw [State.reloadOn_reqs, h.reqs]
      rfl
    have hkept : { (s.reloadOn p).chip.mpt with busy := none } =
        { s.chip.mpt with busy := none, reqs := (s.reloadOn p).chip.mpt.reqs } := by
      rw [State.reloadOn_reqs, State.reloadOn, settle_mpt_busy]
      rfl
    rw [hreqs] at hkept
    exact hkept
  · exact State.reloadOn_only q (by simp_all)

theorem State.ReloadAlone.reloadOn (h : s.ReloadAlone) (p : PlanNo) : (s.reloadOn p).ReloadAlone where
  reqs := by
    rw [State.reloadOn_reqs, h.reqs]
    rfl
  journal := by
    have hjwr : (s.reloadOn p).chip.jwr = s.chip.jwr := State.reloadOn_only .journal (by decide)
    have hwants : (s.reloadOn p).chip.journalWants = s.chip.journalWants := by
      simp only [Chip.journalWants, Chip.journalOpen, Chip.retryDue, hjwr, State.reloadOn_shc]
    exact hwants.trans h.journal
  run := by rw [State.reloadOn_shc, h.run]

/-- Where no other request waits the arbiter takes the next access of the read (10 R160). -/
theorem State.Reloading.reloadOn (h : s.Reloading p) (ha : s.ReloadAlone) : (s.reloadOn p).Reloading p where
  work := by rw [State.reloadOn_ord, h.work]
  serves := by
    have halone := ha.reloadOn p
    have hnext : (s.reloadedWord p).nextAccess = some .reload := by
      have hj : (s.reloadedWord p).journalWants = false := ha.journal
      have hr : (s.reloadedWord p).readWants = some .reload := by
        have hrun : (s.reloadedWord p).shc.run = .running := ha.run
        have hreqs : (s.reloadedWord p).mpt.reqs = s.chip.mpt.reqs.filter (· ≠ .reload) ++ [.reload] := rfl
        simp [Chip.readWants, hrun, hreqs, ha.reqs]
      simp [Chip.nextAccess, hj, hr]
    have hbusy := settle_busy s.chip (s.reloadedWord p)
    rw [hnext] at hbusy
    exact beq_iff_eq.2 hbusy
  fits := by
    have haddr : (s.reloadOn p).chip.planAddr p = s.chip.planAddr p := by
      simp only [Chip.planAddr, Chip.base, State.reloadOn_shc]
    exact haddr ▸ h.fits

/-! ### The whole row -/

/-- The row served to its last word: the ten words are handed over in a state in which nothing but the words read has changed. -/
theorem accesses_reloadAccess (h : s.Reloading p) (hn : s.chip.ord.read.length ≤ 9)
    (ha : s.chip.ord.read.length = 9 ∨ s.ReloadAlone) {more : Nat} (hmore : 9 - s.chip.ord.read.length ≤ more) :
    ∃ v m, OnlyChanges [.orders] s v ∧ v.chip.ord.unread = s.chip.ord.unread ∧
      accesses Chip.reloadUnderWay reloadAccess more s = accesses Chip.reloadUnderWay reloadAccess m v ∧
      reloadAccess v = finish v (reloadDone p (wordsTo (s.planWordAt p) 10 s.chip.ord.read) (release v.chip)) := by
  obtain ⟨v, m, ⟨hv, -, hframe, hord, hwords⟩, hone, e⟩ := accesses_until
    (R := fun v => v.Reloading p ∧ (v.chip.ord.read.length = 9 ∨ v.ReloadAlone) ∧ OnlyChanges [.orders] s v ∧
      v.chip.ord.unread = s.chip.ord.unread ∧
      wordsTo (v.planWordAt p) 10 v.chip.ord.read = wordsTo (s.planWordAt p) 10 s.chip.ord.read)
    (left := fun v => 10 - v.chip.ord.read.length) (u := Chip.reloadUnderWay) (one := reloadAccess)
    (fun v ⟨hv, halone, hframe, hord, hwords⟩ hleft => by
      have ha : v.ReloadAlone := halone.resolve_left (by omega)
      refine ⟨_, reloadAccess_more hv (by omega), ?_,
        ⟨hv.reloadOn ha, .inr (ha.reloadOn p), hframe.trans ha.reloadOn_only, ?_, ?_⟩, ?_⟩
      · simp [Chip.reloadUnderWay]
      · rw [← hord, State.reloadOn_ord]
        rfl
      · rw [← hwords, State.reloadOn_ord, State.reloadOn_planWordAt]
        exact wordsTo_read _ (by omega)
      · simp only [State.reloadOn_ord, List.length_append, List.length_singleton]
        omega)
    more (s := s) ⟨h, ha, OnlyChanges.refl _ s, rfl, rfl⟩ (by omega) (by omega)
  refine ⟨v, m, hframe, hord, e, ?_⟩
  rw [reloadAccess_last hv (by omega), ← hwords, wordsTo_last _ (by omega)]

end

/-! ### The read complete (05 R75, R79) -/

section
variable {p : PlanNo} {ws : List Word} {c : Chip}

/-- The chip with the read of RELOAD_PLAN over and its request served. -/
def reloadOver (c : Chip) : Chip := dropRequest .reload (c.modOrd fun o => { o with work := none, read := [] })

/-- What the ten words of a plan read give (05 R75). -/
def wordsRead (ws : List Word) (j : Nat) : Nat := (ws.getD j 0).toNat

/-- Ten words that are well formed are kept to be staged with the result, or staged at once where no cell holds the order, unless an
allocation names the plan; any others are refused (05 R79, logs 3 and 17). -/
theorem reloadDone_eq (p : PlanNo) (ws : List Word) (c : Chip) :
    reloadDone p ws c =
      if planGood c.shc.hdr.n (wordsRead ws) then
        if c.planInUse p then setResult .planInUse (reloadOver c)
        else if c.ord.cell = none then stagePlan p (planSegs (wordsRead ws)) (setResult .ok (reloadOver c))
        else (setResult .ok (reloadOver c)).modOrd fun o => { o with staging := some (p, planSegs (wordsRead ws)) }
      else setResult .badOrder (reloadOver c) := by
  have hparse : parsePlan (reloadOver c).shc.hdr.n ws = planRead c.shc.hdr.n (wordsRead ws) := parsePlan_eq _ ws
  have huse : (reloadOver c).planInUse p = c.planInUse p := rfl
  have hcell : (reloadOver c).ord.cell = c.ord.cell := rfl
  unfold reloadDone
  rw [← reloadOver]
  simp only [hparse, huse, hcell, planRead]
  by_cases hg : planGood c.shc.hdr.n (wordsRead ws) = true
  · simp only [if_neg (planGood_count hg).2, hg, if_true]
  · by_cases h0 : wordsRead ws 0 = 0 <;> simp only [h0, hg, Bool.false_eq_true, if_true, if_false]

/-- A plan is well formed in the words of 05 R75. -/
theorem planGood_iff (n : Nat) (w : Nat → Nat) :
    planGood n w = true ↔ w 0 ∈ [2, 4, 6, 8] ∧ (∀ d ∈ planSegs w, 1 ≤ d ∧ d ≤ 60) ∧ (planSegs w).sum = n := by
  simp [planGood, and_assoc, or_assoc]

/-- The end of the read touches the Cadence Timebase, the Order Reader and the requests alone. -/
theorem reloadDone_parts (p : PlanNo) (ws : List Word) (c : Chip) :
    reloadDone p ws c =
      { c with ctb := (reloadDone p ws c).ctb, ord := (reloadDone p ws c).ord, mpt := (reloadOver c).mpt } := by
  rw [reloadDone_eq]
  split_ifs <;> rfl

/-- No word of a plan is in hand once the read is over. -/
theorem reloadDone_read (p : PlanNo) (ws : List Word) (c : Chip) : (reloadDone p ws c).ord.read = [] := by
  rw [reloadDone_eq]
  split_ifs <;> rfl

theorem planInUse_congr {c d : Chip} (hl : ∀ x, d.line x = c.line x) (hs : d.sst = c.sst) (hr : d.rsc = c.rsc) (p : PlanNo) :
    d.planInUse p = c.planInUse p := by
  simp only [Chip.planInUse, Chip.alloc, Chip.ctx, Chip.slot, hl, hs, hr]

end

end Sys2Proof.Machine
end

section
open Sys2Proof Sys2Proof.Machine

/-- Settles O45: the order is refused or its read requested; the row reads the ten words, and with the last the copy is kept, staged
or refused. -/
theorem reloadPlanStagesAPlan : Obligations.ReloadPlanStagesAPlan := by
  unfold Obligations.ReloadPlanStagesAPlan
  intro s p used i o
  have hused : s.chip.planInUse p = true ↔ used := planInUse_iff
  refine ⟨fun e hp hstaging => ?_, fun hr => ⟨fun hu => ?_, fun hu => ?_⟩, fun hwork hserves => ?_⟩
  · refine Bool.eq_false_iff.2 fun hready => ?_
    obtain ⟨-, -, -, q, hq, -, -, hne⟩ := (Chip.ready_iff _ _).1 hready
    exact hne (hstaging.trans (hp.symm.trans hq))
  · exact answersOnly_of_takeOrder hr rfl ((takeOrder_reloadPlan p _).trans (if_pos (hused.2 hu)))
  · have ht : takeOrder o s.chip = _ := (takeOrder_reloadPlan p s.chip).trans (if_neg (mt hused.1 hu))
    refine ⟨_, (exec_of_ready hr (o := o) rfl).trans (finish_eq _ _), ?_⟩
    rw [ht]
    refine ⟨by rw [settle_ord]; rfl, by rw [settle_mpt_reqs]; rfl, by rw [settle_mpt_coreReads]; rfl, ?_⟩
    exact OnlyChanges.of_chip (m := s.ram) (fun _ => rfl) (fun _ => rfl) (fun _ => rfl) (fun _ => rfl) (fun _ => rfl) (fun _ => rfl)
      (by simp) (fun _ => rfl) (by simp) (fun _ => rfl) (fun _ => rfl)
  · intro a n hfit
    have h : s.Reloading p := ⟨hwork, hserves, hfit⟩
    refine ⟨fun hn => ⟨s.reloadOn p, reloadAccess_more h hn, State.reloadOn_ord, State.reloadOn_reqs, ?_, State.reloadOn_only⟩,
      fun more hn hmore halone => ?_⟩
    · rw [State.reloadOn, settle_mpt_coreReads]
      rfl
    · intro ws w segs good answered
      obtain ⟨v, m, hframe, hord, e, hlast⟩ := accesses_reloadAccess h hn
        (halone.imp_right fun ⟨hreqs, hj, hrun⟩ => ⟨hreqs, hj, hrun⟩) hmore
      have hwords : wordsTo (s.planWordAt p) 10 s.chip.ord.read = ws := by
        simp only [wordsTo, State.planWordAt, ← Nat.add_assoc]
        rfl
      rw [hwords] at hlast
      have hread : (settle v.chip (reloadDone p ws (release v.chip))).reloadUnderWay = false := by
        simp [Chip.reloadUnderWay, reloadDone_read]
      have hexec : exec (.reloadPlanReadComplete more) s =
          .next { v with chip := settle v.chip (reloadDone p ws (release v.chip)) } := e.trans (accesses_done hlast hread m)
      have hlen : (release v.chip).shc.hdr.n = s.chip.shc.hdr.n := by rw [← hframe .shelf (by decide)]; rfl
      have huse : (release v.chip).planInUse p = s.chip.planInUse p :=
        planInUse_congr (hframe .lines (by decide)) (hframe .slots (by decide)) (hframe .scheduler (by decide)) p
      have hcell : (release v.chip).ord.cell = s.chip.ord.cell := by
        have hunread := congrArg Ord.cell hord
        exact hunread
      have hctb : v.chip.ctb = s.chip.ctb := hframe .timebase (by decide)
      have hgood : planGood s.chip.shc.hdr.n (wordsRead ws) = true ↔ good := planGood_iff _ _
      have hanswer (r : Result) : (setResult r (reloadOver (release v.chip))).ord = answered r :=
        congrArg (fun o : Ord => { o with work := none, result := some r }) hord
      have hdone := reloadDone_eq p ws (release v.chip)
      rw [hlen, huse, hcell] at hdone
      refine ⟨_, hexec, ?_, fun hg hu hc => ?_, fun hg hu hc => ?_, fun hg => ?_, fun hg hu => ?_, ?_⟩
      · rw [settle_mpt_reqs, reloadDone_parts]
        have hreqs := congrArg Mpt.reqs (hframe .port (by decide))
        exact congrArg (List.filter _) hreqs
      · rw [settle_ctb, settle_ord, hdone, if_pos (hgood.2 hg), if_neg (mt hused.1 hu), if_neg hc]
        exact ⟨hctb, congrArg (fun o : Ord => { o with staging := some (p, segs) }) (hanswer .ok)⟩
      · rw [settle_ctb, settle_ord, hdone, if_pos (hgood.2 hg), if_neg (mt hused.1 hu), if_pos hc]
        exact ⟨congrArg (fun t : Ctb => { t with staged := t.staged.set p (some segs) }) hctb, hanswer .ok⟩
      · rw [settle_ctb, settle_ord, hdone, if_neg (mt hgood.1 hg)]
        exact ⟨hctb, hanswer .badOrder⟩
      · rw [settle_ctb, settle_ord, hdone, if_pos (hgood.2 hg), if_pos (hused.2 hu)]
        exact ⟨hctb, hanswer .planInUse⟩
      · refine (hframe.mono (by decide)).trans ?_
        rw [reloadDone_parts]
        exact OnlyChanges.of_chip (m := v.ram) (fun _ => rfl) (fun _ => rfl) (fun _ => rfl) (by simp) (fun _ => rfl)
          (fun _ => rfl) (by simp) (fun _ => rfl) (by simp) (fun _ => rfl) (fun _ => rfl)

end

section
/-! SUPPORT. No order looks at the idle stop timer (08 R130): an order taken with the timer stopped is the order taken, with the timer
stopped after it. -/

namespace Sys2Proof.Machine

/-- The chip with its idle stop timer stopped. -/
def Chip.untimed (c : Chip) : Chip := c.modGen fun g => { g with idleTimer := none }

section
variable (c : Chip) (x : LineNo) (i : SlotNo)

/-! ### What is read -/

@[simp] theorem Chip.untimed_line : c.untimed.line x = c.line x := rfl
@[simp] theorem Chip.untimed_slot : c.untimed.slot i = c.slot i := rfl
@[simp] theorem Chip.untimed_sst : c.untimed.sst = c.sst := rfl
@[simp] theorem Chip.untimed_ctb : c.untimed.ctb = c.ctb := rfl
@[simp] theorem Chip.untimed_rsc : c.untimed.rsc = c.rsc := rfl
@[simp] theorem Chip.untimed_ord : c.untimed.ord = c.ord := rfl
@[simp] theorem Chip.untimed_jwr : c.untimed.jwr = c.jwr := rfl
@[simp] theorem Chip.untimed_shc : c.untimed.shc = c.shc := rfl
@[simp] theorem Chip.untimed_gen_state : c.untimed.gen.state = c.gen.state := rfl
@[simp] theorem Chip.untimed_gen_overload : c.untimed.gen.overload = c.gen.overload := rfl
@[simp] theorem Chip.untimed_gen_recent : c.untimed.gen.recent = c.gen.recent := rfl
@[simp] theorem Chip.untimed_timing : c.untimed.timing x = c.timing x := rfl
@[simp] theorem Chip.untimed_ctx : c.untimed.ctx x = c.ctx x := rfl
@[simp] theorem Chip.untimed_alloc : c.untimed.alloc x = c.alloc x := rfl
@[simp] theorem Chip.untimed_accepted : c.untimed.accepted x = c.accepted x := rfl
@[simp] theorem Chip.untimed_record : c.untimed.record x = c.record x := rfl
@[simp] theorem Chip.untimed_heldFlag : c.untimed.heldFlag = c.heldFlag := rfl
@[simp] theorem Chip.untimed_stamp : c.untimed.stamp = c.stamp := rfl
@[simp] theorem Chip.untimed_taking : c.untimed.taking = c.taking := rfl
@[simp] theorem Chip.untimed_entry : c.untimed.entry x = c.entry x := rfl
@[simp] theorem Chip.untimed_planPresent : c.untimed.planPresent = c.planPresent := rfl
@[simp] theorem Chip.untimed_ready (e : RingWait) : c.untimed.ready e = c.ready e := rfl
@[simp] theorem Chip.untimed_demand : c.untimed.demand = c.demand := rfl
@[simp] theorem Chip.untimed_dialBus : c.untimed.dialBus x = c.dialBus x := rfl
@[simp] theorem Chip.untimed_blockSize : c.untimed.blockSize x = c.blockSize x := rfl
@[simp] theorem Chip.untimed_holdsDigits : c.untimed.holdsDigits x = c.holdsDigits x := rfl
@[simp] theorem Chip.untimed_chooseSlot : c.untimed.chooseSlot x = c.chooseSlot x := rfl
@[simp] theorem Chip.untimed_lockedTo : c.untimed.lockedTo x = c.lockedTo x := rfl
@[simp] theorem Chip.untimed_lockedCount : c.untimed.lockedCount = c.lockedCount := rfl
@[simp] theorem Chip.untimed_ownCopy : c.untimed.ownCopy x = c.ownCopy x := rfl
@[simp] theorem Chip.untimed_planInUse (p : PlanNo) : c.untimed.planInUse p = c.planInUse p := rfl

/-! ### Updates of one part -/

@[simp] theorem modLine_untimed (f : Line → Line) : c.untimed.modLine x f = (c.modLine x f).untimed := rfl
@[simp] theorem modSlot_untimed (f : Slot → Slot) : c.untimed.modSlot i f = (c.modSlot i f).untimed := rfl
@[simp] theorem setLru_untimed (l : List SlotNo) : c.untimed.setLru l = (c.setLru l).untimed := rfl
@[simp] theorem setWaitList_untimed (l : List SlotWait) : c.untimed.setWaitList l = (c.setWaitList l).untimed := rfl
@[simp] theorem modMpt_untimed (f : Mpt → Mpt) : c.untimed.modMpt f = (c.modMpt f).untimed := rfl
@[simp] theorem modJwr_untimed (f : Jwr → Jwr) : c.untimed.modJwr f = (c.modJwr f).untimed := rfl
@[simp] theorem modRsc_untimed (f : Rsc → Rsc) : c.untimed.modRsc f = (c.modRsc f).untimed := rfl
@[simp] theorem modOrd_untimed (f : Ord → Ord) : c.untimed.modOrd f = (c.modOrd f).untimed := rfl

theorem setAttention_untimed (f : BitVec 5) : setAttention f c.untimed = (setAttention f c).untimed := rfl
theorem beginStall_untimed (k : Stall) : beginStall k c.untimed = (beginStall k c).untimed := rfl
theorem offerFault_untimed (k : FaultKind) (o : Option LineNo) (n : Nat) :
    offerFault k o n c.untimed = (offerFault k o n c).untimed := rfl
@[simp] theorem markLost_untimed : markLost x c.untimed = (markLost x c).untimed := rfl
theorem openRelays_untimed : openRelays c.untimed = (openRelays c).untimed := rfl
@[simp] theorem setRelay_untimed (b : Bool) : setRelay x b c.untimed = (setRelay x b c).untimed := rfl
@[simp] theorem setLock_untimed (o : Option LineNo) : setLock i o c.untimed = (setLock i o c).untimed := rfl
@[simp] theorem setResult_untimed (r : Result) : setResult r c.untimed = (setResult r c).untimed := rfl
@[simp] theorem copyOrder_untimed (o : OrderCopy) : copyOrder o c.untimed = (copyOrder o c).untimed := rfl

@[simp] theorem modCtx_untimed (f : Ctx → Ctx) : modCtx x f c.untimed = (modCtx x f c).untimed := by
  simp only [modCtx, Chip.untimed_line]
  split <;> rfl

@[simp] theorem enqueue_untimed (r : Rec) : enqueue r c.untimed = (enqueue r c).untimed := by
  simp only [enqueue, Chip.untimed_jwr, Chip.untimed_heldFlag, beginStall_untimed, modJwr_untimed, apply_ite Chip.untimed]
  rfl

@[simp] theorem emit_untimed (o : Option LineNo) (b : Body) : emit o b c.untimed = (emit o b c).untimed := by
  simp only [emit, Chip.untimed_shc, Chip.untimed_stamp, enqueue_untimed, modJwr_untimed]
  split
  · rfl
  · rfl
  · rfl
  · rfl
  · simp only [apply_ite Chip.untimed]

@[simp] theorem raiseFault_untimed (k : FaultKind) (o : Option LineNo) (n : Nat) :
    raiseFault k o n c.untimed = (raiseFault k o n c).untimed := by
  simp only [raiseFault, offerFault_untimed, emit_untimed]

/-! ### Entries to states (01) -/

@[simp] theorem enterIdle_untimed : enterIdle x c.untimed = (enterIdle x c).untimed := by
  simp [enterIdle, apply_ite Chip.untimed]

@[simp] theorem enterGuard_untimed (ms : Nat) : enterGuard x ms c.untimed = (enterGuard x ms c).untimed := by
  simp [enterGuard, apply_ite Chip.untimed]

@[simp] theorem enterReleaseGuard_untimed : enterReleaseGuard x c.untimed = (enterReleaseGuard x c).untimed := enterGuard_untimed ..
@[simp] theorem enterPostRingGuard_untimed : enterPostRingGuard x c.untimed = (enterPostRingGuard x c).untimed :=
  enterGuard_untimed ..

@[simp] theorem enterParked_untimed (w : Option ParkReason) : enterParked x w c.untimed = (enterParked x w c).untimed := by
  cases w with
  | none => rfl
  | some r => simp

@[simp] theorem enterTalk_untimed (b : Bool) : enterTalk x b c.untimed = (enterTalk x b c).untimed := rfl

/-! ### Ringing and the generator (06, 07, 08) -/

@[simp] theorem dropAlloc_untimed (a : Alloc) : dropAlloc x a c.untimed = (dropAlloc x a c).untimed := by
  simp only [dropAlloc, modRsc_untimed, modCtx_untimed, Chip.untimed_shc, Chip.untimed_ctb, setRelay_untimed]
  rfl

@[simp] theorem shedLine_untimed (w : ShedReason) : shedLine w x c.untimed = (shedLine w x c).untimed := by
  simp only [shedLine, Chip.untimed_alloc, Chip.untimed_ctx]
  split
  · rfl
  · simp

theorem setGen_untimed (st : GenSt) (w : GenCause) (n : Nat) : setGen st w n c.untimed = (setGen st w n c).untimed := by
  have hstate : (c.untimed.modGen fun g => { g with state := st }) = (c.modGen fun g => { g with state := st }).untimed := rfl
  simp only [setGen, Chip.untimed_gen_state, hstate, emit_untimed, setAttention_untimed, apply_ite Chip.untimed]

end

/-- What is done to one element after another commutes with stopping the timer if it does for each. -/
theorem foldl_untimed {α : Type} (f : Chip → α → Chip) (hf : ∀ c a, f c.untimed a = (f c a).untimed) (l : List α) (c : Chip) :
    l.foldl f c.untimed = (l.foldl f c).untimed := by
  induction l generalizing c with
  | nil => rfl
  | cons a l ih => rw [List.foldl_cons, hf, ih, List.foldl_cons]

section
variable (c : Chip) (x : LineNo) (i : SlotNo)

/-- The trip stops the timer itself (08 R131). -/
theorem tripGen_untimed : tripGen c.untimed = (tripGen c).untimed := by
  have hstop : ((c.modGen fun g => { g with startTimer := none, idleTimer := none }) : Chip) =
      (c.modGen fun g => { g with startTimer := none, idleTimer := none }).untimed := rfl
  have hstop' : (c.untimed.modGen fun g => { g with startTimer := none, idleTimer := none }) =
      (c.modGen fun g => { g with startTimer := none, idleTimer := none }).untimed := rfl
  have hlocked (d : Chip) : d.untimed.modGen (fun g => { g with history := [] }) =
      (d.modGen fun g => { g with history := [] }).untimed := rfl
  have htripped (d : Chip) (l : List Nat) :
      d.untimed.modGen (fun g => { g with history := l, holdTimer := some (Timer.start (1000 * g.tripHold)) }) =
        (d.modGen fun g => { g with history := l, holdTimer := some (Timer.start (1000 * g.tripHold)) }).untimed := rfl
  simp only [tripGen, Chip.untimed_gen_recent, hstop', openRelays_untimed, hlocked, htripped, setGen_untimed, raiseFault_untimed]
  rw [← apply_ite Chip.untimed, Chip.untimed_rsc]
  exact foldl_untimed _ (fun d y => shedLine_untimed d y .trip) _ _

@[simp] theorem startRequest_untimed : startRequest c.untimed = (startRequest c).untimed := by
  have hstart (d : Chip) : d.untimed.modGen (fun g => { g with startTimer := some (Timer.start g.startTime) }) =
      (d.modGen fun g => { g with startTimer := some (Timer.start g.startTime) }).untimed := rfl
  simp [startRequest, hstart, setGen_untimed, tripGen_untimed, apply_ite Chip.untimed]

@[simp] theorem admitRing_untimed (e : RingWait) (p : PlanNo) (segs : Plan) (copy : Vector Word 8) (k : Nat) :
    admitRing e p segs copy k c.untimed = (admitRing e p segs copy k c).untimed := by
  simp [admitRing]
  rfl

theorem tryAdmit_untimed (e : RingWait) : tryAdmit e c.untimed = (tryAdmit e c).map Chip.untimed := by
  cases hp : e.plan with
  | none => simp only [tryAdmit, hp, Option.map_none]
  | some p =>
    cases hr : c.record e.line with
    | none => simp only [tryAdmit, hp, Chip.untimed_record, hr, Option.map_none]
    | some copy =>
      cases hs : c.ctb.active[p] with
      | none => simp only [tryAdmit, hp, Chip.untimed_record, hr, Chip.untimed_ctb, hs, Option.map_none]
      | some segs =>
        simp only [tryAdmit, hp, Chip.untimed_record, hr, Chip.untimed_ctb, hs, Chip.untimed_shc, Chip.untimed_rsc,
          admitRing_untimed, Option.map_map, Function.comp_def]

theorem walkFrom_untimed (l : List RingWait) (c : Chip) : walkFrom l c.untimed = (walkFrom l c).untimed := by
  induction l generalizing c with
  | nil => rfl
  | cons e es ih =>
    simp only [walkFrom, Chip.untimed_ready, Chip.untimed_rsc, tryAdmit_untimed]
    by_cases hr : c.ready e = true
    · cases tryAdmit e c with
      | none => simp [hr, ih, apply_ite Chip.untimed]
      | some d => simp [hr, ih]
    · simp [hr, ih]

@[simp] theorem walk_untimed : walk c.untimed = (walk c).untimed := by
  simp only [walk, Chip.untimed_gen_state]
  split
  · exact walkFrom_untimed _ c
  · simp [apply_ite Chip.untimed]
  · rfl
  · rfl
  · rfl

@[simp] theorem removeAlloc_untimed : removeAlloc x c.untimed = (removeAlloc x c).untimed := by
  simp only [removeAlloc, Chip.untimed_alloc]
  split
  · simp
  · rfl

/-! ### Slots and records (03, 04, 07, 09) -/

/-- An update made on a condition commutes with stopping the timer if it does where the condition holds. -/
theorem untimed_ite {P : Prop} [Decidable P] {d d' e e' : Chip} (hd : d' = d.untimed) (he : e' = e.untimed) :
    (if P then d' else e') = (if P then d else e).untimed := by
  rw [hd, he, apply_ite Chip.untimed]

@[simp] theorem dropValid_untimed : dropValid x i c.untimed = (dropValid x i c).untimed := by
  simp only [dropValid, Chip.untimed_slot, Chip.untimed_taking]
  by_cases hlost : ((!(c.slot i).ctx.buffer.isEmpty || (c.slot i).ctx.mark.isSome) && !c.taking) = true <;>
    by_cases hmark : ((c.slot i).refetch || (c.slot i).failed) = true <;>
    simp only [hlost, hmark, if_true, Bool.false_eq_true, if_false] <;> rfl

@[simp] theorem dropFetching_untimed : dropFetching x i c.untimed = (dropFetching x i c).untimed := by
  simp [dropFetching, apply_ite Chip.untimed]

/-- An operation's chip and its answer, with the idle stop timer of the chip stopped. -/
def untimedFst {α : Type} (r : Chip × α) : Chip × α := (r.1.untimed, r.2)

@[simp] theorem untimedFst_fst {α : Type} (r : Chip × α) : (untimedFst r).1 = r.1.untimed := rfl
@[simp] theorem untimedFst_snd {α : Type} (r : Chip × α) : (untimedFst r).2 = r.2 := rfl

@[simp] theorem dropSlot_untimed : dropSlot x c.untimed = untimedFst (dropSlot x c) := by
  simp only [dropSlot, Chip.untimed_line, Chip.untimed_slot]
  split
  · split <;> simp [untimedFst]
  · rfl

@[simp] theorem bindSlot_untimed : bindSlot i x c.untimed = (bindSlot i x c).untimed := by
  simp only [bindSlot, Chip.untimed_slot]
  split <;> rfl

@[simp] theorem markFailed_untimed : markFailed x c.untimed = (markFailed x c).untimed := by
  simp only [markFailed, Chip.untimed_line]
  split <;> rfl

@[simp] theorem applyDialTone_untimed : applyDialTone x c.untimed = (applyDialTone x c).untimed := by
  have htone : giveDialTone x c.untimed = (giveDialTone x c).untimed := rfl
  simp [applyDialTone, htone]

theorem refuseSeizure_untimed : refuseSeizure x c.untimed = untimedFst (refuseSeizure x c) := by
  simp [refuseSeizure, untimedFst]

theorem acceptRing_untimed (copy : Vector Word 8) : acceptRing x copy c.untimed = (acceptRing x copy c).untimed := by
  simp [acceptRing]

theorem refuseRing_untimed (w : RingFail) (p : Nat) : refuseRing x w p c.untimed = untimedFst (refuseRing x w p c) := by
  by_cases hw : w = .record <;> simp [refuseRing, untimedFst, hw]

theorem acceptRecall_untimed (copy : Vector Word 8) : acceptRecall x copy c.untimed = (acceptRecall x copy c).untimed := by
  simp only [acceptRecall]
  split_ifs <;> rfl

theorem refuseRecall_untimed : refuseRecall x c.untimed = untimedFst (refuseRecall x c) := by
  simp [refuseRecall]

@[simp] theorem takeRecord_untimed : takeRecord x c.untimed = untimedFst (takeRecord x c) := by
  simp only [takeRecord, Chip.untimed_record, Chip.untimed_line, Chip.untimed_entry, Chip.untimed_planPresent,
    applyDialTone_untimed, refuseSeizure_untimed, acceptRing_untimed, refuseRing_untimed, acceptRecall_untimed,
    refuseRecall_untimed]
  split
  · rfl
  · split
    · split_ifs <;> rfl
    · split
      · rfl
      · split_ifs <;> rfl
    · split_ifs <;> rfl
    · rfl

@[simp] theorem takeGrant_untimed : takeGrant i x c.untimed = untimedFst (takeGrant i x c) := by
  simp only [takeGrant, modEntry_eq, modRsc_untimed, takeRecord_untimed, Chip.untimed_slot]
  split_ifs <;> rfl

theorem settleFreed_untimed (n : Nat) (i : SlotNo) (c : Chip) : settleFreed n i c.untimed = (settleFreed n i c).untimed := by
  induction n generalizing i c with
  | zero => rfl
  | succ n ih =>
    simp only [settleFreed, Chip.untimed_sst, Chip.untimed_slot, setWaitList_untimed, bindSlot_untimed, takeGrant_untimed]
    split
    · rfl
    · next e rest hw =>
      by_cases hf : (c.slot i).free = true
      · rw [if_pos hf, if_pos hf]
        obtain ⟨d, o⟩ := takeGrant i e.line (bindSlot i e.line (c.setWaitList rest))
        cases o with
        | none => rfl
        | some j => exact ih j d
      · rw [if_neg hf, if_neg hf]

@[simp] theorem grantFreed_untimed (r : Chip × Option SlotNo) : grantFreed (untimedFst r) = (grantFreed r).untimed := by
  obtain ⟨d, o⟩ := r
  cases o with
  | none => rfl
  | some i => exact settleFreed_untimed _ i d

@[simp] theorem releaseSlot_untimed : releaseSlot x c.untimed = (releaseSlot x c).untimed := by
  simp [releaseSlot]

@[simp] theorem requestSlot_untimed (p : Purpose) (k : LineClass) : requestSlot x p k c.untimed = (requestSlot x p k c).untimed := by
  simp only [requestSlot, modLine_untimed, Chip.untimed_shc, Chip.untimed_chooseSlot, Chip.untimed_sst]
  by_cases hrun : c.shc.run = .starting
  · simp [hrun]
  · simp only [Chip.modLine_shc, hrun, if_false]
    split
    · simp
    · rfl

/-! ### Digits (03) -/

theorem writeDigits_untimed (ds : List Digit) (f : Option EndFlag) :
    writeDigits x ds f c.untimed = untimedFst (writeDigits x ds f c) := by
  by_cases ht : c.taking = true
  · by_cases hf : c.jwr.full = true <;> simp [writeDigits, ht, hf, untimedFst, beginStall_untimed]
  · simp [writeDigits, ht, untimedFst]

theorem flushRecords_untimed (f : EndFlag) (b n : Nat) (ds : List Digit) (c : Chip) :
    flushRecords x f b n ds c.untimed = untimedFst (flushRecords x f b n ds c) := by
  induction n generalizing ds c with
  | zero => rfl
  | succ n ih =>
    simp only [flushRecords, writeDigits_untimed, untimedFst_fst, untimedFst_snd, ih]
    split
    · split <;> rfl
    · rfl

@[simp] theorem terminalFlush_untimed (f : EndFlag) : terminalFlush x f c.untimed = (terminalFlush x f c).untimed := by
  simp only [terminalFlush, flushUpTo, Chip.untimed_ctx]
  cases hk : c.ctx x with
  | none => rfl
  | some k =>
    simp only [Chip.untimed_blockSize, flushRecords_untimed]
    generalize flushRecords x f (c.blockSize x) _ _ c = r
    obtain ⟨d, left⟩ := r
    cases left with
    | none => exact modCtx_untimed ..
    | some held => exact modCtx_untimed ..

@[simp] theorem dropPulses_untimed : dropPulses x c.untimed = (dropPulses x c).untimed := modCtx_untimed ..
@[simp] theorem stopDialling_untimed : stopDialling x c.untimed = (stopDialling x c).untimed := rfl
@[simp] theorem enterRouting_untimed : enterRouting x c.untimed = (enterRouting x c).untimed := rfl
@[simp] theorem enterUnequipped_untimed : enterUnequipped x c.untimed = (enterUnequipped x c).untimed := rfl
@[simp] theorem setTone_untimed (t : Tone) : setTone x t c.untimed = (setTone x t c).untimed := rfl
@[simp] theorem setSt_untimed (st : LineSt) : setSt x st c.untimed = (setSt x st c).untimed := rfl
@[simp] theorem dropEntry_untimed : dropEntry x c.untimed = (dropEntry x c).untimed := rfl
@[simp] theorem toMru_untimed : toMru i c.untimed = (toMru i c).untimed := rfl

@[simp] theorem startDialling_untimed : startDialling x c.untimed = (startDialling x c).untimed := rfl

end

/-! ### The orders -/

section
variable (c : Chip) (x : LineNo)

theorem startRing_untimed (party : Nat) (plan : Option PlanNo) (cycles : Nat) (cls : LineClass) (notBefore : Option Nat) :
    startRing x party plan cycles cls notBefore c.untimed = (startRing x party plan cycles cls notBefore c).untimed := by
  simp [startRing]

theorem orderRing_untimed (party : Nat) (plan : Option PlanNo) (cycles : Nat) (priority : Bool) :
    orderRing x party plan cycles priority c.untimed = untimedFst (orderRing x party plan cycles priority c) := by
  simp only [orderRing, Chip.untimed_line, startRing_untimed]
  split
  case h_2 => split_ifs <;> rfl
  all_goals rfl

theorem orderStopRing_untimed : orderStopRing x c.untimed = untimedFst (orderStopRing x c) := by
  simp only [orderStopRing, Chip.untimed_line, removeAlloc_untimed, dropEntry_untimed, releaseSlot_untimed, enterIdle_untimed,
    enterPostRingGuard_untimed]
  split <;> rfl

theorem orderDigitSeen_untimed : orderDigitSeen x c.untimed = untimedFst (orderDigitSeen x c) := by
  by_cases hsig : (c.line x).sig = .pulse
  · simp only [orderDigitSeen, Chip.untimed_line, hsig, if_true]; rfl
  · by_cases hst : (c.line x).st = .dialTone <;>
      simp only [orderDigitSeen, Chip.untimed_line, hsig, hst, if_true, if_false] <;> rfl

theorem orderEnddial_untimed : orderEnddial x c.untimed = untimedFst (orderEnddial x c) := by
  simp only [orderEnddial, Chip.untimed_line, dropPulses_untimed, stopDialling_untimed, terminalFlush_untimed,
    enterRouting_untimed]
  split <;> rfl

theorem orderConnect_untimed : orderConnect x c.untimed = untimedFst (orderConnect x c) := by
  simp only [orderConnect, Chip.untimed_line, Chip.untimed_holdsDigits, Chip.untimed_accepted, dropPulses_untimed,
    stopDialling_untimed, terminalFlush_untimed]
  split
  · rw [untimed_ite rfl rfl, setTone_untimed, releaseSlot_untimed, enterTalk_untimed]; rfl
  · rw [untimed_ite rfl rfl, setTone_untimed, releaseSlot_untimed, enterTalk_untimed]; rfl
  · rfl

theorem orderTone_untimed (t : Tone) : orderTone x t c.untimed = untimedFst (orderTone x t c) := by
  simp only [orderTone, Chip.untimed_line, setTone_untimed]
  split <;> rfl

theorem orderClear_untimed : orderClear x c.untimed = untimedFst (orderClear x c) := by
  simp only [orderClear, Chip.untimed_line, setTone_untimed, releaseSlot_untimed, enterParked_untimed,
    enterReleaseGuard_untimed]
  split
  case h_1 | h_2 | h_3 | h_4 | h_5 => split <;> rfl
  all_goals rfl

theorem orderBlock_untimed : orderBlock x c.untimed = untimedFst (orderBlock x c) := by
  simp only [orderBlock, Chip.untimed_line, setSt_untimed, setTone_untimed]
  split <;> rfl

theorem orderUnblock_untimed : orderUnblock x c.untimed = untimedFst (orderUnblock x c) := by
  simp only [orderUnblock, Chip.untimed_line, enterIdle_untimed, enterParked_untimed, enterUnequipped_untimed]
  split
  · split
    · rfl
    · split <;> rfl
  · rfl
  · rfl

theorem orderLockSlot_untimed : orderLockSlot x c.untimed = untimedFst (orderLockSlot x c) := by
  simp only [orderLockSlot, Chip.untimed_lockedTo, Chip.untimed_lockedCount, Chip.untimed_ownCopy, Chip.untimed_sst,
    Chip.untimed_slot, modSlot_untimed, setLock_untimed, toMru_untimed]
  split
  · rfl
  · by_cases hfull : Config.lockLimit ≤ c.lockedCount
    · simp only [hfull, if_true]; rfl
    · simp only [hfull, if_false]
      split
      · rfl
      · split <;> rfl

theorem orderUnlockSlot_untimed : orderUnlockSlot x c.untimed = untimedFst (orderUnlockSlot x c) := by
  simp only [orderUnlockSlot, Chip.untimed_lockedTo, setLock_untimed, toMru_untimed]
  split
  · next i hi =>
    exact congrArg (·, Result.ok) (grantFreed_untimed (toMru i (setLock i none c), some i))
  · rfl

theorem orderFreeLocks_untimed : orderFreeLocks c.untimed = untimedFst (orderFreeLocks c) := by
  exact congrArg (·, Result.ok) (foldl_untimed _ (fun d i => grantFreed_untimed (d, some i)) _
    { c with sst := { c.sst with slots := mapEach (v := c.sst.slots) fun s => { s with lock := none } } })

theorem orderReloadPlan_untimed (p : PlanNo) : orderReloadPlan p c.untimed = untimedFst (orderReloadPlan p c) := by
  by_cases hused : c.planInUse p = true <;> simp only [orderReloadPlan, Chip.untimed_planInUse, hused, if_true] <;> rfl

theorem orderGenReset_untimed : orderGenReset c.untimed = untimedFst (orderGenReset c) := by
  simp only [orderGenReset, Chip.untimed_gen_state, setGen_untimed, Chip.untimed_demand, startRequest_untimed]
  split_ifs <;> rfl

theorem withResult_untimed (r : Chip × Result) : withResult (untimedFst r) = (withResult r).untimed := rfl

theorem handOver_untimed (k : OrderKind) (o : OrderCopy) : handOver k o c.untimed = (handOver k o c).untimed := by
  cases k with
  | ring => simp only [handOver, orderRing_untimed, withResult_untimed]
  | stopRing => simp only [handOver, orderStopRing_untimed, withResult_untimed]
  | digitSeen => simp only [handOver, orderDigitSeen_untimed, withResult_untimed]
  | enddial => simp only [handOver, orderEnddial_untimed, withResult_untimed]
  | connect => simp only [handOver, orderConnect_untimed, withResult_untimed]
  | tone => simp only [handOver, orderTone_untimed, withResult_untimed]
  | clear => simp only [handOver, orderClear_untimed, withResult_untimed]
  | block => simp only [handOver, orderBlock_untimed, withResult_untimed]
  | unblock => simp only [handOver, orderUnblock_untimed, withResult_untimed]
  | lockSlot => simp only [handOver, orderLockSlot_untimed, withResult_untimed]
  | unlockSlot => simp only [handOver, orderUnlockSlot_untimed, withResult_untimed]
  | freeLocks => simp only [handOver, orderFreeLocks_untimed, withResult_untimed]
  | invalidate => exact untimed_ite rfl rfl
  | reloadPlan =>
    simp only [handOver, orderReloadPlan_untimed, untimedFst_fst, untimedFst_snd]
    split <;> rfl
  | setCapacity => rfl
  | powerMode => rfl
  | genReset => simp only [handOver, orderGenReset_untimed, withResult_untimed]

theorem takeOrder_untimed (o : OrderCopy) : takeOrder o c.untimed = (takeOrder o c).untimed := by
  have hvalid : validate o (copyOrder o c).untimed = validate o (copyOrder o c) := rfl
  simp only [takeOrder, copyOrder_untimed, hvalid]
  split
  · rfl
  · exact handOver_untimed _ _ _

/-- Where the generator was not idle, the timer is set anew or stopped: it does not matter how it stood. -/
theorem settle_untimed {c0 : Chip} (h : c0.genIdle = false) (d : Chip) : settle c0 d.untimed = settle c0 d := by
  have hidle : d.untimed.genIdle = d.genIdle := rfl
  simp only [settle, settleIdle, hidle, h]
  split <;> rfl

end

end Sys2Proof.Machine
end

section
/-! SUPPORT. A row of accesses of the Order Reader: crossed by a request of a higher class it stops, alone it goes on (10 R160). -/

namespace Sys2Proof.Machine

section
variable {u : Chip → Bool} {one : State → Out} {s t : State}

/-- A row that an access brings to where the next changes nothing ends there, however many accesses it may make. -/
theorem accesses_stuck (h : one s = .next s) (more : Nat) : accesses u one more s = .next s := by
  induction more with
  | zero => exact h
  | succ more ih =>
    by_cases hu : u s.chip = true
    · rw [accesses_succ h hu, ih]
    · exact accesses_done h (Bool.eq_false_iff.2 hu) _

/-- A row that makes one access: no more are allowed it, or the next one changes nothing. -/
theorem accesses_once (h : one s = .next t) {more : Nat} (hend : more = 0 ∨ one t = .next t) :
    accesses u one more s = .next t := by
  cases more with
  | zero => exact h
  | succ more =>
    have hstuck := hend.resolve_left (Nat.succ_ne_zero more)
    by_cases hu : u t.chip = true
    · rw [accesses_succ h hu, accesses_stuck hstuck]
    · exact accesses_done h (Bool.eq_false_iff.2 hu) _

/-- A row of two accesses. -/
theorem accesses_twice {v : State} (h : one s = .next t) (hway : u t.chip = true) (h' : one t = .next v)
    (hend : u v.chip = false) {more : Nat} (hmore : 1 ≤ more) : accesses u one more s = .next v := by
  obtain ⟨m, rfl⟩ : ∃ m, more = m + 1 := ⟨more - 1, by omega⟩
  rw [accesses_succ h hway, accesses_done h' hend]

end

/-- A request of a higher class than the Order Reader's waits (10 R160). -/
def Chip.Crossed (c : Chip) : Prop := c.journalWants = true ∨ ∃ b, c.readWants = some b ∧ b ≠ .order

/-- No request of a higher class than the Order Reader's waits, on a shelf that runs (10 R160). -/
structure Chip.OrderAlone (c : Chip) : Prop where
  journal : c.journalWants = false
  reads : c.readWants = none
  run : c.shc.run = .running

section
variable {d : Chip}

/-- A request of a higher class comes between (10 R160). -/
theorem Chip.Crossed.settle_serves (h : d.Crossed) (hbusy : d.mpt.busy = none) (c : Chip) :
    (settle c d).serves .order = false := by
  have hnext : (settle c d).mpt.busy = d.nextAccess := by rw [settle_busy, hbusy]
  have hne : d.nextAccess ≠ some .order := by
    by_cases hj : d.journalWants = true
    · simp [Chip.nextAccess, hj]
    · obtain ⟨b, hb, hbo⟩ := h.resolve_left hj
      simpa [Chip.nextAccess, hj, hb] using hbo
  rw [Chip.serves, hnext]
  exact beq_eq_false_iff_ne.2 hne

/-- Without another request the Order Reader's next access follows (10 R160). -/
theorem Chip.OrderAlone.settle_serves (h : d.OrderAlone) (hbusy : d.mpt.busy = none) (hw : d.orderWants = true) (c : Chip) :
    (settle c d).serves .order = true := by
  have hnext : (settle c d).mpt.busy = some .order := by
    rw [settle_busy, hbusy]
    simp [Chip.nextAccess, h.journal, h.reads, hw]
  exact beq_iff_eq.2 hnext

end

end Sys2Proof.Machine
end

section
/-! SUPPORT. ORDER_CELL_VISIT and ORDER_DONE, access by access (10 R148 to R150). -/

namespace Sys2Proof.Machine

/-- The next cell, or the end of the pass (10 R149). -/
theorem Ord.advance_eq (o : Ord) :
    o.advance =
      { o with
        inPass := if o.pos = 31 then (o.pos == 31 && timerDue o.timer) else o.inPass
        pos := if o.pos = 31 then 0 else o.pos + 1
        timer := if (o.pos == 31 && timerDue o.timer) = true then some ⟨0, o.period⟩ else o.timer } := by
  by_cases hp : o.pos = 31
  · by_cases ht : timerDue o.timer = true <;> simp [Ord.advance, hp, ht, Ord.beginPass, Timer.start]
  · simp [Ord.advance, hp]

section
variable {s : State} {k : CellNo}

/-- The state after the Order Reader has made an access that changed it by `f` and wrote the RAM. -/
def State.ordered (s : State) (f : Ord → Ord) (m : Memory) : State :=
  { s with chip := settle s.chip ((release s.chip).modOrd f), ram := m }

@[simp] theorem State.ordered_ord (f : Ord → Ord) (m : Memory) : (s.ordered f m).chip.ord = f s.chip.ord := by
  rw [State.ordered, settle_ord]
  rfl

@[simp] theorem State.ordered_ram (f : Ord → Ord) (m : Memory) : (s.ordered f m).ram = m := rfl

@[simp] theorem State.ordered_shc (f : Ord → Ord) (m : Memory) : (s.ordered f m).chip.shc = s.chip.shc := by
  rw [State.ordered, settle_shc]
  rfl

theorem State.ordered_only (f : Ord → Ord) : OnlyChanges [.orders] s (s.ordered f s.ram) :=
  OnlyChanges.of_chip (fun _ => rfl) (fun _ => rfl) (fun _ => rfl) (fun _ => rfl) (fun _ => rfl) (fun _ => rfl)
    (by simp) (fun _ => rfl) (fun _ => rfl) (fun _ => rfl) (fun _ => rfl)

theorem State.ordered_only_ram (f : Ord → Ord) (m : Memory) : OnlyChanges [.orders, .ram] s (s.ordered f m) :=
  OnlyChanges.of_chip (fun _ => rfl) (fun _ => rfl) (fun _ => rfl) (fun _ => rfl) (fun _ => rfl) (fun _ => rfl)
    (by simp) (fun _ => rfl) (fun _ => rfl) (fun _ => rfl) (by simp)

@[simp] theorem State.ordered_cellAddr (f : Ord → Ord) (m : Memory) (k : CellNo) :
    (s.ordered f m).chip.cellAddr k = s.chip.cellAddr k := by
  simp only [Chip.cellAddr, Chip.base, State.ordered_shc]

/-- After an access of the Order Reader a request of a higher class, if one waits, is served. -/
theorem State.ordered_serves_of_crossed (h : s.chip.Crossed) (f : Ord → Ord) (m : Memory) :
    (s.ordered f m).chip.serves .order = false :=
  Chip.Crossed.settle_serves (d := (release s.chip).modOrd f) h rfl _

/-- After an access of the Order Reader, no other request waiting, its next is served. -/
theorem State.ordered_serves_of_alone (h : s.chip.OrderAlone) (f : Ord → Ord) (m : Memory)
    (hw : ((release s.chip).modOrd f).orderWants = true) : (s.ordered f m).chip.serves .order = true :=
  Chip.OrderAlone.settle_serves (d := (release s.chip).modOrd f) ⟨h.journal, h.reads, h.run⟩ rfl hw _

/-! ### The visit of a cell -/

theorem visitAccess_posted (hcell : s.chip.ord.cell = none) (hserves : s.chip.serves .order = true)
    (hfit : s.chip.cellAddr s.chip.ord.pos + 8 ≤ Config.ramWords) (hw : readWord s.ram (s.chip.cellAddr s.chip.ord.pos) = 1) :
    visitAccess s = .next (s.ordered Ord.hold s.ram) := by
  simp only [visitAccess, hcell, hserves, if_true, inRam_of_le hfit, hw]
  rfl

theorem visitAccess_other (hcell : s.chip.ord.cell = none) (hserves : s.chip.serves .order = true)
    (hfit : s.chip.cellAddr s.chip.ord.pos + 8 ≤ Config.ramWords) (hw : readWord s.ram (s.chip.cellAddr s.chip.ord.pos) ≠ 1) :
    visitAccess s = .next (s.ordered Ord.advance s.ram) := by
  have hposted : (readWord s.ram (s.chip.cellAddr s.chip.ord.pos)).toNat ≠ cellPosted := fun h =>
    hw (BitVec.eq_of_toNat_eq h)
  simp only [visitAccess, hcell, hserves, if_true, inRam_of_le hfit, hposted, if_false]
  rfl

/-- TAKEN is written to the cell in hand (10 R150 step 1). -/
def State.cellTaken (s : State) (k : CellNo) : State :=
  s.ordered (fun o => { o with stage := .taken }) (writeWord s.ram (s.chip.cellAddr k) 2)

theorem visitAccess_found (hcell : s.chip.ord.cell = some k) (hserves : s.chip.serves .order = true)
    (hstage : s.chip.ord.stage = .found) (hfit : s.chip.cellAddr k + 8 ≤ Config.ramWords) :
    visitAccess s = .next (s.cellTaken k) := by
  simp only [visitAccess, hcell, hserves, hstage, and_self, if_true, inRam_of_le hfit]
  rfl

/-- A cell in hand is not visited while the Order Reader is not served. -/
theorem visitAccess_stay (hcell : s.chip.ord.cell = some k) (hserves : s.chip.serves .order = false) :
    visitAccess s = .next s := by
  simp only [visitAccess, hcell, hserves, Bool.false_eq_true, false_and, if_false]
  rfl

end

/-! ### The result and DONE -/

section
variable {s : State} {k : CellNo} {r : Result}

/-- The plans as the result leaves them: the plan that RELOAD_PLAN has read is staged (05 R79). -/
def Chip.stagedWithResult (c : Chip) : Ctb :=
  match c.ord.staging with
  | some (p, segs) => { c.ctb with staged := c.ctb.staged.set p (some segs) }
  | none => c.ctb

theorem resultWritten_eq (c : Chip) :
    resultWritten c = { c with ord := { c.ord with stage := .answered, staging := none }, ctb := c.stagedWithResult } := by
  cases h : c.ord.staging with
  | none => simp only [resultWritten, Chip.stagedWithResult, h]; rfl
  | some q => simp only [resultWritten, Chip.stagedWithResult, h]; rfl

/-- The state after the result was written (10 R150 step 5). -/
def State.resultTold (s : State) (k : CellNo) (r : Result) : State :=
  { s with chip := settle s.chip (resultWritten (release s.chip)), ram := writeWord s.ram (s.chip.cellAddr k + 6) (word r.code) }

/-- The state after DONE was written (10 R150 step 5). -/
def State.cellDone (s : State) (k : CellNo) : State :=
  { s with
    chip := settle s.chip (setAttention attnOrderDone ((release s.chip).modOrd Ord.finished))
    ram := writeWord s.ram (s.chip.cellAddr k) 3 }

theorem doneAccess_taken (hcell : s.chip.ord.cell = some k) (hr : s.chip.ord.result = some r)
    (hserves : s.chip.serves .order = true) (hstage : s.chip.ord.stage = .taken)
    (hfit : s.chip.cellAddr k + 8 ≤ Config.ramWords) : doneAccess s = .next (s.resultTold k r) := by
  simp only [doneAccess, hcell, hr, hserves, hstage, ne_eq, reduceCtorEq, not_false_eq_true, and_self, if_true, if_false,
    inRam_of_le hfit]
  rfl

theorem doneAccess_answered (hcell : s.chip.ord.cell = some k) (hr : s.chip.ord.result = some r)
    (hserves : s.chip.serves .order = true) (hstage : s.chip.ord.stage = .answered)
    (hfit : s.chip.cellAddr k + 8 ≤ Config.ramWords) : doneAccess s = .next (s.cellDone k) := by
  simp only [doneAccess, hcell, hr, hserves, hstage, ne_eq, reduceCtorEq, not_false_eq_true, and_self, if_true,
    inRam_of_le hfit]
  rfl

/-- Nothing is written while the Order Reader is not served. -/
theorem doneAccess_stay (hcell : s.chip.ord.cell = some k) (hr : s.chip.ord.result = some r)
    (hserves : s.chip.serves .order = false) : doneAccess s = .next s := by
  simp only [doneAccess, hcell, hr, hserves, Bool.false_eq_true, false_and, if_false]
  rfl

theorem State.resultTold_ord :
    (s.resultTold k r).chip.ord = { s.chip.ord with stage := .answered, staging := none } := by
  rw [State.resultTold, settle_ord, resultWritten_eq]
  rfl

theorem State.resultTold_ctb : (s.resultTold k r).chip.ctb = s.chip.stagedWithResult := by
  rw [State.resultTold, settle_ctb, resultWritten_eq]
  rfl

theorem State.resultTold_shc : (s.resultTold k r).chip.shc = s.chip.shc := by
  rw [State.resultTold, settle_shc, resultWritten_eq]
  rfl

theorem State.resultTold_only : OnlyChanges [.orders, .timebase, .ram] s (s.resultTold k r) := by
  rw [State.resultTold, resultWritten_eq]
  exact OnlyChanges.of_chip (fun _ => rfl) (fun _ => rfl) (fun _ => rfl) (by simp) (fun _ => rfl) (fun _ => rfl)
    (by simp) (fun _ => rfl) (fun _ => rfl) (fun _ => rfl) (by simp)

theorem State.resultTold_serves_of_crossed (h : s.chip.Crossed) : (s.resultTold k r).chip.serves .order = false := by
  rw [State.resultTold, resultWritten_eq]
  exact Chip.Crossed.settle_serves (d := { release s.chip with ord := _, ctb := _ }) h rfl _

theorem State.resultTold_serves_of_alone (h : s.chip.OrderAlone) (hcell : s.chip.ord.cell = some k) :
    (s.resultTold k r).chip.serves .order = true := by
  have hwants : (resultWritten (release s.chip)).orderWants = true := by
    have hrun : (release s.chip).shc.run = .running := h.run
    have hheld : (release s.chip).ord.cell = some k := hcell
    rw [resultWritten_eq]
    simp [Chip.orderWants, hrun, hheld]
  have halone : (resultWritten (release s.chip)).OrderAlone := by
    rw [resultWritten_eq]
    exact ⟨h.journal, h.reads, h.run⟩
  refine halone.settle_serves ?_ hwants _
  rw [resultWritten_eq]
  rfl

theorem State.resultTold_cellAddr : (s.resultTold k r).chip.cellAddr k = s.chip.cellAddr k := by
  simp only [Chip.cellAddr, Chip.base, State.resultTold_shc]

theorem State.cellDone_ord : (s.cellDone k).chip.ord = s.chip.ord.finished := by
  rw [State.cellDone, settle_ord]
  rfl

theorem State.cellDone_ctb : (s.cellDone k).chip.ctb = s.chip.ctb := by
  rw [State.cellDone, settle_ctb]
  rfl

theorem State.cellDone_shc :
    (s.cellDone k).chip.shc = { s.chip.shc with attention := s.chip.shc.attention ||| attnOrderDone } := by
  rw [State.cellDone, settle_shc]
  rfl

theorem State.cellDone_only : OnlyChanges [.orders, .shelf, .ram] s (s.cellDone k) :=
  OnlyChanges.of_chip (fun _ => rfl) (fun _ => rfl) (fun _ => rfl) (fun _ => rfl) (fun _ => rfl) (fun _ => rfl)
    (by simp) (fun _ => rfl) (fun _ => rfl) (by simp) (by simp)

/-- A finished order ends its cell's row. -/
theorem Ord.finished_cell (o : Ord) : o.finished.cell = none := by
  rw [Ord.finished, Ord.advance_eq]

end

end Sys2Proof.Machine
end

section
/-! SUPPORT. What an order that is taken leaves alone, and what the Order Reader holds of it (10 R150). -/

namespace Sys2Proof.Machine

/-- An order handed to its block: the block touches lines, slots, ringing, journal, plans and requests, and the Order Reader has a
result or work in hand. -/
structure Chip.HandsOver (c d : Chip) : Prop where
  quiet : Quiet { c with sst := d.sst, mpt := d.mpt, ctb := d.ctb, ord := d.ord } d
  ord : (∃ r, d.ord = { c.ord with result := some r }) ∨ ∃ w, d.ord = { c.ord with work := some w }

section
variable {c d e : Chip}

/-- A quiet operation is quiet whatever the store, the plans, the requests and the Order Reader held before. -/
theorem Quiet.withStore (h : Quiet d e) (hshc : d.shc = c.shc) (hsets : d.sets = c.sets) (hjwr : d.jwr = c.jwr) (o : Ord) :
    Quiet { c with sst := e.sst, mpt := e.mpt, ctb := e.ctb, ord := o } { e with ord := o } where
  shc := hshc ▸ h.shc
  sets := h.sets.trans hsets
  ctb := rfl
  ord := rfl
  last := rfl
  coreReads := rfl
  index := h.index.trans (congrArg Jwr.index hjwr)
  seq := h.seq.trans (congrArg Jwr.seq hjwr)
  opened := h.opened.trans (congrArg Jwr.opened hjwr)
  page := h.page.trans (congrArg Jwr.page hjwr)
  used := h.used.trans (congrArg Jwr.used hjwr)
  written := h.written.trans (congrArg Jwr.written hjwr)
  closing := h.closing.trans (congrArg Jwr.closing hjwr)
  lru := id
  locks := fun _ => rfl
  own := fun _ => id

/-- An order completed at its hand-over by a quiet operation. -/
theorem Quiet.handsOver {r : Chip × Result} (h : Quiet d r.1) (hshc : d.shc = c.shc) (hsets : d.sets = c.sets)
    (hjwr : d.jwr = c.jwr) (hord : d.ord = c.ord) : c.HandsOver (withResult r) :=
  ⟨h.withStore hshc hsets hjwr _, .inl ⟨r.2, by rw [← hord, ← h.ord]; rfl⟩⟩

theorem Quiet.handsOver_self {r : Chip × Result} (h : Quiet c r.1) : c.HandsOver (withResult r) :=
  h.handsOver rfl rfl rfl rfl

theorem orderLockSlot_handsOver (x : LineNo) : c.HandsOver (withResult (orderLockSlot x c)) := by
  have hstore (d : Chip) (r : Result) (hlines : d = { c with sst := d.sst }) : c.HandsOver (withResult (d, r)) :=
    (Quiet.refl d).handsOver (by rw [hlines]) (by rw [hlines]) (by rw [hlines]) (by rw [hlines])
  unfold orderLockSlot
  split
  · exact hstore _ _ rfl
  · split
    · exact hstore _ _ rfl
    · split
      · exact hstore _ _ rfl
      · split
        · exact hstore _ _ rfl
        · exact hstore _ _ rfl

theorem orderUnlockSlot_handsOver (x : LineNo) : c.HandsOver (withResult (orderUnlockSlot x c)) := by
  unfold orderUnlockSlot
  split
  · next i _ =>
    have hquiet : Quiet (toMru i (setLock i none c)) (grantFreed (toMru i (setLock i none c), some i)) :=
      Quiet.grantFreed (Quiet.refl _)
    exact Quiet.handsOver (r := (_, .ok)) hquiet rfl rfl rfl rfl
  · exact (Quiet.refl c).handsOver_self (r := (c, .ok))

theorem orderReloadPlan_handsOver (p : PlanNo) :
    c.HandsOver (match (orderReloadPlan p c).2 with
      | some v => setResult v (orderReloadPlan p c).1
      | none => (orderReloadPlan p c).1) := by
  by_cases h : c.planInUse p = true
  · simp only [orderReloadPlan, h, if_true]
    exact (Quiet.refl c).handsOver_self (r := (c, .planInUse))
  · simp only [orderReloadPlan, h]
    exact ⟨(Quiet.refl _).withStore (d := addRequest .reload { c with ord := { c.ord with work := some (.reload p) } }) rfl rfl rfl _,
      .inr ⟨_, rfl⟩⟩

theorem awaitCoreReads_handsOver (p : LineNo → Bool) (xs : List LineNo) : c.HandsOver (awaitCoreReads xs (invalidateSlots p c)) :=
  ⟨(Quiet.refl _).withStore (d := awaitCoreReads xs (invalidateSlots p c)) rfl rfl rfl _, .inr ⟨_, rfl⟩⟩

theorem handOver_handsOver (k : OrderKind) (o : OrderCopy) (c : Chip) : c.HandsOver (handOver k o c) := by
  have q := Quiet.refl c
  unfold handOver
  cases k with
  | ring => exact (q.orderRing _ _ _ _ _).handsOver_self
  | stopRing => exact (q.orderStopRing _).handsOver_self
  | digitSeen => exact (q.orderDigitSeen _).handsOver_self
  | enddial => exact (q.orderEnddial _).handsOver_self
  | connect => exact (q.orderConnect _).handsOver_self
  | tone => exact (q.orderTone _ _).handsOver_self
  | clear => exact (q.orderClear _).handsOver_self
  | block => exact (q.orderBlock _).handsOver_self
  | unblock => exact (q.orderUnblock _).handsOver_self
  | lockSlot => exact orderLockSlot_handsOver _
  | unlockSlot => exact orderUnlockSlot_handsOver _
  | freeLocks => exact (orderFreeLocks_quiet c).handsOver rfl rfl rfl rfl
  | invalidate =>
    dsimp only
    split
    · exact awaitCoreReads_handsOver _ _
    · exact awaitCoreReads_handsOver _ _
  | reloadPlan => exact orderReloadPlan_handsOver _
  | setCapacity => exact Quiet.handsOver_self (r := orderSetCapacity _ _ c) (q.modRsc fun _ => _)
  | powerMode => exact Quiet.handsOver_self (r := orderPowerMode _ c) (q.modRsc fun _ => _)
  | genReset => exact q.orderGenReset.handsOver_self

theorem takeOrder_handsOver (o : OrderCopy) (c : Chip) : (copyOrder o c).HandsOver (takeOrder o c) := by
  unfold takeOrder
  dsimp only
  split
  · exact (Quiet.refl _).handsOver_self (r := (copyOrder o c, _))
  · exact handOver_handsOver _ _ _

/-- An order taken is copied, its words are no longer in hand, and the Order Reader has a result or work (10 R150). -/
theorem takeOrder_ord (o : OrderCopy) (c : Chip) :
    (takeOrder o c).ord.copy = some o ∧ (takeOrder o c).ord.cell = c.ord.cell ∧ (takeOrder o c).ord.read = [] ∧
      ((takeOrder o c).ord.result.isSome = true ∧ (takeOrder o c).ord.work = none ∨
        (takeOrder o c).ord.result = none ∧ (takeOrder o c).ord.work.isSome = true) := by
  obtain ⟨r, hr⟩ | ⟨w, hw⟩ := (takeOrder_handsOver o c).ord
  · rw [hr]
    exact ⟨rfl, rfl, rfl, .inl ⟨rfl, rfl⟩⟩
  · rw [hw]
    exact ⟨rfl, rfl, rfl, .inr ⟨rfl, rfl⟩⟩

/-- What an order read in a cell leaves alone. -/
theorem takeOrder_orderOnly {s t : State} (o : OrderCopy)
    (ht : t = { s with chip := settle s.chip (takeOrder o (release s.chip)) }) :
    OrderOnly { s with chip := { s.chip with sst := t.chip.sst, mpt := t.chip.mpt, ctb := t.chip.ctb } } t := by
  have hquiet := ((takeOrder_handsOver o (release s.chip)).quiet.settle s.chip).withStore (c := s.chip) rfl rfl rfl
  subst ht
  exact ⟨hquiet _, fun _ => rfl, rfl⟩

end

end Sys2Proof.Machine
end

section
/-! SUPPORT. ORDER_TAKEN, word by word (10 R150 steps 2 to 4). -/

namespace Sys2Proof.Machine

/-- What an order reads of the chip: all but the words read, the access in progress, and the idle stop timer of a generator that is
not idle. -/
def Chip.forOrder (c : Chip) : Chip :=
  let d := (release c).modOrd Ord.unread
  if c.genIdle then d else d.untimed

section
variable (c : Chip)

theorem Chip.forOrder_eq :
    c.forOrder =
      { c with
        ord := c.ord.unread
        mpt := { c.mpt with busy := none }
        gen := { c.gen with idleTimer := if c.genIdle then c.gen.idleTimer else none } } := by
  unfold Chip.forOrder
  split
  · rfl
  · rfl

@[simp] theorem Chip.forOrder_genIdle : c.forOrder.genIdle = c.genIdle := by rw [Chip.forOrder_eq]; rfl

theorem settle_congr {c0 c1 : Chip} (h : c0.genIdle = c1.genIdle) (d : Chip) : settle c0 d = settle c1 d := by
  simp only [settle, settleIdle, h]

/-- An order taken and settled depends on what an order reads alone. -/
theorem settle_takeOrder_forOrder (o : OrderCopy) :
    settle c (takeOrder o (release c)) = settle c.forOrder (takeOrder o c.forOrder) := by
  have hread : takeOrder o ((release c).modOrd Ord.unread) = takeOrder o (release c) := rfl
  rw [settle_congr c.forOrder_genIdle]
  cases hidle : c.genIdle with
  | true => rw [Chip.forOrder, hidle, if_pos rfl, hread]
  | false =>
    rw [Chip.forOrder, hidle, if_neg Bool.false_ne_true, takeOrder_untimed, settle_untimed hidle, hread]

/-- The words read are no concern of an order. -/
theorem settle_forOrder (ws : List Word) :
    (settle c ((release c).modOrd fun o => { o with read := ws })).forOrder = c.forOrder := by
  have hidle : ((release c).modOrd fun o => { o with read := ws }).genIdle = c.genIdle := rfl
  have htimer : (if c.genIdle then (settleIdle c ((release c).modOrd fun o => { o with read := ws })).gen.idleTimer else none) =
      if c.genIdle then c.gen.idleTimer else none := by
    cases h : c.genIdle with
    | true => rw [settleIdle, hidle, h]; rfl
    | false => rfl
  have hgen : (settle c ((release c).modOrd fun o => { o with read := ws })).genIdle = c.genIdle := by
    rw [settle_eq]
    rfl
  rw [Chip.forOrder_eq, hgen, settle_eq]
  dsimp only
  rw [htimer, Chip.forOrder_eq]
  rfl

end

/-- The words of an order in a cell, by their place in the order (10 Table 10-8). -/
def State.orderWordAt (s : State) (k : CellNo) (j : Nat) : Word := readWord s.ram (s.chip.cellAddr k + orderOffset j)

/-- The state after an access that read a word of the order and not the last. -/
def State.orderOn (s : State) (k : CellNo) : State :=
  s.ordered (fun o => { o with read := o.read ++ [s.orderWordAt k o.read.length] }) s.ram

section
variable {s v : State} {k : CellNo}

theorem takenAccess_more (h : ReadsCell k s) (hn : s.chip.ord.read.length < 5) : takenAccess s = .next (s.orderOn k) := by
  obtain ⟨hserves, hcell, hstage, hcopy, hresult, hwork, hfit⟩ := h
  have hlen : s.chip.ord.read.length + 1 < 6 := by omega
  simp only [takenAccess, hcell, hserves, hstage, hcopy, hresult, hwork, and_self, if_true, inRam_of_le hfit, List.length_append,
    List.length_singleton, hlen]
  rfl

theorem takenAccess_last (h : ReadsCell k s) (hn : s.chip.ord.read.length = 5) :
    takenAccess s =
      finish s (takeOrder (orderOfWords (s.chip.ord.read ++ [s.orderWordAt k s.chip.ord.read.length])) (release s.chip)) := by
  obtain ⟨hserves, hcell, hstage, hcopy, hresult, hwork, hfit⟩ := h
  simp only [takenAccess, hcell, hserves, hstage, hcopy, hresult, hwork, and_self, if_true, inRam_of_le hfit, List.length_append,
    List.length_singleton, hn, Nat.reduceAdd, Nat.lt_irrefl, if_false]
  rfl

/-- No word is read while the Order Reader is not served. -/
theorem takenAccess_stay (hcell : s.chip.ord.cell = some k) (hserves : s.chip.serves .order = false) :
    takenAccess s = .next s := by
  simp only [takenAccess, hcell, hserves, Bool.false_eq_true, false_and, if_false]
  rfl

theorem State.orderOn_read :
    (s.orderOn k).chip.ord.read = s.chip.ord.read ++ [s.orderWordAt k s.chip.ord.read.length] := by
  rw [State.orderOn, State.ordered_ord]

theorem State.orderOn_orderWordAt : (s.orderOn k).orderWordAt k = s.orderWordAt k := by
  funext j
  rw [State.orderWordAt, State.orderOn, State.ordered_cellAddr]
  rfl

theorem State.orderOn_forOrder : (s.orderOn k).chip.forOrder = s.chip.forOrder := settle_forOrder _ _

/-- No other request waits after a word was read, if none waited before. -/
theorem Chip.OrderAlone.orderOn (h : s.chip.OrderAlone) (k : CellNo) : (s.orderOn k).chip.OrderAlone := by
  rw [State.orderOn, State.ordered, settle_eq]
  exact ⟨h.journal, h.reads, h.run⟩

/-- Without another request the next word is read next. -/
theorem ReadsCell.orderOn (h : ReadsCell k s) (ha : s.chip.OrderAlone) : ReadsCell k (s.orderOn k) := by
  obtain ⟨hserves, hcell, hstage, hcopy, hresult, hwork, hfit⟩ := h
  refine ⟨State.ordered_serves_of_alone ha _ _ ?_, ?_⟩
  · have hrun := ha.run
    simp [Chip.orderWants, hrun, Chip.modOrd, release, Chip.modMpt, hcell, hcopy, hwork]
  · simp only [State.orderOn, State.ordered_ord, State.ordered_cellAddr]
    exact ⟨hcell, hstage, hcopy, hresult, hwork, hfit⟩

/-- The row served to its last word: the order of the six words is taken where the row began, as though no word had to be read. -/
theorem execOrderTaken_last (h : ReadsCell k s) (hn : s.chip.ord.read.length ≤ 5)
    (ha : s.chip.ord.read.length = 5 ∨ s.chip.OrderAlone) {more : Nat} (hmore : 5 - s.chip.ord.read.length ≤ more) :
    execOrderTaken s more =
      finish s (takeOrder (orderOfWords (wordsTo (s.orderWordAt k) 6 s.chip.ord.read)) (release s.chip)) := by
  obtain ⟨v, m, ⟨hv, -, hram, hpending, hcore, hwords⟩, hone, e⟩ := accesses_until
    (R := fun v => ReadsCell k v ∧ (v.chip.ord.read.length = 5 ∨ v.chip.OrderAlone) ∧ v.ram = s.ram ∧ v.pending = s.pending ∧
      v.chip.forOrder = s.chip.forOrder ∧
      wordsTo (v.orderWordAt k) 6 v.chip.ord.read = wordsTo (s.orderWordAt k) 6 s.chip.ord.read)
    (left := fun v => 6 - v.chip.ord.read.length) (u := Chip.orderUnderWay) (one := takenAccess)
    (fun v ⟨hv, halone, hram, hpending, hcore, hwords⟩ hleft => by
      have ha : v.chip.OrderAlone := halone.resolve_left (by omega)
      refine ⟨_, takenAccess_more hv (by omega), ?_,
        ⟨hv.orderOn ha, .inr (ha.orderOn k), hram, hpending, State.orderOn_forOrder.trans hcore, ?_⟩, ?_⟩
      · simp [Chip.orderUnderWay, State.orderOn_read]
      · rw [← hwords, State.orderOn_read, State.orderOn_orderWordAt]
        exact wordsTo_read _ (by omega)
      · simp only [State.orderOn_read, List.length_append, List.length_singleton]
        omega)
    more (s := s) ⟨h, ha, rfl, rfl, rfl, rfl⟩ (by omega) (by omega)
  have hlast := takenAccess_last hv (by omega)
  rw [← wordsTo_last (n := 6) _ (by omega), hwords, finish_eq, settle_takeOrder_forOrder, hcore, ← settle_takeOrder_forOrder] at hlast
  have hstate (d : Chip) : ({ v with chip := d } : State) = { s with chip := d } := by rw [State.mk.injEq]; exact ⟨rfl, hram, hpending⟩
  rw [hstate] at hlast
  refine e.trans (accesses_done hlast ?_ m)
  simp only [Chip.orderUnderWay, settle_ord]
  obtain ⟨r, hr⟩ | ⟨w, hw⟩ := (takeOrder_handsOver _ _).ord
  · rw [hr]; rfl
  · rw [hw]; rfl

end

end Sys2Proof.Machine
end

section
/-! SUPPORT. The rows of the Order Reader, crossed and alone (10 R148 to R150, R160). -/

namespace Sys2Proof.Machine

section
variable {s : State} {k : CellNo} {r : Result} {more : Nat}

/-- A cell found POSTED is held; TAKEN is not yet written (10 R148). -/
theorem execOrderCellVisit_held (hcell : s.chip.ord.cell = none) (hserves : s.chip.serves .order = true)
    (hfit : s.chip.cellAddr s.chip.ord.pos + 8 ≤ Config.ramWords) (hw : readWord s.ram (s.chip.cellAddr s.chip.ord.pos) = 1)
    (hend : more = 0 ∨ s.chip.Crossed) : execOrderCellVisit s more = .next (s.ordered Ord.hold s.ram) :=
  accesses_once (visitAccess_posted hcell hserves hfit hw) (hend.imp_right fun hc =>
    visitAccess_stay (k := s.chip.ord.pos) (by rw [State.ordered_ord]; rfl) (State.ordered_serves_of_crossed hc _ _))

/-- Without another request TAKEN is written to the cell found POSTED (10 R150 step 1). -/
theorem execOrderCellVisit_taken (hcell : s.chip.ord.cell = none) (hserves : s.chip.serves .order = true)
    (hfit : s.chip.cellAddr s.chip.ord.pos + 8 ≤ Config.ramWords) (hw : readWord s.ram (s.chip.cellAddr s.chip.ord.pos) = 1)
    (ha : s.chip.OrderAlone) (hmore : 1 ≤ more) :
    execOrderCellVisit s more = .next ((s.ordered Ord.hold s.ram).cellTaken s.chip.ord.pos) := by
  have hrun : (release s.chip).shc.run = .running := ha.run
  have hserves' := State.ordered_serves_of_alone ha Ord.hold s.ram (by simp [Chip.orderWants, Chip.modOrd, Ord.hold, hrun])
  have hnext := visitAccess_found (s := s.ordered Ord.hold s.ram) (k := s.chip.ord.pos) (by rw [State.ordered_ord]; rfl) hserves'
    (by rw [State.ordered_ord]; rfl) (by rwa [State.ordered_cellAddr])
  exact accesses_twice (visitAccess_posted hcell hserves hfit hw) (by simp [Chip.visitUnderWay, Ord.hold]) hnext
    (by simp [Chip.visitUnderWay, State.cellTaken]) hmore

/-- The result is written to the cell in hand; DONE is not yet written (10 R150 step 5). -/
theorem execOrderDone_told (hcell : s.chip.ord.cell = some k) (hr : s.chip.ord.result = some r)
    (hserves : s.chip.serves .order = true) (hstage : s.chip.ord.stage = .taken)
    (hfit : s.chip.cellAddr k + 8 ≤ Config.ramWords) (hend : more = 0 ∨ s.chip.Crossed) :
    execOrderDone s more = .next (s.resultTold k r) :=
  accesses_once (doneAccess_taken hcell hr hserves hstage hfit) (hend.imp_right fun hc =>
    doneAccess_stay (k := k) (r := r) (by rw [State.resultTold_ord]; exact hcell) (by rw [State.resultTold_ord]; exact hr)
      (State.resultTold_serves_of_crossed hc))

theorem State.cellDone_over (v : State) (k : CellNo) : (v.cellDone k).chip.doneUnderWay = false := by
  simp [Chip.doneUnderWay, State.cellDone_ord, Ord.finished_cell]

/-- DONE is written to the cell in hand (10 R150 step 5). -/
theorem execOrderDone_done (hcell : s.chip.ord.cell = some k) (hr : s.chip.ord.result = some r)
    (hserves : s.chip.serves .order = true) (hstage : s.chip.ord.stage = .answered)
    (hfit : s.chip.cellAddr k + 8 ≤ Config.ramWords) : execOrderDone s more = .next (s.cellDone k) :=
  accesses_done (doneAccess_answered hcell hr hserves hstage hfit) (s.cellDone_over k) more

/-- Without another request DONE follows the result (10 R150 step 5). -/
theorem execOrderDone_both (hcell : s.chip.ord.cell = some k) (hr : s.chip.ord.result = some r)
    (hserves : s.chip.serves .order = true) (hstage : s.chip.ord.stage = .taken)
    (hfit : s.chip.cellAddr k + 8 ≤ Config.ramWords) (ha : s.chip.OrderAlone) (hmore : 1 ≤ more) :
    execOrderDone s more = .next ((s.resultTold k r).cellDone k) := by
  have hnext := doneAccess_answered (s := s.resultTold k r) (k := k) (r := r) (by rw [State.resultTold_ord]; exact hcell)
    (by rw [State.resultTold_ord]; exact hr) (State.resultTold_serves_of_alone ha hcell) (by rw [State.resultTold_ord])
    (by rwa [State.resultTold_cellAddr])
  exact accesses_twice (doneAccess_taken hcell hr hserves hstage hfit)
    (by simp [Chip.doneUnderWay, State.resultTold_ord, hcell]) hnext (State.cellDone_over _ _) hmore

/-! ### The RAM -/

theorem ramKeptOutside_writeWord {t : State} {a : Nat} {w : Word} (hwf : s.ram.wf) (ht : t.ram = writeWord s.ram a w) :
    RamKeptOutside a 1 s t := fun b hb => by
  rw [ht, byteAt_writeWord hwf, if_neg (by omega), if_neg (by omega)]

end

end Sys2Proof.Machine
end

section
open Sys2Proof Sys2Proof.Machine

/-- Settles O46: each row is its accesses one after another; a request of a higher class stops it, and the order read in a cell is the
order taken as though no word had to be read. -/
theorem orderCellsAreServed : Obligations.OrderCellsAreServed := by
  unfold Obligations.OrderCellsAreServed
  intro s c again passed alone crossed
  have hpassed : c.ord.advance = passed := Ord.advance_eq _
  have halone (h : alone) : s.chip.OrderAlone := ⟨h.1.1, h.1.2, h.2⟩
  refine ⟨fun hrun hpass hdue => ?_, fun hserves hcell more => ?_, fun k hcell hserves more => ?_⟩
  · refine ⟨_, (if_pos ⟨hrun, hpass, hdue⟩).trans (finish_eq _ _), by rw [settle_ord]; rfl, ?_⟩
    exact OnlyChanges.of_chip (m := s.ram) (fun _ => rfl) (fun _ => rfl) (fun _ => rfl) (fun _ => rfl) (fun _ => rfl)
      (fun _ => rfl) (by simp) (fun _ => rfl) (fun _ => rfl) (fun _ => rfl) (fun _ => rfl)
  · intro a held hfit
    refine ⟨fun hw hend => ?_, fun hw hmore ha hwf => ?_, fun hw => ?_⟩
    · exact ⟨_, execOrderCellVisit_held hcell hserves hfit hw hend, State.ordered_ord _ _, State.ordered_only _⟩
    · have hram : ((s.ordered Ord.hold s.ram).cellTaken c.ord.pos).ram = writeWord s.ram a 2 := by
        rw [State.cellTaken, State.ordered_cellAddr]
        rfl
      refine ⟨_, execOrderCellVisit_taken hcell hserves hfit hw (halone ha) hmore, ?_, ramKeptOutside_writeWord hwf hram, ?_,
        ((State.ordered_only _).mono (by decide)).trans (State.ordered_only_ram _ _)⟩
      · rw [hram]
        exact readWord_writeWord hwf _ _
      · rw [State.cellTaken, State.ordered_ord, State.ordered_ord]
        rfl
    · have hord : (s.ordered Ord.advance s.ram).chip.ord = passed := (State.ordered_ord _ _).trans hpassed
      have hnone : passed.cell = none := hcell
      refine ⟨_, accesses_done (visitAccess_other hcell hserves hfit hw) ?_ more, hord, State.ordered_only _⟩
      rw [Chip.visitUnderWay, hord, hnone]
      rfl
  · intro a hfit
    refine ⟨fun hstage hwf => ?_, fun h => ?_, fun r hr hwf => ?_⟩
    · refine ⟨_, accesses_done (visitAccess_found hcell hserves hstage hfit) ?_ more, readWord_writeWord hwf _ _,
        ramKeptOutside_writeWord hwf rfl, State.ordered_ord _ _, State.ordered_only_ram _ _⟩
      simp [Chip.visitUnderWay, State.cellTaken]
    · intro n places o
      refine ⟨fun hn hend => ?_, fun hn hmore ha => ?_⟩
      · have hplace : a + orderOffset n = places.getD n 0 := by interval_cases n <;> rfl
        refine ⟨_, accesses_once (takenAccess_more h hn) (hend.imp_right fun hc => ?_), ?_, State.ordered_only _⟩
        · exact takenAccess_stay (k := k) (by rw [State.orderOn, State.ordered_ord]; exact hcell)
            (State.ordered_serves_of_crossed hc _ _)
        · rw [State.orderOn, State.ordered_ord, ← hplace]
          rfl
      · have hwords : orderOfWords (wordsTo (s.orderWordAt k) 6 c.ord.read) = o := by
          have hplaces : (List.range (6 - n)).map (fun j => s.orderWordAt k (n + j)) = (places.drop n).map (readWord s.ram) := by
            interval_cases n <;> rfl
          exact congrArg (fun ws => orderOfWords (c.ord.read ++ ws)) hplaces
        have hexec : exec (.orderTaken more) s = finish s (takeOrder o (release s.chip)) :=
          (execOrderTaken_last h hn (ha.imp_right halone) hmore).trans (by rw [hwords])
        obtain ⟨-, -, hstage, -, hresult, hwork, -⟩ := h
        refine ⟨?_, fun i hi hrun => ?_⟩
        · obtain ⟨hcopy, hheld, hread, hanswer⟩ := takeOrder_ord o (release s.chip)
          refine ⟨_, hexec.trans (finish_eq _ _), ?_, ?_, ?_, takeOrder_orderOnly o rfl, ?_⟩
          all_goals rw [settle_ord]
          · exact hcopy
          · exact hheld.trans hcell
          · exact hread
          · exact hanswer
        · have hready : Ready { s with chip := release s.chip } := ⟨hrun, hwork, .inr ⟨hstage, hresult⟩⟩
          exact hexec.trans (exec_of_ready hready hi).symm
    · intro staged done
      have hdone : c.ord.finished = done := by rw [Ord.finished, Ord.advance_eq]
      refine ⟨fun hstage hend => ?_, fun hstage => ?_, fun hstage hmore ha => ?_⟩
      · exact ⟨_, execOrderDone_told hcell hr hserves hstage hfit hend, readWord_writeWord hwf _ _,
          ramKeptOutside_writeWord hwf rfl, State.resultTold_ctb, State.resultTold_ord, State.resultTold_only⟩
      · exact ⟨_, execOrderDone_done hcell hr hserves hstage hfit, readWord_writeWord hwf _ _, ramKeptOutside_writeWord hwf rfl,
          State.cellDone_ord.trans hdone, State.cellDone_shc, State.cellDone_only⟩
      · have hwf' : (s.resultTold k r).ram.wf := writeWord_wf hwf _ _
        have hram : ((s.resultTold k r).cellDone k).ram = writeWord (s.resultTold k r).ram a 3 := by
          rw [State.cellDone, State.resultTold_cellAddr]
          rfl
        refine ⟨_, execOrderDone_both hcell hr hserves hstage hfit (halone ha) hmore, ?_, ?_, fun b h0 h1 h12 h13 => ?_, ?_, ?_, ?_,
          (State.resultTold_only.mono (by decide)).trans (State.cellDone_only.mono (by decide))⟩
        · rw [hram]
          exact readWord_writeWord hwf' _ _
        · rw [hram, readWord_writeWord_ne hwf' _ (by omega)]
          exact readWord_writeWord hwf _ _
        · rw [hram, byteAt_writeWord hwf', if_neg h1, if_neg h0]
          exact (byteAt_writeWord hwf (a + 6) _ _).trans (by rw [if_neg (by omega), if_neg (by omega)])
        · exact State.cellDone_ctb.trans State.resultTold_ctb
        · rw [State.cellDone_ord, State.resultTold_ord, ← hdone]
          rfl
        · rw [State.cellDone_shc, State.resultTold_shc]

end

section
/-! SUPPORT. A cycle wrap that ends a ringing which no plan-wrap count would have ended as the boundary began: two lines hold one slot,
the work of the first gives its first burst, and the count of the second takes the last cycle (05 R82, R83). The clause of O31 on the
queue does not ask, as its clause on the relays does, that no two lines hold one slot (06 R89). -/

namespace Sys2Proof.Machine

/-- The allocation in the slot that the two lines hold: at its plan wrap, with one cycle left. -/
def sharedAlloc : Alloc where
  party := 1
  plan := 0
  phase := 0
  load := 0
  cls := .ordinary
  age := 0
  cyclesLeft := 1
  selector := .code 0

/-- The entry of a line that waits for a slot. -/
def slotlessEntry : RingWait where
  line := 7
  party := 1
  plan := none
  cycles := 1
  cls := .ordinary
  age := 0
  notBefore := none
  needsSlot := true
  fetching := false
  wait := 0

/-- Lines 5 and 6 ring from slot 3, before the first burst; line 7 waits for a slot; the generator has tripped, so that no walk does
anything; and the cycle wrap is due. -/
def sharedSlotWrap : State :=
  let ringing : Line := { Line.reset with st := .ringing, equipped := true, slot := some 3 }
  let slot : Slot :=
    { Slot.reset with status := .bound, holder := some 5, recLine := some 5, ctx := { Ctx.fresh with alloc := some sharedAlloc } }
  let wrapDue : Chip :=
    { Chip.reset with
      shc := { Shc.reset with run := .running, hdr := { Header.reset with n := 12 } }
      ctb := { Ctb.reset with step := 11, periods := Config.scansPerStep }
      rsc := { Rsc.reset with allocs := [5, 6], queue := [slotlessEntry] }
      gen := { Gen.reset with state := .tripped } }
  { State.reset with
    chip :=
      (((wrapDue.modLine 5 fun _ => ringing).modLine 6 fun _ => ringing).modSlot 3 fun _ => slot).setWaitList
        [⟨7, .terminate, .ordinary⟩] }

/-- The Ring Wait Queue after a command. -/
def queueAfter : Out → List RingWait
  | .next t => t.chip.rsc.queue
  | _ => []

theorem sharedSlotWrap_due : sharedSlotWrap.chip.boundaryDue = true := by decide

theorem sharedSlotWrap_wraps : sharedSlotWrap.chip.shc.hdr.n ≤ sharedSlotWrap.chip.ctb.step + 1 := by decide

/-- As the boundary begins no plan-wrap count would end a ringing. -/
theorem sharedSlotWrap_stays : ∀ x : LineNo, sharedSlotWrap.chip.ringEnds x = false := by decide

/-- The ringing of line 6 ends all the same, and its slot goes to line 7, whose entry no longer needs one (04 R64, R59). -/
theorem sharedSlotWrap_grants :
    queueAfter (exec .stepBoundary sharedSlotWrap) = [{ slotlessEntry with age := 1, needsSlot := false, fetching := true }] := by
  decide

end Sys2Proof.Machine
end

section
open Sys2Proof Sys2Proof.Machine

/-- Refutes O31: the clause on the aged queue does not ask that the lines hold slots of their own. Where two hold one, the ringing of
the second ends at the boundary though none was to end as it began, and the slot freed is granted to a waiting line, which changes that
line's entry by more than its age. -/
theorem not_wrapAppliesWhatIsStaged : ¬Obligations.WrapAppliesWhatIsStaged := by
  unfold Obligations.WrapAppliesWhatIsStaged
  rintro ⟨-, hwrap⟩
  obtain ⟨t, ht, -, -, -, -, -, -, -, -, -, -, haged, -⟩ := hwrap sharedSlotWrap sharedSlotWrap_due sharedSlotWrap_wraps
  have hqueue : t.chip.rsc.queue = [{ slotlessEntry with age := 1 }] :=
    haged nofun sharedSlotWrap_stays (by decide) (by decide)
  have hgrants := sharedSlotWrap_grants
  rw [ht] at hgrants
  exact absurd (hgrants.symm.trans hqueue) (by decide)

end

section
/-! SUPPORT. SET_CAPACITY and POWER_MODE taken, and the commands of the mains-fail input (06 R104, R105, 10 R150, 11 R171). -/

namespace Sys2Proof.Machine

/-! ### The orders taken -/

/-- The pair lies in its ranges: it is staged with the reserve clamped to the capacity (06 R104). -/
theorem takeOrder_setCapacity {cap res : Word} (h1 : 1 ≤ cap.toNat) (hcap : cap.toNat ≤ 255) (hres : res.toNat ≤ 255) (c : Chip) :
    takeOrder ⟨15, cap, res, 0, 0, 0⟩ c =
      setResult .ok ((copyOrder ⟨15, cap, res, 0, 0, 0⟩ c).modRsc fun r =>
        { r with staged := some (cap.toNat, min res.toNat cap.toNat) }) := by
  have hargs : argsInRange .setCapacity ⟨15, cap, res, 0, 0, 0⟩ = true := by simp [argsInRange, h1, hcap, hres]
  have hvalid : validate ⟨15, cap, res, 0, 0, 0⟩ (copyOrder ⟨15, cap, res, 0, 0, 0⟩ c) = .ok .setCapacity := by
    rw [validate, show orderKind 15 = some .setCapacity from rfl]
    simp only [hargs, orderLine, Bool.not_true, Bool.false_eq_true, if_false]
  simp only [takeOrder, hvalid]
  rfl

theorem takeOrder_powerMode_conserve (c : Chip) :
    takeOrder ⟨16, 1, 0, 0, 0, 0⟩ c =
      setResult .ok ((copyOrder ⟨16, 1, 0, 0, 0, 0⟩ c).modRsc fun r => { r with hold := true, stagedMode := .conserve }) := rfl

theorem takeOrder_powerMode_normal (c : Chip) :
    takeOrder ⟨16, 0, 0, 0, 0, 0⟩ c =
      setResult .ok ((copyOrder ⟨16, 0, 0, 0, 0, 0⟩ c).modRsc fun r => { r with hold := false, stagedMode := .normal }) := rfl

section
variable {s : State} {i : Instr} {o : OrderCopy} {r : Result}

/-- An order answered at once of which the block changed the Ring Scheduler and nothing else. -/
theorem answers_modRsc {f : Rsc → Rsc} (h : Ready s) (ho : orderOf i = some o)
    (ht : takeOrder o s.chip = setResult r ((copyOrder o s.chip).modRsc f)) :
    ∃ t, exec i s = .next t ∧ t.chip.rsc = f s.chip.rsc ∧ Answered o r s t ∧ OnlyChanges [.scheduler, .orders] s t := by
  refine ⟨_, (exec_of_ready h ho).trans (finish_eq _ _), ?_, ?_, ?_⟩
  · rw [ht, settle_rsc]
    rfl
  · simp [Answered, ht, setResult, copyOrder]
  · rw [ht]
    exact OnlyChanges.of_chip (m := s.ram) (fun _ => rfl) (fun _ => rfl) (fun _ => rfl) (fun _ => rfl) (by simp) (fun _ => rfl)
      (by simp) (fun _ => rfl) (fun _ => rfl) (fun _ => rfl) (fun _ => rfl)

/-! ### The mains-fail input -/

/-- The shelf is in a run state in which a change of the mains-fail input is handed on (11 R171). -/
theorem Chip.handsMains_iff (c : Chip) : c.handsMains = true ↔ c.shc.run = .running ∨ c.shc.run = .isolated := by
  simp [Chip.handsMains]

/-- The level of the mains-fail input noted, with the staged mode that its change brings (06 R105, 11 R171). -/
def Chip.mainsNoted (c : Chip) (level : Bool) (m : PowerMode) : Chip :=
  (c.modShc fun r => { r with mains := level }).modRsc fun r => { r with stagedMode := m }

/-- The mode is staged where `p` holds and else stands, the level being noted either way. -/
theorem Chip.mainsNoted_ite (c : Chip) (level : Bool) (m : PowerMode) {p q : Prop} [Decidable p] [Decidable q] (h : p ↔ q) :
    (if p then (c.modShc fun r => { r with mains := level }).modRsc fun r => { r with stagedMode := m }
      else c.modShc fun r => { r with mains := level }) =
      c.mainsNoted level (if q then m else c.rsc.stagedMode) := by
  by_cases hq : q
  · rw [if_pos (h.2 hq), if_pos hq]
    rfl
  · rw [if_neg (mt h.1 hq), if_neg hq]
    rfl

theorem exec_mainsFailAsserted (s : State) :
    exec .mainsFailAsserted s =
      finish s (s.chip.mainsNoted true
        (if (s.chip.shc.run = .running ∨ s.chip.shc.run = .isolated) ∧ s.chip.rsc.autoConserve = true then .conserve
          else s.chip.rsc.stagedMode)) :=
  congrArg (finish s) (s.chip.mainsNoted_ite true .conserve (and_congr_left' (Chip.handsMains_iff _)))

theorem exec_mainsFailReleased (s : State) :
    exec .mainsFailReleased s =
      finish s (s.chip.mainsNoted false
        (if (s.chip.shc.run = .running ∨ s.chip.shc.run = .isolated) ∧ s.chip.rsc.autoConserve = true ∧
          s.chip.rsc.hold = false then .normal else s.chip.rsc.stagedMode)) :=
  congrArg (finish s) (s.chip.mainsNoted_ite false .normal (and_congr_left' (Chip.handsMains_iff _)))

/-- A command that noted the level of the mains-fail input. -/
theorem next_mainsNoted {level : Bool} {m : PowerMode} (h : exec i s = finish s (s.chip.mainsNoted level m)) :
    ∃ t, exec i s = .next t ∧ t.chip.shc = { s.chip.shc with mains := level } ∧
      t.chip.rsc = { s.chip.rsc with stagedMode := m } ∧ OnlyChanges [.scheduler, .shelf] s t := by
  refine ⟨_, h.trans (finish_eq _ _), settle_shc _ _, settle_rsc _ _, ?_⟩
  exact OnlyChanges.of_chip (m := s.ram) (fun _ => rfl) (fun _ => rfl) (fun _ => rfl) (fun _ => rfl) (by simp) (fun _ => rfl)
    (fun _ => rfl) (fun _ => rfl) (fun _ => rfl) (by simp) (fun _ => rfl)

end

end Sys2Proof.Machine
end

section
open Sys2Proof Sys2Proof.Machine

/-- Settles O12: each order by what its block changes of the Ring Scheduler, each edge of the input by its level and the staged mode. -/
theorem budgetIsStaged : Obligations.BudgetIsStaged := by
  unfold Obligations.BudgetIsStaged
  intro s
  refine ⟨fun cap res hr h1 hcap hres => ?_, fun hr => ⟨?_, ?_⟩, next_mainsNoted (exec_mainsFailAsserted s),
    next_mainsNoted (exec_mainsFailReleased s)⟩
  · exact answers_modRsc hr rfl (takeOrder_setCapacity h1 hcap hres s.chip)
  · exact answers_modRsc hr rfl (takeOrder_powerMode_conserve s.chip)
  · exact answers_modRsc hr rfl (takeOrder_powerMode_normal s.chip)

end

section
/-! SUPPORT. A load added to the Phase Load Table and taken away (06 R88), the load and the selector of a request (06 R92, 05 Table 5-5),
and the generator's entry to RUNNING with the admission that its walk makes (06 R95, R97, 08 R129). -/

namespace Sys2Proof.Machine

/-! ### The Phase Load Table (06 R88) -/

section
variable (n : Nat) (plt : List Nat) (p : Plan) (phase load : Nat)

@[simp] theorem length_pltSub : (pltSub n plt p phase load).length = n := by simp [pltSub]

theorem pltAdd_getD {i : Nat} (hi : i < n) :
    (pltAdd n plt p phase load).getD i 0 = plt.getD i 0 + if onAt n p phase i then load else 0 := by
  simp [pltAdd, hi]

theorem pltSub_getD {i : Nat} (hi : i < n) :
    (pltSub n plt p phase load).getD i 0 = plt.getD i 0 - if onAt n p phase i then load else 0 := by
  simp [pltSub, hi]

/-- What is added to every counter is taken away from it again. -/
theorem pltSub_pltAdd (h : plt.length = n) : pltSub n (pltAdd n plt p phase load) p phase load = plt := by
  refine List.ext_getElem (by simp [h]) fun i hi hi' => ?_
  have hn : i < n := by simpa using hi
  rw [← List.getD_eq_getElem _ 0 hi, ← List.getD_eq_getElem _ 0 hi', pltSub_getD _ _ _ _ _ hn, pltAdd_getD _ _ _ _ _ hn,
    Nat.add_sub_cancel]

end

/-! ### Load and selector (06 R92, 05 Table 5-5) -/

section
variable {copy : Vector Word 8}

theorem request_of_single (h : field copy[0] 8 2 = 0) (party : Nat) :
    requestLoad copy party = recLoad copy 1 ∧ requestSelector copy party = .code 0 := by
  have ha : recArrangement copy = .single := by simp [recArrangement, h]
  simp [requestLoad, requestSelector, ha]

theorem request_of_selective (h : field copy[0] 8 2 = 1) (party : Nat) :
    requestLoad copy party = recLoad copy party ∧ requestSelector copy party = .code (Fin.ofNat 4 (party - 1)) := by
  have ha : recArrangement copy = .selective := by simp [recArrangement, h]
  simp [requestLoad, requestSelector, ha]

theorem request_of_coded (h : field copy[0] 8 2 = 2) (party : Nat) :
    requestLoad copy party = ((List.range (recPartyCount copy)).map fun p => recLoad copy (p + 1)).sum ∧
      requestSelector copy party = .bridged := by
  have ha : recArrangement copy = .coded := by simp [recArrangement, h]
  simp [requestLoad, requestSelector, ha, recParties, List.map_map, Function.comp_def]

end

/-! ### Records of the shelf (10 R154) -/

/-- A record of the shelf joins the tail of the write queue, stamped with the millisecond counter. -/
theorem emit_of_queuesShelf {s : State} (h : QueuesShelf s) {c : Chip} (hshc : c.shc = s.chip.shc) (hj : c.jwr = s.chip.jwr)
    (b : Body) :
    (emit none b c).jwr = { s.chip.jwr with queue := s.chip.jwr.queue ++ [⟨none, s.chip.shc.ms, b⟩] } ∧
      (emit none b c).shc = s.chip.shc := by
  obtain ⟨hrun, hstall, hfull⟩ := h
  have hstamp : c.stamp = s.chip.shc.ms := by simp [Chip.stamp, hshc, hrun]
  simp [emit, hshc, hrun, enqueue, hj, hstall, hfull, hstamp]

/-! ### The generator enters RUNNING (08 R129) -/

/-- The generator RUNNING, its start timer stopped and GEN_STATE formed. -/
def Chip.genRuns (c : Chip) : Chip := setGen .running .startDone 0 (c.modGen fun g => { g with startTimer := none })

section
variable (c : Chip)

theorem Chip.genRuns_eq :
    c.genRuns = emit none (.genState .running c.gen.state .startDone 0)
      (c.modGen fun g => { g with startTimer := none, state := .running }) := rfl

@[simp] theorem Chip.genRuns_lines : c.genRuns.lines = c.lines := by simp [genRuns_eq]
@[simp] theorem Chip.genRuns_sets : c.genRuns.sets = c.sets := by simp [genRuns_eq]
@[simp] theorem Chip.genRuns_sst : c.genRuns.sst = c.sst := by simp [genRuns_eq]
@[simp] theorem Chip.genRuns_ctb : c.genRuns.ctb = c.ctb := by simp [genRuns_eq]
@[simp] theorem Chip.genRuns_rsc : c.genRuns.rsc = c.rsc := by simp [genRuns_eq]
@[simp] theorem Chip.genRuns_gen : c.genRuns.gen = { c.gen with startTimer := none, state := .running } := by simp [genRuns_eq]
@[simp] theorem Chip.genRuns_ord : c.genRuns.ord = c.ord := by simp [genRuns_eq]
@[simp] theorem Chip.genRuns_mpt : c.genRuns.mpt = c.mpt := by simp [genRuns_eq]
@[simp] theorem Chip.genRuns_line (y : LineNo) : c.genRuns.line y = c.line y := by simp [genRuns_eq]
@[simp] theorem Chip.genRuns_slot (k : SlotNo) : c.genRuns.slot k = c.slot k := by simp [genRuns_eq]
@[simp] theorem Chip.genRuns_hdr : c.genRuns.shc.hdr = c.shc.hdr := by rw [genRuns_eq, emit_eq]; rfl
@[simp] theorem Chip.genRuns_stepRest : c.genRuns.stepRest = c.stepRest := by simp [Chip.stepRest]

@[simp] theorem Chip.genRuns_ready (e : RingWait) : c.genRuns.ready e = c.ready e := by
  simp only [Chip.ready, Chip.planSt, Chip.reloading, Chip.genRuns_ctb, Chip.genRuns_ord]

end

/-- GEN_START_DONE that is due: RUNNING, and the walk over the entries (06 R98, 08 R129). -/
theorem exec_genStartDone {s : State} (hst : s.chip.gen.state = .starting) (hd : timerDue s.chip.gen.startTimer = true) :
    exec .genStartDone s = finish s (walkFrom s.chip.rsc.queue s.chip.genRuns) := by
  have hwalk : walk s.chip.genRuns = walkFrom s.chip.rsc.queue s.chip.genRuns := by simp [walk]
  rw [← hwalk]
  exact if_pos ⟨hst, hd⟩

/-! ### The admission (06 R95) -/

/-- The allocation of a request that fits at candidate `q` (06 R95). -/
def Chip.allocation (c : Chip) (e : RingWait) (p : PlanNo) (copy : Vector Word 8) (q : Nat) : Alloc where
  party := e.party
  plan := p
  phase := (c.ctb.step + q) % c.shc.hdr.n
  load := requestLoad copy e.party
  cls := e.cls
  age := e.age
  cyclesLeft := c.rsc.clampCycles e.cycles
  selector := requestSelector copy e.party

/-- The line admitted: RINGING with its party's selector code (06 R95). -/
def Line.admitted (l : Line) (clearAt : Nat) (sel : Selector) : Line := { l with selector := some sel }.enter clearAt .ringing

section
variable (l : Line) (n : Nat) (sel : Selector)

@[simp] theorem Line.admitted_st : (l.admitted n sel).st = .ringing := rfl
@[simp] theorem Line.admitted_selector : (l.admitted n sel).selector = some sel := rfl
@[simp] theorem Line.admitted_slot : (l.admitted n sel).slot = l.slot := rfl
@[simp] theorem Line.admitted_relay : (l.admitted n sel).relay = l.relay := rfl

end

/-- The request admitted to the allocation `a` in slot k, RING_STARTED still to be formed (06 R95, 07 R114). -/
def Chip.admitted (c : Chip) (e : RingWait) (segs : Plan) (k : SlotNo) (a : Alloc) : Chip :=
  ((c.modSlot k fun i => { i with ctx := { i.ctx with alloc := some a } }).modRsc fun r =>
    { r with
      plt := pltAdd c.shc.hdr.n r.plt segs a.phase a.load
      allocs := r.allocs ++ [e.line]
      queue := r.queue.filter (·.line ≠ e.line) }).modLine e.line fun l => l.admitted (c.timing e.line).clearAt a.selector

theorem admitRing_eq {c : Chip} {e : RingWait} {k : SlotNo} (hs : (c.line e.line).slot = some k) (p : PlanNo) (segs : Plan)
    (copy : Vector Word 8) (q : Nat) :
    admitRing e p segs copy q c =
      emit (some e.line)
        (.ringStarted e.party p e.cls ((c.ctb.step + q) % c.shc.hdr.n) q (c.stepRest + (q - 1) * 100) (c.rsc.clampCycles e.cycles))
        (c.admitted e segs k (c.allocation e p copy q)) := by
  have htiming (d : Chip) : ((d.modLine e.line fun l => { l with selector := some (requestSelector copy e.party) }).timing
      e.line) = d.timing e.line := Chip.timing_modLine _ _ _ _ rfl
  simp only [admitRing, modCtx_of_slot hs, setSelector_eq, setSt_eq, htiming, Chip.modLine_modLine]
  rfl

section
variable (c : Chip) (e : RingWait) (segs : Plan) (k : SlotNo) (a : Alloc)

@[simp] theorem Chip.admitted_line :
    (c.admitted e segs k a).line e.line = (c.line e.line).admitted (c.timing e.line).clearAt a.selector := by
  simp [admitted]

theorem Chip.admitted_line_ne {y : LineNo} (h : y ≠ e.line) : (c.admitted e segs k a).line y = c.line y := by
  simp [admitted, Chip.line_modLine_ne _ _ h]

@[simp] theorem Chip.admitted_slot :
    (c.admitted e segs k a).slot k = { c.slot k with ctx := { (c.slot k).ctx with alloc := some a } } := by
  simp [admitted]

theorem Chip.admitted_slot_ne {j : SlotNo} (h : j ≠ k) : (c.admitted e segs k a).slot j = c.slot j := by
  simp [admitted, Chip.slot_modSlot_ne _ _ h]

@[simp] theorem Chip.admitted_lru : (c.admitted e segs k a).sst.lru = c.sst.lru := rfl
@[simp] theorem Chip.admitted_sets : (c.admitted e segs k a).sets = c.sets := rfl
@[simp] theorem Chip.admitted_ctb : (c.admitted e segs k a).ctb = c.ctb := rfl
@[simp] theorem Chip.admitted_gen : (c.admitted e segs k a).gen = c.gen := rfl
@[simp] theorem Chip.admitted_ord : (c.admitted e segs k a).ord = c.ord := rfl
@[simp] theorem Chip.admitted_jwr : (c.admitted e segs k a).jwr = c.jwr := rfl
@[simp] theorem Chip.admitted_mpt : (c.admitted e segs k a).mpt = c.mpt := rfl
@[simp] theorem Chip.admitted_shc : (c.admitted e segs k a).shc = c.shc := rfl

end

/-! ### One request ready as the generator enters RUNNING (06 R97, 08 R129) -/

/-- The start of the generator is due, and the queue holds one entry, ready to ring on the segments `segs` of plan p from slot k. -/
structure State.StartsWith (s : State) (e : RingWait) (p : PlanNo) (segs : Plan) (k : SlotNo) : Prop where
  starting : s.chip.gen.state = .starting
  due : timerDue s.chip.gen.startTimer = true
  queue : s.chip.rsc.queue = [e]
  ready : s.chip.ready e = true
  plan : e.plan = some p
  segs : s.chip.ctb.active[p] = some segs
  slot : (s.chip.line e.line).slot = some k

/-- The offset that the search of the walk finds (06 R94). -/
def State.offsetFor (s : State) (e : RingWait) (segs : Plan) (k : SlotNo) : Option Nat :=
  findOffset s.chip.shc.hdr.n s.chip.rsc.plt segs (requestLoad (s.chip.slot k).copy e.party) (s.chip.rsc.limit e) s.chip.ctb.step

/-- The request admitted at candidate `q` as the generator has entered RUNNING (06 R95, 08 R129). -/
def State.admits (s : State) (e : RingWait) (p : PlanNo) (segs : Plan) (k : SlotNo) (q : Nat) : Chip :=
  admitRing e p segs (s.chip.slot k).copy q s.chip.genRuns

section
variable {s : State} {e : RingWait} {p : PlanNo} {segs : Plan} {k : SlotNo} {q : Nat}

theorem State.StartsWith.tryAdmit_eq (h : s.StartsWith e p segs k) :
    tryAdmit e s.chip.genRuns = (s.offsetFor e segs k).map (s.admits e p segs k) := by
  rw [tryAdmit_of_slot h.plan (by simpa using h.segs) (by simpa using h.slot)]
  simp only [Chip.genRuns_hdr, Chip.genRuns_rsc, Chip.genRuns_ctb, Chip.genRuns_slot]
  rfl

theorem State.StartsWith.exec_eq (h : s.StartsWith e p segs k) :
    exec .genStartDone s = finish s (walkFrom [e] s.chip.genRuns) := by
  rw [exec_genStartDone h.starting h.due, h.queue]

/-- The request that fits is admitted by the walk (06 R95, R99). -/
theorem State.StartsWith.exec_admits (h : s.StartsWith e p segs k) (hq : s.offsetFor e segs k = some q) :
    exec .genStartDone s = finish s (s.admits e p segs k q) := by
  have htry := h.tryAdmit_eq
  rw [hq, Option.map_some] at htry
  rw [h.exec_eq, walkFrom_of_fit (by simpa using h.ready) htry]
  rfl

/-- The request that fits nowhere is left as it is (06 R99). -/
theorem State.StartsWith.exec_passes (h : s.StartsWith e p segs k) (hq : s.offsetFor e segs k = none) :
    exec .genStartDone s = finish s s.chip.genRuns := by
  have htry := h.tryAdmit_eq
  rw [hq, Option.map_none] at htry
  rw [h.exec_eq, walkFrom_of_no_fit (by simpa using h.ready) htry]
  exact congrArg (finish s) (ite_self _)

/-- The allocation that the request is given (06 R95). -/
def State.allocationFor (s : State) (e : RingWait) (p : PlanNo) (k : SlotNo) (q : Nat) : Alloc :=
  s.chip.allocation e p (s.chip.slot k).copy q

/-- RING_STARTED of the request, its delay reckoned from the time left of the step in progress (06 R95, log 14). -/
def State.ringStarted (s : State) (e : RingWait) (p : PlanNo) (k : SlotNo) (q : Nat) : Body :=
  let a := s.allocationFor e p k q
  .ringStarted e.party p e.cls a.phase q (s.chip.stepRest + (q - 1) * 100) a.cyclesLeft

theorem State.StartsWith.admits_eq (h : s.StartsWith e p segs k) (q : Nat) :
    s.admits e p segs k q =
      emit (some e.line) (s.ringStarted e p k q) (s.chip.genRuns.admitted e segs k (s.allocationFor e p k q)) := by
  rw [State.admits, admitRing_eq (by simpa using h.slot)]
  simp [State.ringStarted, State.allocationFor, Chip.allocation]

/-- GEN_STATE as the generator enters RUNNING, in the write queue (08 R135, 10 R154). -/
def State.startQueued (s : State) : Jwr :=
  { s.chip.jwr with queue := s.chip.jwr.queue ++ [⟨none, s.chip.shc.ms, .genState .running .starting .startDone 0⟩] }

theorem State.genRuns_queued (hst : s.chip.gen.state = .starting) (h : QueuesShelf s) :
    s.chip.genRuns.jwr = s.startQueued ∧ s.chip.genRuns.shc = s.chip.shc := by
  rw [Chip.genRuns_eq, hst]
  exact emit_of_queuesShelf (c := s.chip.modGen _) h rfl rfl _

/-- With room for both, GEN_STATE and RING_STARTED are queued (10 R154). -/
theorem State.StartsWith.admits_jwr (h : s.StartsWith e p segs k) (hq : QueuesShelf s)
    (hheld : s.chip.jwr.summaries[e.line] = none) (hroom : s.chip.jwr.counted + 2 ≤ 32) (q : Nat) :
    (s.admits e p segs k q).jwr =
      { s.chip.jwr with
        queue := s.chip.jwr.queue ++
          [⟨none, s.chip.shc.ms, .genState .running .starting .startDone 0⟩,
            ⟨some e.line, s.chip.shc.ms, s.ringStarted e p k q⟩] } := by
  obtain ⟨hjwr, hshc⟩ := State.genRuns_queued h.starting hq
  obtain ⟨hrun, hstall, hfull⟩ := hq
  have hqueueing : (s.chip.modJwr fun _ => s.startQueued).Queueing e.line :=
    Chip.Queueing.append ⟨hrun, hstall, hheld, hfull⟩ hroom _
  rw [h.admits_eq, emit_jwr_of_queueing hqueueing (by simp [hshc]) (by simp [hjwr])]
  simp [State.startQueued]

theorem State.StartsWith.admits_line (h : s.StartsWith e p segs k) (q : Nat) :
    (s.admits e p segs k q).line e.line =
      (s.chip.line e.line).admitted (s.chip.genRuns.timing e.line).clearAt (s.allocationFor e p k q).selector := by
  rw [h.admits_eq, emit_line, Chip.admitted_line, Chip.genRuns_line]

theorem State.StartsWith.admits_line_ne (h : s.StartsWith e p segs k) (q : Nat) {y : LineNo} (hy : y ≠ e.line) :
    (s.admits e p segs k q).line y = s.chip.line y := by
  rw [h.admits_eq, emit_line, Chip.admitted_line_ne _ _ _ _ _ hy, Chip.genRuns_line]

theorem State.StartsWith.admits_slot (h : s.StartsWith e p segs k) (q : Nat) :
    (s.admits e p segs k q).slot k =
      { s.chip.slot k with ctx := { (s.chip.slot k).ctx with alloc := some (s.allocationFor e p k q) } } := by
  rw [h.admits_eq, emit_slot, Chip.admitted_slot, Chip.genRuns_slot]

theorem State.StartsWith.admits_slot_ne (h : s.StartsWith e p segs k) (q : Nat) {j : SlotNo} (hj : j ≠ k) :
    (s.admits e p segs k q).slot j = s.chip.slot j := by
  rw [h.admits_eq, emit_slot, Chip.admitted_slot_ne _ _ _ _ _ hj, Chip.genRuns_slot]

theorem State.StartsWith.admits_lru (h : s.StartsWith e p segs k) (q : Nat) :
    (s.admits e p segs k q).sst.lru = s.chip.sst.lru := by
  rw [h.admits_eq, emit_sst, Chip.admitted_lru, Chip.genRuns_sst]

theorem State.StartsWith.admits_gen (h : s.StartsWith e p segs k) (q : Nat) :
    (s.admits e p segs k q).gen = { s.chip.gen with startTimer := none, state := .running } := by
  rw [h.admits_eq, emit_gen, Chip.admitted_gen, Chip.genRuns_gen]

/-- The entry of the request, the only one, is gone, and its load stands in the table (06 R95). -/
theorem State.StartsWith.admits_rsc (h : s.StartsWith e p segs k) (q : Nat) :
    (s.admits e p segs k q).rsc =
      { s.chip.rsc with
        plt := pltAdd s.chip.shc.hdr.n s.chip.rsc.plt segs (s.allocationFor e p k q).phase (s.allocationFor e p k q).load
        allocs := s.chip.rsc.allocs ++ [e.line]
        queue := [] } := by
  rw [h.admits_eq, emit_rsc]
  simp [Chip.admitted, h.queue]

theorem State.StartsWith.admits_only (h : s.StartsWith e p segs k) (q : Nat) :
    OnlyChanges [.lines, .slots, .scheduler, .generator, .journal, .shelf] s
      { s with chip := settle s.chip (s.admits e p segs k q) } := by
  rw [h.admits_eq]
  apply OnlyChanges.of_chip (m := s.ram) <;> simp

theorem genRuns_only (s : State) :
    OnlyChanges [.generator, .journal, .shelf] s { s with chip := settle s.chip s.chip.genRuns } := by
  apply OnlyChanges.of_chip (m := s.ram) <;> simp

end

end Sys2Proof.Machine
end

section
open Sys2Proof Sys2Proof.Machine

/-- Settles O35: an addition to the table and its removal counter by counter, the arrangements of a record one by one, and the admission
as the walk of the generator that enters RUNNING makes it. -/
theorem removalUndoesAdmission : Obligations.RemovalUndoesAdmission := by
  unfold Obligations.RemovalUndoesAdmission
  refine ⟨fun n plt p phase load hlen => ⟨pltSub_pltAdd n plt p phase load hlen, fun i hi => pltAdd_getD n plt p phase load hi⟩,
    fun copy party => ⟨fun h => request_of_single h party, fun h => request_of_selective h party,
      fun h => request_of_coded h party⟩, ?_⟩
  intro s e p segs k hst hdue hqueue hslotless hfetch hbefore hplan hsegs hstaged hreload hslot x n copy load left found running
  have hready : s.chip.ready e = true :=
    (Chip.ready_iff _ _).2 ⟨hslotless, hfetch, hbefore, p, hplan, by simp [hsegs], hstaged, hreload⟩
  have h : s.StartsWith e p segs k := ⟨hst, hdue, hqueue, hready, hplan, hsegs, hslot⟩
  refine ⟨fun q hq => ?_, fun hnone => ?_⟩
  · refine ⟨_, (h.exec_admits hq).trans (finish_eq _ _), ?_⟩
    have hline := h.admits_line q
    refine ⟨?_, ?_, ?_, ?_, ?_, ?_, ?_, fun y hy => ?_, fun j hj => ?_, ?_, fun hs hheld hroom => ?_,
      h.admits_only q⟩
    · rw [settle_gen_state, h.admits_gen]
    · rw [settle_line, hline, Line.admitted_st]
    · rw [settle_line, hline, Line.admitted_selector]
      rfl
    · rw [settle_line, hline, Line.admitted_slot, hslot]
    · rw [settle_line, hline, Line.admitted_relay]
    · rw [settle_slot, h.admits_slot]
      rfl
    · rw [settle_rsc, h.admits_rsc]
      rfl
    · rw [settle_line, h.admits_line_ne q hy]
    · rw [settle_slot, h.admits_slot_ne q hj]
    · rw [settle_sst, h.admits_lru]
    · rw [settle_jwr, h.admits_jwr hs hheld hroom]
      rfl
  · refine ⟨_, (h.exec_passes hnone).trans (finish_eq _ _), by simp, fun hs => ?_, genRuns_only s⟩
    rw [settle_jwr, (State.genRuns_queued hst hs).1]
    rfl

end

section
/-! SUPPORT. The equipped field of a line is that of its record (01 R1): no entry to a state, no grant of a slot, no walk and no trip
changes it. -/

namespace Sys2Proof.Machine

/-! ### One line -/

section
variable (l : Line)

@[simp] theorem Line.toned_equipped (t : Tone) : (l.toned t).equipped = l.equipped := rfl

@[simp] theorem Line.moveRelay_equipped (blank : Nat) (closed : Bool) : (l.moveRelay blank closed).equipped = l.equipped :=
  Line.congr_of_unrelayed (l.moveRelay_unrelayed blank closed) Line.equipped fun _ => rfl

@[simp] theorem Line.idled_equipped (n : Nat) : (l.idled n).equipped = l.equipped := by
  unfold Line.idled
  split <;> rfl

end

/-! ### The updates -/

/-- Which lines are equipped. -/
def Chip.equips (c : Chip) (y : LineNo) : Bool := (c.line y).equipped

section
variable {c d : Chip} {x : LineNo} {i : SlotNo}

theorem equips_of_lines (h : d.lines = c.lines) : d.equips = c.equips := by
  funext y
  simp only [Chip.equips, Chip.line, h]

@[simp] theorem modLine_equips (f : Line → Line) (hf : (f (c.line x)).equipped = (c.line x).equipped) :
    (c.modLine x f).equips = c.equips := by
  funext y
  unfold Chip.equips
  rw [Chip.line_modLine]
  split
  · next h => rw [hf, h]
  · rfl

theorem setSt_equips (st : LineSt) : (setSt x st c).equips = c.equips := modLine_equips _ rfl
theorem setSlotRef_equips (j : Option SlotNo) : (setSlotRef x j c).equips = c.equips := modLine_equips _ rfl
theorem setSelector_equips (k : Option Selector) : (setSelector x k c).equips = c.equips := modLine_equips _ rfl

@[simp] theorem setWaitList_equips (l : List SlotWait) : (c.setWaitList l).equips = c.equips := rfl
@[simp] theorem modRsc_equips (f : Rsc → Rsc) : (c.modRsc f).equips = c.equips := rfl
@[simp] theorem modGen_equips (f : Gen → Gen) : (c.modGen f).equips = c.equips := rfl
@[simp] theorem setAttention_equips (f : BitVec 5) : (setAttention f c).equips = c.equips := rfl
@[simp] theorem emit_equips (o : Option LineNo) (b : Body) : (emit o b c).equips = c.equips := equips_of_lines (emit_lines o b c)

@[simp] theorem raiseFault_equips (k : FaultKind) (o : Option LineNo) (n : Nat) : (raiseFault k o n c).equips = c.equips :=
  equips_of_lines (raiseFault_lines k o n c)

@[simp] theorem modCtx_equips (f : Ctx → Ctx) : (modCtx x f c).equips = c.equips := funext fun y => by
  simp only [Chip.equips, modCtx_line]

@[simp] theorem setRelay_equips (b : Bool) : (setRelay x b c).equips = c.equips :=
  modLine_equips _ (Line.moveRelay_equipped _ _ b)

@[simp] theorem openRelays_equips : (openRelays c).equips = c.equips := funext fun y => by
  have hline : (openRelays c).line y = (c.line y).moveRelay (c.sets[(c.line y).tset]).burstBlank false := mapEach_get _ c.lines y
  simp only [Chip.equips, hline, Line.moveRelay_equipped]

/-! ### Ringing and the generator -/

@[simp] theorem dropAlloc_equips (a : Alloc) : (dropAlloc x a c).equips = c.equips := by simp [dropAlloc]

@[simp] theorem shedLine_equips (w : ShedReason) : (shedLine w x c).equips = c.equips := by
  unfold shedLine
  split
  · rfl
  · simp only [emit_equips, setSt_equips, modCtx_equips, modRsc_equips, dropAlloc_equips]

@[simp] theorem setGen_equips (st : GenSt) (w : GenCause) (n : Nat) : (setGen st w n c).equips = c.equips := by
  unfold setGen
  split <;> simp

theorem shedLines_equips (l : List LineNo) (c : Chip) : (l.foldl (fun c x => shedLine .trip x c) c).equips = c.equips := by
  induction l generalizing c with
  | nil => rfl
  | cons x l ih => rw [List.foldl_cons, ih, shedLine_equips]

@[simp] theorem tripGen_equips : (tripGen c).equips = c.equips := by
  unfold tripGen
  rw [shedLines_equips]
  split <;> simp

@[simp] theorem startRequest_equips : (startRequest c).equips = c.equips := by
  unfold startRequest
  split
  · dsimp only
    split <;> simp
  · rfl

@[simp] theorem admitRing_equips (e : RingWait) (p : PlanNo) (segs : Plan) (copy : Vector Word 8) (q : Nat) :
    (admitRing e p segs copy q c).equips = c.equips := by
  simp only [admitRing, emit_equips, setSt_equips, setSelector_equips, modRsc_equips, modCtx_equips]

theorem tryAdmit_equips {e : RingWait} (h : tryAdmit e c = some d) : d.equips = c.equips := by
  unfold tryAdmit at h
  split at h
  · split at h
    · obtain ⟨q, -, rfl⟩ := Option.map_eq_some_iff.1 h
      exact admitRing_equips ..
    · cases h
  · cases h

theorem walkFrom_equips (l : List RingWait) (c : Chip) : (walkFrom l c).equips = c.equips := by
  induction l generalizing c with
  | nil => rfl
  | cons e l ih =>
    unfold walkFrom
    split
    · split
      · next h => rw [ih, tryAdmit_equips h]
      · split
        · rfl
        · exact ih c
    · exact ih c

@[simp] theorem walk_equips : (walk c).equips = c.equips := by
  unfold walk
  split
  · exact walkFrom_equips _ c
  · split
    · exact startRequest_equips
    · rfl
  all_goals rfl

/-! ### Slots given up and bound -/

@[simp] theorem dropSlot_equips : (dropSlot x c).1.equips = c.equips := by
  funext y
  unfold Chip.equips
  by_cases hy : y = x
  · subst hy
    exact Line.congr_of_unserved (dropSlot_unserved y c) Line.equipped fun _ => rfl
  · rw [dropSlot_line_ne hy]

@[simp] theorem bindSlot_equips : (bindSlot i x c).equips = c.equips := by
  have hset : (setSlotRef x (some i) (toMru i (c.modSlot i fun s => s.bind x ((c.slot i).grantKind x)))).equips = c.equips :=
    setSlotRef_equips _
  unfold bindSlot
  dsimp only
  split <;> exact hset

@[simp] theorem markFailed_equips : (markFailed x c).equips = c.equips := by
  unfold markFailed
  split <;> rfl

@[simp] theorem enterIdle_equips : (enterIdle x c).equips = c.equips := by simp [enterIdle_eq]

/-! ### Records taken and slots granted -/

@[simp] theorem enterParked_equips (r : ParkReason) : (enterParked x (some r) c).equips = c.equips := by
  rw [enterParked_some, emit_equips, enterParked_none]
  exact modLine_equips _ rfl

@[simp] theorem refuseSeizure_equips : (refuseSeizure x c).1.equips = c.equips := by
  simp only [refuseSeizure, enterParked_equips, dropSlot_equips, raiseFault_equips, markFailed_equips]

@[simp] theorem refuseRing_equips (w : RingFail) (n : Nat) : (refuseRing x w n c).1.equips = c.equips := by
  unfold refuseRing
  split <;> simp

@[simp] theorem refuseRecall_equips : (refuseRecall x c).1.equips = c.equips := by simp [refuseRecall]

@[simp] theorem applyDialTone_equips : (applyDialTone x c).equips = c.equips := by simp [applyDialTone, giveDialTone]

@[simp] theorem acceptRing_equips (copy : Vector Word 8) : (acceptRing x copy c).equips = c.equips := by simp [acceptRing]

@[simp] theorem acceptRecall_equips (copy : Vector Word 8) : (acceptRecall x copy c).equips = c.equips := by
  unfold acceptRecall startDialling
  split <;> simp

@[simp] theorem takeRecord_equips : (takeRecord x c).1.equips = c.equips := by
  unfold takeRecord
  split
  · rfl
  · dsimp only
    split
    · split <;> simp
    · split
      · rfl
      · split
        · simp
        · split <;> simp
    · split <;> simp
    · rfl

@[simp] theorem takeGrant_equips : (takeGrant i x c).1.equips = c.equips := by
  unfold takeGrant
  dsimp only
  split <;> simp

theorem settleFreed_equips (n : Nat) (i : SlotNo) (c : Chip) : (settleFreed n i c).equips = c.equips := by
  induction n generalizing i c with
  | zero => rfl
  | succ n ih =>
    unfold settleFreed
    split
    · rfl
    · split
      · dsimp only
        split
        · simp [ih]
        · simp
      · rfl

@[simp] theorem releaseSlot_equips : (releaseSlot x c).equips = c.equips := by
  unfold releaseSlot grantFreed
  split
  · rw [settleFreed_equips, dropSlot_equips]
  · exact dropSlot_equips

end

end Sys2Proof.Machine
end

section
/-! SUPPORT. The expiry of an entry of the Ring Wait Queue (06 R101), and the end of its not-before with the walk that it brings while
the generator is not RUNNING (06 R97, R98, 07 R111, 08 R128). -/

namespace Sys2Proof.Machine

/-! ### The wait timer (06 R101) -/

section
variable {s : State} {c : Chip} {x : LineNo} {e : RingWait}

theorem dropSlot_rsc (x : LineNo) (c : Chip) : (dropSlot x c).1.rsc = c.rsc := by
  cases hs : (c.line x).slot with
  | none => simp [dropSlot_of_none hs]
  | some i =>
    cases hp : (c.slot i).phase with
    | valid => simp [dropSlot_of_valid hs hp]
    | fetching =>
      rw [dropSlot_of_fetching hs hp]
      unfold dropFetching
      dsimp only
      split <;> rfl

theorem exec_waitExpiry (he : s.chip.entry x = some e) (hlimit : s.chip.rsc.waitLimit ≠ 0)
    (hwait : 1000 * s.chip.rsc.waitLimit ≤ e.wait) : exec (.waitExpiry x) s = finish s (waitExpired x e s.chip) := by
  have hover : s.chip.waitOver e = true := by simp [Chip.waitOver, hlimit, hwait]
  simp only [exec, execWaitExpiry, he]
  exact if_pos hover

/-- RING_FAILED formed and the entry gone (06 R101). -/
def Chip.waitFailed (c : Chip) (x : LineNo) (e : RingWait) : Chip :=
  dropEntry x (emit (some x) (.ringFailed .waitExpired e.party) c)

@[simp] theorem Chip.waitFailed_line (y : LineNo) : (c.waitFailed x e).line y = c.line y := by simp [waitFailed]
@[simp] theorem Chip.waitFailed_waitList : (c.waitFailed x e).sst.waitList = c.sst.waitList := by simp [waitFailed]
@[simp] theorem Chip.waitFailed_queue : (c.waitFailed x e).rsc.queue = c.rsc.queue.filter (·.line ≠ x) := by simp [waitFailed]

theorem waitExpired_eq (x : LineNo) (e : RingWait) (c : Chip) :
    waitExpired x e c = enterIdle x (releaseSlot x (c.waitFailed x e)) := rfl

/-- Whatever its slot brings to others, the line is in IDLE, or UNEQUIPPED where it is not equipped (01 R6, R8). -/
theorem waitExpired_st (x : LineNo) (e : RingWait) (c : Chip) :
    ((waitExpired x e c).line x).st = (if (c.line x).equipped then .idle else .unequipped) ∧
      ((waitExpired x e c).line x).tone = .none := by
  have hequipped : ((releaseSlot x (c.waitFailed x e)).line x).equipped = (c.line x).equipped :=
    (congrFun releaseSlot_equips x).trans (congrArg Line.equipped (Chip.waitFailed_line x))
  rw [waitExpired_eq, enterIdle_eq, Chip.line_modLine_self, Line.idled_st, Line.idled_tone, hequipped]
  exact ⟨rfl, rfl⟩

/-- With no line waiting for a slot nothing but the line, its slot and its entry is touched (04 R63, R66). -/
theorem waitExpired_of_nil (hnil : c.sst.waitList = []) (x : LineNo) (e : RingWait) :
    (waitExpired x e c).rsc.queue = c.rsc.queue.filter (·.line ≠ x) ∧ ((waitExpired x e c).line x).slot = none ∧
      (∀ y, y ≠ x → (waitExpired x e c).line y = c.line y) ∧
      (waitExpired x e c).jwr.queue = (emit (some x) (.ringFailed .waitExpired e.party) c).jwr.queue := by
  rw [waitExpired_eq, releaseSlot_of_nil x (by simpa using hnil), enterIdle_eq]
  refine ⟨?_, ?_, fun y hy => ?_, ?_⟩
  · rw [Chip.modLine_rsc, dropSlot_rsc, Chip.waitFailed_queue]
  · rw [Chip.line_modLine_self, Line.idled_slot, dropSlot_slot]
  · rw [Chip.line_modLine_ne _ _ hy, dropSlot_line_ne hy, Chip.waitFailed_line]
  · rw [Chip.modLine_jwr, dropSlot_queue]
    rfl

/-! ### A walk while the generator is not RUNNING (06 R97, 08 R128) -/

/-- The generator STARTING on demand, with GEN_STATE formed (08 R128). -/
def Chip.genStarts (c : Chip) : Chip :=
  emit none (.genState .starting c.gen.state .startRequest 0)
    (c.modGen fun g => { g with startTimer := some ⟨0, g.startTime⟩, state := .starting })

theorem walk_of_demand (hoff : c.gen.state = .off) (ho : c.gen.overload = false) (hd : c.demand = true) :
    walk c = c.genStarts := by
  simp [walk, hoff, hd, startRequest, setGen, ho, Chip.genStarts, Timer.start, Chip.modGen]

theorem walk_of_no_start (hg : c.gen.state ≠ .running) (h : c.gen.state = .off → c.demand = false) : walk c = c := by
  unfold walk
  split
  · exact absurd ‹_› hg
  · rw [if_neg (by simp [h ‹_›])]
  all_goals rfl

/-- What a walk while no overload stands and the generator is not RUNNING changes: the Generator Controller, and the record formed. -/
theorem walk_only {d : Chip} (hg : d.gen.state ≠ .running) (ho : d.gen.overload = false)
    (hd : d = { s.chip with rsc := d.rsc }) :
    OnlyChanges [.scheduler, .generator, .journal, .shelf] s { s with chip := settle s.chip (walk d) } := by
  by_cases hstart : d.gen.state = .off ∧ d.demand = true
  · rw [walk_of_demand hstart.1 ho hstart.2, hd]
    apply OnlyChanges.of_chip (m := s.ram) <;> simp [Chip.genStarts]
  · rw [walk_of_no_start hg fun hoff => by simpa [hoff] using hstart, hd]
    apply OnlyChanges.of_chip (m := s.ram) <;> simp

/-! ### The end of a not-before (07 R111) -/

/-- The entry with its not-before over. -/
def RingWait.freed (q : RingWait) : RingWait := { q with notBefore := none }

theorem exec_notBeforeExpiry (he : s.chip.entry x = some e) (hn : e.notBefore = some 0) :
    exec (.notBeforeExpiry x) s = finish s (walk (modEntry x (·.freed) s.chip)) := by
  simp only [exec, execNotBeforeExpiry, he]
  exact if_pos hn

/-- An entry that is ready with its not-before over makes demand (06 R97). -/
theorem demand_of_freed (he : c.entry x = some e) (hready : c.ready e.freed = true) :
    (modEntry x (·.freed) c).demand = true := by
  have hx : e.line = x := by simpa using List.find?_some he
  exact List.any_eq_true.2 ⟨e.freed, List.mem_map.2 ⟨e, List.mem_of_find?_eq_some he, if_pos hx⟩, hready⟩

end

end Sys2Proof.Machine
end

section
open Sys2Proof Sys2Proof.Machine

/-- Settles O33: the line of an expired entry by what the grant of its slot leaves of it, and the end of a not-before by the walk that
it brings. -/
theorem queueTimersRunOut : Obligations.QueueTimersRunOut := by
  unfold Obligations.QueueTimersRunOut
  intro s x e he
  refine ⟨fun hlimit hwait => ?_, fun hn hg => ?_⟩
  · obtain ⟨hst, htone⟩ := waitExpired_st x e s.chip
    refine ⟨_, (exec_waitExpiry he hlimit hwait).trans (finish_eq _ _), ((Quiet.refl _).waitExpired x e).callOnly, ?_, ?_,
      fun hnil => ?_⟩
    · rw [settle_line, hst]
    · rw [settle_line, htone]
    · obtain ⟨hqueue, hslot, hothers, hjwr⟩ := waitExpired_of_nil hnil x e
      refine ⟨?_, ?_, fun y hy => ?_, fun hq => ?_⟩
      · rw [settle_rsc, hqueue]
      · rw [settle_line, hslot]
      · rw [settle_line, hothers y hy]
      · rw [settle_jwr, hjwr, emit_of_queueing hq, Chip.modJwr_jwr]
  · refine ⟨_, (exec_notBeforeExpiry he hn).trans (finish_eq _ _), ((Quiet.refl _).notBeforeOver x).callOnly, fun ho => ?_⟩
    obtain ⟨-, -, hrsc⟩ := walk_parts (c := modEntry x (·.freed) s.chip) hg ho
    refine ⟨?_, fun hoff hready => ?_, fun hoff => ?_, walk_only hg ho rfl⟩
    · rw [settle_rsc, hrsc]
      rfl
    · rw [settle_gen_state, settle_gen_startTimer, walk_of_demand (c := modEntry x (·.freed) s.chip) hoff ho
        (demand_of_freed he hready)]
      simp [Chip.genStarts]
    · rw [settle_gen_state, walk_of_no_start (c := modEntry x (·.freed) s.chip) hg fun h => absurd h hoff]
      rfl

end

section
/-! SUPPORT. The end of a ringing (06 R102): the allocation of a line removed with its walk and its slot given up; and the states that a
line may then enter (01 R9, 07 R116, R118, R120). -/

namespace Sys2Proof.Machine

/-! ### The states entered -/

/-- The line as it enters RELEASE_GUARD after ringing: IDLE at once where the post-ring guard is 0 (01 R9). -/
def Line.postRung (l : Line) (clearAt ms : Nat) : Line := if ms = 0 then l.idled clearAt else l.guarded clearAt ms

/-- The line as it enters TALK by an answer (07 R116). -/
def Line.talking (l : Line) (clearAt : Nat) : Line := { (l.enter clearAt .talk).toned .none with answered := true }

theorem enterPostRingGuard_eq (x : LineNo) (c : Chip) :
    enterPostRingGuard x c = c.modLine x fun l => l.postRung (c.timing x).clearAt (c.timing x).postRing := by
  unfold enterPostRingGuard enterGuard
  split
  · next h => simp only [enterIdle_eq, Line.postRung, h, if_true]
  · next h => simp [Line.postRung, h, Line.guarded, Timer.start]

theorem enterTalk_answered (x : LineNo) (c : Chip) :
    enterTalk x true c = c.modLine x fun l => l.talking (c.timing x).clearAt := by
  simp [enterTalk, Line.talking]

section
variable (l : Line) (n ms : Nat)

@[simp] theorem Line.idled_relay : (l.idled n).relay = l.relay := by
  unfold Line.idled
  split <;> rfl

@[simp] theorem Line.postRung_tone : (l.postRung n ms).tone = .none := by
  unfold Line.postRung
  split
  · exact l.idled_tone n
  · rfl

@[simp] theorem Line.postRung_relay : (l.postRung n ms).relay = l.relay := by
  unfold Line.postRung
  split
  · exact l.idled_relay n
  · rfl

@[simp] theorem Line.postRung_slot : (l.postRung n ms).slot = l.slot := by
  unfold Line.postRung
  split
  · exact l.idled_slot n
  · rfl

/-- A selector that is released stays so. -/
theorem Line.postRung_selector (h : l.selector = none) : (l.postRung n ms).selector = none := by
  unfold Line.postRung Line.idled
  split
  · split
    · exact h
    · rfl
  · exact h

variable {ms}

theorem Line.postRung_of_guard (h : ms ≠ 0) :
    (l.postRung n ms).st = .releaseGuard ∧ (l.postRung n ms).guard = some ⟨0, ms⟩ := by
  rw [Line.postRung, if_neg h]
  exact ⟨rfl, rfl⟩

theorem Line.postRung_of_zero (h : ms = 0) : (l.postRung n ms).st = if l.equipped then .idle else .unequipped := by
  rw [Line.postRung, if_pos h, Line.idled_st]

end

/-! ### What stands whatever is admitted or granted on -/

/-- The chip with the ringing of line x over: its allocation removed, with the walk that it brings, and its slot given up, with the
grants that it brings. -/
def Chip.ringOver (c : Chip) (x : LineNo) : Chip := releaseSlot x (removeAlloc x c)

section
variable (c : Chip) (x y : LineNo)

theorem removeAlloc_fixed : ((removeAlloc x c).line y).fixed = (c.line y).fixed := by
  unfold removeAlloc
  split
  · next a _ => exact (((Chip.Spares.refl x c).dropAlloc (.inl rfl) a).walk).fixed y
  · rfl

theorem Chip.ringOver_quiet : Quiet c (c.ringOver x) := ((Quiet.refl c).removeAlloc x).releaseSlot x

theorem Chip.ringOver_fixed : ((c.ringOver x).line y).fixed = (c.line y).fixed :=
  (releaseSlot_fixed x y _).trans (removeAlloc_fixed c x y)

@[simp] theorem Chip.ringOver_timing : (c.ringOver x).timing y = c.timing y := by
  have htset : ((c.ringOver x).line y).tset = (c.line y).tset := congrArg Prod.fst (c.ringOver_fixed x y)
  simp only [Chip.timing, htset, (c.ringOver_quiet x).sets]

theorem Chip.ringOver_equipped : ((c.ringOver x).line x).equipped = (c.line x).equipped := by
  have hremove : (removeAlloc x c).equips = c.equips := by
    unfold removeAlloc
    split
    · rw [walk_equips, dropAlloc_equips]
    · rfl
  exact congrFun (releaseSlot_equips.trans hremove) x

end

/-! ### The ringing of a line alone -/

section
variable {c d : Chip} {x : LineNo} {k : SlotNo} {a : Alloc}

/-- Line x has the allocation `a` in slot k, and no other request waits, to be rung or for a slot. -/
structure Chip.RingsAlone (c : Chip) (x : LineNo) (k : SlotNo) (a : Alloc) : Prop where
  slot : (c.line x).slot = some k
  alloc : (c.slot k).ctx.alloc = some a
  queue : c.rsc.queue = []
  waitList : c.sst.waitList = []

/-- The Ring Scheduler without the allocation `a` of line x and its load (06 R102). -/
def Chip.rscWithout (c : Chip) (x : LineNo) (a : Alloc) : Rsc :=
  { c.rsc with
    plt := pltSub c.shc.hdr.n c.rsc.plt ((c.ctb.active[a.plan]).getD []) a.phase a.load
    allocs := c.rsc.allocs.filter (· ≠ x) }

theorem walk_of_empty (h : c.rsc.queue = []) : walk c = c := by
  have hdemand : c.demand = false := by simp [Chip.demand, h]
  unfold walk
  split
  · rw [h]
    rfl
  · rw [if_neg (by simp [hdemand])]
  all_goals rfl

theorem Chip.alloc_of_slot (hs : (c.line x).slot = some k) : c.alloc x = (c.slot k).ctx.alloc := by
  simp [Chip.alloc, Chip.ctx_of_slot hs]

/-- The slot with the allocation gone from its call context. -/
def Slot.unrung (s : Slot) : Slot := { s with ctx := { s.ctx with alloc := none } }

/-- The line with its relay open and its selector released. -/
def Line.unrung (l : Line) (blank : Nat) : Line := { l.moveRelay blank false with selector := none }

/-- A removal as one update of the Ring Scheduler, of the line and of its slot (06 R102). -/
theorem dropAlloc_eq (hs : (c.line x).slot = some k) (a : Alloc) :
    dropAlloc x a c = ((c.modRsc fun _ => c.rscWithout x a).modSlot k Slot.unrung).modLine x fun l =>
      l.unrung (c.timing x).burstBlank := by
  have hctx := modCtx_of_slot (c := c.modRsc fun _ => c.rscWithout x a) hs fun q => { q with alloc := none }
  change setSelector x none (setRelay x false (modCtx x _ (c.modRsc fun _ => c.rscWithout x a))) = _
  rw [hctx, setRelay_eq, setSelector_eq, Chip.modLine_modLine]
  rfl

theorem dropSlot_slot_ne (hs : (c.line x).slot = some k) {j : SlotNo} (hj : j ≠ k) : (dropSlot x c).1.slot j = c.slot j := by
  cases hp : (c.slot k).phase with
  | valid => rw [dropSlot_of_valid hs hp, dropValid_slot_ne _ _ _ hj]
  | fetching =>
    rw [dropSlot_of_fetching hs hp]
    unfold dropFetching
    dsimp only
    split
    · simp [Chip.slot_modSlot_ne _ _ hj]
    · simp [Chip.slot_modSlot_ne _ _ hj]

/-- The ringing of line x on slot k by the allocation `a` is over in `d`, and nothing else has come of it (06 R102, 04 R63). -/
structure Chip.RungOut (c d : Chip) (x : LineNo) (k : SlotNo) (a : Alloc) : Prop where
  relay : (d.line x).relay = false
  selector : (d.line x).selector = none
  slot : (d.line x).slot = none
  others : ∀ y, y ≠ x → d.line y = c.line y
  otherSlots : ∀ j, j ≠ k → d.slot j = c.slot j
  rsc : d.rsc = c.rscWithout x a
  queue : d.jwr.queue = c.jwr.queue
  journal : c.taking = true → d.jwr = c.jwr
  released : (c.slot k).phase = .valid → (d.slot k).holder = none ∧ (d.slot k).ctx = Ctx.fresh

theorem Chip.RingsAlone.rungOut (h : c.RingsAlone x k a) : c.RungOut (c.ringOver x) x k a := by
  have hremove : removeAlloc x c = dropAlloc x a c := by
    have halloc : c.alloc x = some a := (Chip.alloc_of_slot h.slot).trans h.alloc
    simp only [removeAlloc, halloc]
    exact walk_of_empty (by rw [dropAlloc_eq h.slot]; exact h.queue)
  have hdrop := dropAlloc_eq h.slot a
  generalize he : dropAlloc x a c = e at hremove hdrop
  have hover : c.ringOver x = (dropSlot x e).1 := by
    rw [Chip.ringOver, hremove]
    exact releaseSlot_of_nil x (by rw [hdrop]; exact h.waitList)
  have hline : e.line x = (c.line x).unrung (c.timing x).burstBlank := by simp [hdrop]
  have hslot : (e.line x).slot = some k := by simp [hline, Line.unrung, h.slot]
  have hslotk : e.slot k = (c.slot k).unrung := by simp [hdrop]
  rw [hover]
  refine ⟨?_, ?_, dropSlot_slot x e, fun y hy => ?_, fun j hj => ?_, ?_, ?_, fun ht => ?_, fun hp => ?_⟩
  · rw [dropSlot_relay, hline]
    exact Line.moveRelay_relay _ _ _
  · rw [Line.congr_of_unserved (dropSlot_unserved x e) Line.selector fun _ => rfl, hline]
    rfl
  · rw [dropSlot_line_ne hy, hdrop, Chip.line_modLine_ne _ _ hy]
    rfl
  · rw [dropSlot_slot_ne hslot hj, hdrop]
    exact Chip.slot_modSlot_ne (c.modRsc fun _ => c.rscWithout x a) _ hj
  · rw [dropSlot_rsc, hdrop]
    rfl
  · rw [dropSlot_queue, hdrop]
    rfl
  · rw [dropSlot_jwr_of_taking x (by rw [hdrop]; exact ht), hdrop]
    rfl
  · rw [dropSlot_of_valid hslot (by rw [hslotk]; exact hp), dropValid_slot_self]
    exact (e.slot k).released_cleared

/-- So it stays as the line enters the state that follows. -/
theorem Chip.RungOut.modLine (h : c.RungOut d x k a) {f : Line → Line} (hr : (f (d.line x)).relay = (d.line x).relay)
    (hsel : (f (d.line x)).selector = none) (hs : (f (d.line x)).slot = (d.line x).slot) : c.RungOut (d.modLine x f) x k a where
  relay := by rw [Chip.line_modLine_self, hr, h.relay]
  selector := by rw [Chip.line_modLine_self, hsel]
  slot := by rw [Chip.line_modLine_self, hs, h.slot]
  others y hy := by rw [Chip.line_modLine_ne _ _ hy, h.others y hy]
  otherSlots := h.otherSlots
  rsc := h.rsc
  queue := h.queue
  journal := h.journal
  released := h.released

/-- So it stays as the command is settled. -/
theorem Chip.RungOut.settled (h : c.RungOut d x k a) (c0 : Chip) : c.RungOut (settle c0 d) x k a where
  relay := by rw [settle_line, h.relay]
  selector := by rw [settle_line, h.selector]
  slot := by rw [settle_line, h.slot]
  others y hy := by rw [settle_line, h.others y hy]
  otherSlots j hj := by rw [settle_slot, h.otherSlots j hj]
  rsc := by rw [settle_rsc, h.rsc]
  queue := by rw [settle_jwr, h.queue]
  journal ht := by rw [settle_jwr, h.journal ht]
  released hp := by
    rw [settle_slot]
    exact h.released hp

/-- RELEASE_GUARD, or IDLE, after the ringing. -/
theorem Chip.RungOut.guarded (h : c.RungOut d x k a) : c.RungOut (enterPostRingGuard x d) x k a := by
  rw [enterPostRingGuard_eq]
  exact h.modLine (Line.postRung_relay ..) (Line.postRung_selector _ _ _ h.selector) (Line.postRung_slot ..)

/-- TALK after the ringing. -/
theorem Chip.RungOut.talks (h : c.RungOut d x k a) : c.RungOut (enterTalk x true d) x k a := by
  rw [enterTalk_answered]
  exact h.modLine rfl h.selector rfl

end

section
variable (c : Chip) (x : LineNo)

/-- The line as its ringing ends in RELEASE_GUARD, whatever comes of its load and its slot (07 R118, R120). -/
theorem postRing_line :
    ((enterPostRingGuard x (c.ringOver x)).line x).tone = .none ∧
      ((c.timing x).postRing ≠ 0 →
        ((enterPostRingGuard x (c.ringOver x)).line x).st = .releaseGuard ∧
          ((enterPostRingGuard x (c.ringOver x)).line x).guard = some ⟨0, (c.timing x).postRing⟩) ∧
      ((c.timing x).postRing = 0 →
        ((enterPostRingGuard x (c.ringOver x)).line x).st = if (c.line x).equipped then .idle else .unequipped) := by
  rw [enterPostRingGuard_eq, Chip.line_modLine_self, Chip.ringOver_timing]
  refine ⟨Line.postRung_tone .., Line.postRung_of_guard _ _, fun h => ?_⟩
  rw [Line.postRung_of_zero _ _ h, Chip.ringOver_equipped]

end

end Sys2Proof.Machine
end

section
/-! SUPPORT. STOP_RING taken (07 R118, 10 R150): a ringing line and a line that waits to ring. -/

namespace Sys2Proof.Machine

/-! ### The order taken -/

section
variable {c : Chip} {x : LineNo}

theorem takeOrder_stopRing (he : x.val < c.shc.hdr.equipped) (hu : (c.line x).st ≠ .unequipped) :
    takeOrder ⟨2, word x.val, 0, 0, 0, 0⟩ c =
      withResult (orderStopRing x (copyOrder ⟨2, word x.val, 0, 0, 0, 0⟩ c)) := by
  rw [takeOrder_of_names (k := .stopRing) rfl (by simp [argsInRange, lineInRange_word]) (by simp [orderLine])
    (lineOf_word x) he]
  simp [hu, handOver]

theorem orderStopRing_of_ringing (h : (c.line x).st = .ringing) :
    orderStopRing x c = (enterPostRingGuard x (c.ringOver x), .ok) := by
  simp only [orderStopRing, h]
  rfl

theorem orderStopRing_of_ringWait (h : (c.line x).st = .ringWait) :
    orderStopRing x c = (enterIdle x (releaseSlot x (dropEntry x c)), .ok) := by
  simp only [orderStopRing, h]

theorem orderStopRing_of_talk (h : (c.line x).st = .talk) :
    orderStopRing x c = (c, if (c.line x).answered then .tooLate else .lineBusy) := by
  simp only [orderStopRing, h]

theorem orderStopRing_of_other (h1 : (c.line x).st ≠ .ringing) (h2 : (c.line x).st ≠ .ringWait) (h3 : (c.line x).st ≠ .talk) :
    orderStopRing x c = (c, .lineBusy) := by
  unfold orderStopRing
  split
  · exact absurd ‹_› h1
  · exact absurd ‹_› h2
  · exact absurd ‹_› h3
  · rfl

/-! ### A line that waits to ring -/

/-- The line of an entry given up, whatever its slot brings to others (01 R6, R8). -/
theorem enterIdle_releaseSlot_line (x : LineNo) (c : Chip) :
    ((enterIdle x (releaseSlot x (dropEntry x c))).line x).st = (if (c.line x).equipped then .idle else .unequipped) ∧
      ((enterIdle x (releaseSlot x (dropEntry x c))).line x).tone = .none := by
  have hequipped : ((releaseSlot x (dropEntry x c)).line x).equipped = (c.line x).equipped := congrFun releaseSlot_equips x
  rw [enterIdle_eq, Chip.line_modLine_self, Line.idled_st, Line.idled_tone, hequipped]
  exact ⟨rfl, rfl⟩

/-- With no line waiting for a slot nothing but the line, its slot and its entry is touched (04 R63, R66). -/
theorem enterIdle_releaseSlot_of_nil (hnil : c.sst.waitList = []) (x : LineNo) :
    (enterIdle x (releaseSlot x (dropEntry x c))).rsc = { c.rsc with queue := c.rsc.queue.filter (·.line ≠ x) } ∧
      ((enterIdle x (releaseSlot x (dropEntry x c))).line x).slot = none ∧
      (∀ y, y ≠ x → (enterIdle x (releaseSlot x (dropEntry x c))).line y = c.line y) ∧
      (c.taking = true → (enterIdle x (releaseSlot x (dropEntry x c))).jwr = c.jwr) := by
  rw [releaseSlot_of_nil (c := dropEntry x c) x hnil, enterIdle_eq]
  refine ⟨?_, ?_, fun y hy => ?_, fun ht => ?_⟩
  · rw [Chip.modLine_rsc, dropSlot_rsc]
    rfl
  · rw [Chip.line_modLine_self, Line.idled_slot, dropSlot_slot]
  · rw [Chip.line_modLine_ne _ _ hy, dropSlot_line_ne hy]
    rfl
  · exact dropSlot_jwr_of_taking (c := dropEntry x c) x ht

end

/-! ### The order on the machine -/

section
variable {s : State} {x : LineNo}

/-- An order that ends the ringing of line x, as the machine holds it with the order's result. -/
theorem Chip.RungOut.ordered {c d : Chip} {k : SlotNo} {a : Alloc} {o : OrderCopy} (h : (copyOrder o c).RungOut d x k a)
    (r : Result) : c.RungOut (setResult r d) x k a :=
  ⟨h.relay, h.selector, h.slot, h.others, h.otherSlots, h.rsc, h.queue, h.journal, h.released⟩

/-- STOP_RING of a ringing line (07 R118). -/
theorem stopRing_ringing (hr : Ready s) (hv : Supervised x s) (hst : (s.chip.line x).st = .ringing) :
    ∃ t, exec (.stopRing (word x.val)) s = .next t ∧ Answered ⟨2, word x.val, 0, 0, 0, 0⟩ .ok s t ∧ OrderOnly s t ∧
      (t.chip.line x).tone = .none ∧
      ((s.chip.timing x).postRing ≠ 0 → (t.chip.line x).st = .releaseGuard ∧
        (t.chip.line x).guard = some ⟨0, (s.chip.timing x).postRing⟩) ∧
      ((s.chip.timing x).postRing = 0 →
        (t.chip.line x).st = if (s.chip.line x).equipped then .idle else .unequipped) ∧
      ∀ k a, s.chip.RingsAlone x k a → s.chip.RungOut t.chip x k a := by
  obtain ⟨he, hu⟩ := hv
  generalize ho : (⟨2, word x.val, 0, 0, 0, 0⟩ : OrderCopy) = o
  have htake : takeOrder o s.chip = setResult .ok (enterPostRingGuard x ((copyOrder o s.chip).ringOver x)) := by
    rw [← ho, takeOrder_stopRing he hu, ho, orderStopRing_of_ringing (c := copyOrder o s.chip) hst]
    rfl
  obtain ⟨t, ht, hchip, hans, honly⟩ := next_order hr (i := .stopRing (word x.val)) (by rw [← ho]; rfl) htake
    (((copyOrder o s.chip).ringOver_quiet x).enterPostRingGuard x)
  have hline : t.chip.line x = (enterPostRingGuard x ((copyOrder o s.chip).ringOver x)).line x := by
    rw [hchip, settle_line]
    rfl
  obtain ⟨htone, hguard, hidle⟩ := postRing_line (copyOrder o s.chip) x
  rw [← hline] at htone hguard hidle
  refine ⟨t, ht, hans, honly, htone, hguard, hidle, fun k a h => ?_⟩
  have hc : (copyOrder o s.chip).RingsAlone x k a := ⟨h.slot, h.alloc, h.queue, h.waitList⟩
  rw [hchip]
  exact (hc.rungOut.guarded.ordered .ok).settled s.chip

/-- STOP_RING of a line that waits to ring (07 R118). -/
theorem stopRing_ringWait (hr : Ready s) (hv : Supervised x s) (hst : (s.chip.line x).st = .ringWait) :
    ∃ t, exec (.stopRing (word x.val)) s = .next t ∧ Answered ⟨2, word x.val, 0, 0, 0, 0⟩ .ok s t ∧ OrderOnly s t ∧
      (t.chip.line x).st = (if (s.chip.line x).equipped then .idle else .unequipped) ∧ (t.chip.line x).tone = .none ∧
      (s.chip.sst.waitList = [] →
        t.chip.rsc = { s.chip.rsc with queue := s.chip.rsc.queue.filter (·.line ≠ x) } ∧
          (t.chip.line x).slot = none ∧ OthersKept x s t ∧ (s.chip.jwr.stall = .none → t.chip.jwr = s.chip.jwr)) := by
  obtain ⟨he, hu⟩ := hv
  generalize ho : (⟨2, word x.val, 0, 0, 0, 0⟩ : OrderCopy) = o
  have htake : takeOrder o s.chip = setResult .ok (enterIdle x (releaseSlot x (dropEntry x (copyOrder o s.chip)))) := by
    rw [← ho, takeOrder_stopRing he hu, ho, orderStopRing_of_ringWait (c := copyOrder o s.chip) hst]
    rfl
  obtain ⟨t, ht, hchip, hans, honly⟩ := next_order hr (i := .stopRing (word x.val)) (by rw [← ho]; rfl) htake
    ((((Quiet.refl (copyOrder o s.chip)).dropEntry x).releaseSlot x).enterIdle x)
  have hline (y : LineNo) : t.chip.line y = (enterIdle x (releaseSlot x (dropEntry x (copyOrder o s.chip)))).line y := by
    rw [hchip, settle_line]
    rfl
  obtain ⟨hidle, htone⟩ := enterIdle_releaseSlot_line x (copyOrder o s.chip)
  refine ⟨t, ht, hans, honly, by rw [hline]; exact hidle, by rw [hline]; exact htone, fun hw => ?_⟩
  obtain ⟨hrsc, hslot, hothers, hjwr⟩ := enterIdle_releaseSlot_of_nil (c := copyOrder o s.chip) hw x
  refine ⟨?_, by rw [hline]; exact hslot, fun y hy => by rw [hline]; exact hothers y hy, fun hstall => ?_⟩
  · rw [hchip, settle_rsc]
    exact hrsc
  · have htaking : (copyOrder o s.chip).taking = (s.chip.jwr.stall == .none) := Chip.taking_of_running (c := copyOrder o s.chip) hr.1
    rw [hchip, settle_jwr]
    exact hjwr (by simp [htaking, hstall])

end

end Sys2Proof.Machine

section
open Sys2Proof Sys2Proof.Machine

/-- Settles O38: STOP_RING by the state of its line; a ringing ends, an entry is given up, any other line is refused. -/
theorem stopRingActsByLineState : Obligations.StopRingActsByLineState := by
  unfold Obligations.StopRingActsByLineState
  intro s x hr hv l i o rest
  obtain ⟨he, hu⟩ := hv
  have htake := takeOrder_stopRing he hu
  refine ⟨fun hst => ?_, fun hst => stopRing_ringWait hr ⟨he, hu⟩ hst, fun hst ha => ?_, fun hst ha => ?_, fun h1 h2 h3 => ?_⟩
  · obtain ⟨t, ht, hans, honly, htone, hguard, hidle, hgone⟩ := stopRing_ringing hr ⟨he, hu⟩ hst
    refine ⟨t, ht, hans, honly, htone, hguard, hidle, fun hw hq k a hs halloc => ?_⟩
    have h := hgone k a ⟨hs, halloc, hq, hw⟩
    exact ⟨h.relay, h.selector, h.slot, h.rsc, h.others, h.otherSlots,
      fun hstall => h.journal (by simp [Chip.taking_of_running hr.1, hstall])⟩
  · refine answersOnly_of_takeOrder hr rfl ?_
    rw [htake, orderStopRing_of_talk (c := copyOrder o s.chip) hst]
    exact congrArg (setResult · _) (if_pos ha)
  · refine answersOnly_of_takeOrder hr rfl ?_
    rw [htake, orderStopRing_of_talk (c := copyOrder o s.chip) hst]
    exact congrArg (setResult · _) (if_neg (by simpa [l] using ha))
  · refine answersOnly_of_takeOrder hr rfl ?_
    rw [htake, orderStopRing_of_other (c := copyOrder o s.chip) h1 h2 h3]
    rfl

end
end

section
/-! SUPPORT. The boundary that ends the only ringing (05 R82, R83, 07 R120). -/

namespace Sys2Proof.Machine

/-! ### A record formed -/

section
variable {c : Chip} {x : LineNo} {k : SlotNo} {a : Alloc}

@[simp] theorem emit_hdr (o : Option LineNo) (b : Body) (c : Chip) : (emit o b c).shc.hdr = c.shc.hdr :=
  ((Quiet.refl c).emit o b).shc.hdr

/-- A record formed leaves a line ringing alone. -/
theorem Chip.RingsAlone.emit (h : c.RingsAlone x k a) (o : Option LineNo) (b : Body) : (emit o b c).RingsAlone x k a :=
  ⟨by rw [emit_line, h.slot], by rw [emit_slot, h.alloc], by rw [emit_rsc, h.queue], by rw [emit_sst, h.waitList]⟩

theorem emit_rscWithout (o : Option LineNo) (b : Body) (c : Chip) (x : LineNo) (a : Alloc) :
    (Machine.emit o b c).rscWithout x a = c.rscWithout x a := by
  simp [Chip.rscWithout]

/-! ### The boundary -/

/-- RING_EXPIRED of the allocation `a` of line x with slot k (07 R120). -/
def Chip.expiryBody (c : Chip) (k : SlotNo) (a : Alloc) : Body := .ringExpired a.party a.plan (c.slot k).ctx.cyclesRung

/-- The expiry of the ringing of a line (07 R120). -/
theorem ringExpired_eq (h : c.RingsAlone x k a) :
    ringExpired x c = enterPostRingGuard x ((emit (some x) (c.expiryBody k a) c).ringOver x) := by
  have halloc : c.alloc x = some a := (Chip.alloc_of_slot h.slot).trans h.alloc
  simp only [ringExpired, halloc, Chip.ctx_of_slot h.slot]
  rfl

/-- The chip at the boundary whose plan-wrap count ends the ringing of slot k, before the expiry is taken (05 R82, R83). -/
def Chip.cycleCounted (c : Chip) (k : SlotNo) : Chip := c.stepped.modSlot k fun s => { s with ctx := s.ctx.countCycle }

theorem filter_allLines_singleton (x : LineNo) : allLines.filter (· ∈ [x]) = [x] := by
  have hcount : allLines.count x = 1 := List.count_eq_one_of_mem (List.nodup_finRange 96) (List.mem_finRange x)
  simp only [List.mem_singleton, List.filter_eq, hcount]
  rfl

/-- Line x alone rings, burst applied, with one cycle left of those ordered, and the boundary that is due begins its plan (05 R83). -/
structure Chip.LastCycle (c : Chip) (x : LineNo) (k : SlotNo) (a : Alloc) : Prop extends c.RingsAlone x k a where
  within : c.ctb.step + 1 < c.shc.hdr.n
  allocs : c.rsc.allocs = [x]
  burst : (c.slot k).ctx.burst = true
  wraps : a.phase = c.ctb.step + 1
  last : a.cyclesLeft = 1

theorem Chip.LastCycle.countEnds (h : c.LastCycle x k a) : c.stepped.countEnds x = true := by
  have halloc : c.stepped.alloc x = some a := (Chip.alloc_of_slot (c := c.stepped) h.slot).trans h.alloc
  have hburst : (c.stepped.slot k).ctx.burst = true := h.burst
  have hwraps : a.phase = c.stepped.ctb.step := h.wraps
  simp [Chip.countEnds, halloc, Chip.ctx_of_slot (c := c.stepped) h.slot, hburst, hwraps, h.last]

theorem Chip.LastCycle.ringEnds (h : c.LastCycle x k a) : c.ringEnds x = true := by
  simp [Chip.ringEnds, beginStep_of_lt h.within, h.allocs, h.countEnds]

theorem Chip.LastCycle.boundary_eq (h : c.LastCycle x k a) : boundary c = ringExpired x (c.cycleCounted k) := by
  have halloc : c.stepped.alloc x = some a := (Chip.alloc_of_slot (c := c.stepped) h.slot).trans h.alloc
  have hburst : (c.stepped.slot k).ctx.burst = true := h.burst
  have hwraps : (a.phase == c.stepped.ctb.step) = true := beq_iff_eq.2 h.wraps
  rw [boundary, beginStep_of_lt h.within, h.allocs, filter_allLines_singleton, List.foldl_cons, List.foldl_nil, boundaryLine]
  simp only [halloc, Chip.ctx_of_slot (c := c.stepped) h.slot, hburst, hwraps, h.countEnds, if_true]
  exact congrArg (ringExpired x) (modCtx_of_slot (c := c.stepped) h.slot Ctx.countCycle)

/-- The allocation as the plan-wrap count leaves it (05 R83). -/
def Alloc.counted (a : Alloc) : Alloc := { a with cyclesLeft := a.cyclesLeft - 1 }

theorem Chip.LastCycle.counted (h : c.LastCycle x k a) : (c.cycleCounted k).RingsAlone x k a.counted where
  slot := h.slot
  alloc := by
    have halloc : (c.stepped.slot k).ctx.alloc = some a := h.alloc
    simp [Chip.cycleCounted, Ctx.countCycle, halloc, Alloc.counted]
  queue := h.queue
  waitList := h.waitList

theorem Chip.cycleCounted_line (c : Chip) (k : SlotNo) (y : LineNo) : (c.cycleCounted k).line y = c.line y := rfl

theorem Chip.cycleCounted_slot_ne (c : Chip) {j : SlotNo} (hj : j ≠ k) : (c.cycleCounted k).slot j = c.slot j :=
  Chip.slot_modSlot_ne c.stepped _ hj

theorem Chip.expiryBody_counted (c : Chip) (k : SlotNo) (a : Alloc) :
    (c.cycleCounted k).expiryBody k a.counted = .ringExpired a.party a.plan (min 255 ((c.slot k).ctx.cyclesRung + 1)) := by
  simp [Chip.expiryBody, Chip.cycleCounted, Ctx.countCycle, Alloc.counted]
  rfl

end

/-! ### The commands -/

section
variable {s : State} {x : LineNo} {k : SlotNo} {a : Alloc}

theorem exec_ringExpiry (hdue : s.chip.boundaryDue = true) (h : s.chip.ringEnds x = true) :
    exec (.ringExpiry x) s = finish s (boundary s.chip) := if_pos ⟨hdue, h⟩

theorem exec_stepBoundary (hdue : s.chip.boundaryDue = true) : exec .stepBoundary s = finish s (boundary s.chip) := if_pos hdue

/-- RING_EXPIRY of the only line that rings (07 R120). -/
theorem ringExpiry_expires (hdue : s.chip.boundaryDue = true) (h : s.chip.LastCycle x k a) :
    ∃ t, exec (.ringExpiry x) s = .next t ∧
      ((s.chip.timing x).postRing ≠ 0 → (t.chip.line x).st = .releaseGuard ∧
        (t.chip.line x).guard = some ⟨0, (s.chip.timing x).postRing⟩) ∧
      ((s.chip.timing x).postRing = 0 →
        (t.chip.line x).st = if (s.chip.line x).equipped then .idle else .unequipped) ∧
      (emit (some x) ((s.chip.cycleCounted k).expiryBody k a.counted) (s.chip.cycleCounted k)).RungOut t.chip x k a.counted := by
  have hexec := exec_ringExpiry hdue h.ringEnds
  have halone := h.counted
  rw [h.boundary_eq, ringExpired_eq halone] at hexec
  generalize hb : (s.chip.cycleCounted k).expiryBody k a.counted = b at hexec ⊢
  have halone' := halone.emit (some x) b
  obtain ⟨-, hguard, hidle⟩ := postRing_line (emit (some x) b (s.chip.cycleCounted k)) x
  rw [emit_timing] at hguard hidle
  rw [emit_line] at hidle
  refine ⟨_, hexec.trans (finish_eq _ _), ?_, ?_, halone'.rungOut.guarded.settled s.chip⟩
  · rw [settle_line]
    exact hguard
  · rw [settle_line]
    exact hidle

end

end Sys2Proof.Machine

section
open Sys2Proof Sys2Proof.Machine

/-- Settles O32: the boundary is the expiry of the one line that rings, and STEP_BOUNDARY is the same boundary. -/
theorem ringExpiryEndsTheRinging : Obligations.RingExpiryEndsTheRinging := by
  unfold Obligations.RingExpiryEndsTheRinging
  intro s x k a hdue hn hallocs hqueue hw hs hp ha hb hwrap hlast
  have h : s.chip.LastCycle x k a := ⟨⟨hs, ha, hqueue, hw⟩, hn, hallocs, hb, hwrap, hlast⟩
  refine ⟨(exec_ringExpiry hdue h.ringEnds).trans (exec_stepBoundary hdue).symm, ?_⟩
  obtain ⟨t, ht, hguard, hidle, hout⟩ := ringExpiry_expires hdue h
  have hphase : ((emit (some x) ((s.chip.cycleCounted k).expiryBody k a.counted) (s.chip.cycleCounted k)).slot k).phase = .valid := by
    rw [emit_slot, Chip.cycleCounted, Chip.slot_modSlot_self]
    exact hp
  obtain ⟨hholder, hctx⟩ := hout.released hphase
  have hrsc := hout.rsc.trans (emit_rscWithout ..)
  refine ⟨t, ht, ?_, ?_, hout.relay, hout.selector, hout.slot, hctx, hholder, hguard, hidle, fun hq => ?_, fun y hy => ?_,
    fun j hj => ?_⟩
  · rw [hrsc]
    have hcounted : (s.chip.cycleCounted k).rsc.allocs = [x] := hallocs
    simp [Chip.rscWithout, hcounted]
  · rw [hrsc]
    exact hqueue
  · have hq' : (s.chip.cycleCounted k).Queueing x := Chip.Queueing.congr ((queues_iff x s).1 hq) rfl rfl
    rw [hout.queue, emit_of_queueing hq', Chip.expiryBody_counted]
    rfl
  · rw [hout.others y hy, emit_line, Chip.cycleCounted_line]
  · rw [hout.otherSlots j hj, emit_slot, Chip.cycleCounted_slot_ne _ hj]

end
end

section
/-! SUPPORT. The write queue loses nothing (10 R154): admissions, trips, shed lines and grants of slots add records at its tail, or
fold them. -/

namespace Sys2Proof.Machine

/-- The write queue of `d` is that of `c` with records behind it. -/
def Chip.Appends (c d : Chip) : Prop := c.jwr.queue <+: d.jwr.queue

namespace Chip.Appends
variable {c d e : Chip} {x : LineNo}

theorem refl (c : Chip) : Appends c c := List.prefix_refl _

theorem trans (h : Appends c d) (k : Appends d e) : Appends c e := List.IsPrefix.trans h k

theorem jwr (h : Appends c d) (he : e.jwr = d.jwr) : Appends c e := by
  rw [Appends, he]
  exact h

/-! ### The updates -/

theorem modLine (h : Appends c d) (x : LineNo) (f : Line → Line) : Appends c (d.modLine x f) := h
theorem modRsc (h : Appends c d) (f : Rsc → Rsc) : Appends c (d.modRsc f) := h
theorem modGen (h : Appends c d) (f : Gen → Gen) : Appends c (d.modGen f) := h
theorem setSt (h : Appends c d) (st : LineSt) : Appends c (setSt x st d) := h.modLine _ _
theorem openRelays (h : Appends c d) : Appends c (openRelays d) := h

theorem emit (h : Appends c d) (o : Option LineNo) (b : Body) : Appends c (emit o b d) := h.trans (emit_queue_prefix o b d)

theorem raiseFault (h : Appends c d) (k : FaultKind) (o : Option LineNo) (n : Nat) : Appends c (raiseFault k o n d) :=
  h.trans (raiseFault_queue_prefix k o n d)

theorem modCtx (h : Appends c d) (f : Ctx → Ctx) : Appends c (modCtx x f d) := by
  unfold Machine.modCtx
  split
  · exact h
  · exact h

/-! ### Ringing and the generator -/

theorem dropAlloc (h : Appends c d) (a : Alloc) : Appends c (dropAlloc x a d) :=
  (((h.modRsc _).modCtx _).modLine x _).modLine x _

theorem shedLine (h : Appends c d) (why : ShedReason) (x : LineNo) : Appends c (shedLine why x d) := by
  unfold Machine.shedLine
  split
  · exact h
  · next a _ => exact ((((h.dropAlloc a).modRsc _).modCtx _).setSt _).emit _ _

theorem setGen (h : Appends c d) (st : GenSt) (w : GenCause) (n : Nat) : Appends c (setGen st w n d) := by
  have hemit := (h.modGen fun g => { g with state := st }).emit none (.genState st d.gen.state w n)
  unfold Machine.setGen
  split
  · exact hemit
  · exact hemit

theorem tripGen (h : Appends c d) : Appends c (tripGen d) := by
  have hfold (l : List LineNo) {d : Chip} (h : Appends c d) : Appends c (l.foldl (fun c x => Machine.shedLine .trip x c) d) := by
    induction l generalizing d with
    | nil => exact h
    | cons x l ih => exact ih (h.shedLine _ x)
  unfold Machine.tripGen
  refine hfold _ ?_
  split
  · exact ((((h.modGen _).openRelays).modGen _).setGen _ _ _).raiseFault _ _ _
  · exact ((((h.modGen _).openRelays).modGen _).setGen _ _ _).raiseFault _ _ _

theorem startRequest (h : Appends c d) : Appends c (startRequest d) := by
  unfold Machine.startRequest
  split
  · dsimp only
    split
    · exact ((h.modGen _).setGen _ _ _).tripGen
    · exact (h.modGen _).setGen _ _ _
  · exact h

theorem tryAdmit {q : RingWait} (h : tryAdmit q d = some e) : Appends d e := by
  unfold Machine.tryAdmit at h
  split at h
  · split at h
    · obtain ⟨k, -, rfl⟩ := Option.map_eq_some_iff.1 h
      exact (((((refl d).modCtx _).modRsc _).modLine _ _).setSt _).emit _ _
    · cases h
  · cases h

theorem walkFrom (l : List RingWait) (h : Appends c d) : Appends c (walkFrom l d) := by
  induction l generalizing d with
  | nil => exact h
  | cons q l ih =>
    unfold Machine.walkFrom
    split
    · split
      · next hq => exact ih (h.trans (tryAdmit hq))
      · split
        · exact h
        · exact ih h
    · exact ih h

theorem walk (h : Appends c d) : Appends c (walk d) := by
  unfold Machine.walk
  split
  · exact h.walkFrom _
  · split
    · exact h.startRequest
    · exact h
  all_goals exact h

theorem removeAlloc (h : Appends c d) : Appends c (removeAlloc x d) := by
  unfold Machine.removeAlloc
  split
  · exact (h.dropAlloc _).walk
  · exact h

/-! ### Slots -/

theorem markFailed (h : Appends c d) : Appends c (markFailed x d) := by
  unfold Machine.markFailed
  split
  · exact h
  · exact h

theorem dropSlot (h : Appends c d) : Appends c (dropSlot x d).1 := by
  rw [Appends, dropSlot_queue]
  exact h

theorem enterIdle (h : Appends c d) : Appends c (enterIdle x d) := by
  rw [enterIdle_eq]
  exact h

theorem refuseRing (h : Appends c d) (why : RingFail) (p : Nat) : Appends c (refuseRing x why p d).1 := by
  have hmark : Appends c (if why = .record then Machine.markFailed x d else d) := by
    split
    · exact h.markFailed
    · exact h
  exact ((((hmark.raiseFault _ _ _).emit _ _).modRsc _).dropSlot).enterIdle

theorem applyDialTone (h : Appends c d) : Appends c (applyDialTone x d) := by
  rw [applyDialTone_eq]
  exact (h.modLine x _).emit _ _

theorem refuseSeizure (h : Appends c d) : Appends c (refuseSeizure x d).1 := by
  have hparked : Appends c (enterParked x none
      (Machine.dropSlot x (Machine.raiseFault .recordInvalid (some x) 0 (Machine.markFailed x d))).1) :=
    (h.markFailed.raiseFault _ _ _).dropSlot
  exact hparked.emit _ _

theorem acceptRecall (h : Appends c d) (copy : Vector Word 8) : Appends c (acceptRecall x copy d) := by
  rw [acceptRecall_eq]
  exact h

theorem takeRecord (h : Appends c d) : Appends c (takeRecord x d).1 := by
  unfold Machine.takeRecord
  split
  · exact h
  · dsimp only
    split
    · split
      · exact h.applyDialTone
      · exact h.refuseSeizure
    · split
      · exact h
      · split
        · exact h.refuseRing _ _
        · split
          · exact h.refuseRing _ _
          · exact (h.modRsc _).walk
    · split
      · exact h.acceptRecall _
      · exact (h.markFailed.raiseFault _ _ _).dropSlot
    · exact h

theorem takeGrant (h : Appends c d) (i : SlotNo) : Appends c (takeGrant i x d).1 := by
  unfold Machine.takeGrant
  dsimp only
  split
  · exact h
  · exact (h.modRsc _).takeRecord

theorem settleFreed (n : Nat) (i : SlotNo) (h : Appends c d) : Appends c (settleFreed n i d) := by
  induction n generalizing i d with
  | zero => exact h
  | succ n ih =>
    unfold Machine.settleFreed
    split
    · exact h
    · next e rest _ =>
      split
      · have hbound : Appends c (bindSlot i e.line (d.setWaitList rest)) := h.jwr (bindSlot_jwr ..)
        dsimp only
        split
        · exact ih _ (hbound.takeGrant i)
        · exact hbound.takeGrant i
      · exact h

theorem releaseSlot (h : Appends c d) : Appends c (releaseSlot x d) := by
  unfold Machine.releaseSlot grantFreed
  split
  · exact settleFreed _ _ h.dropSlot
  · exact h.dropSlot

/-- The end of a ringing. -/
theorem ringOver (h : Appends c d) : Appends c (d.ringOver x) := h.removeAlloc.releaseSlot

end Chip.Appends

end Sys2Proof.Machine
end

section
/-! SUPPORT. An answer (07 R116, R117): its record, and TALK whatever its walk and its freed slot bring to others. -/

namespace Sys2Proof.Machine

/-! ### The record and what follows it -/

/-- The record of an answer of line x (07 R116, R117). -/
def Chip.answerBody (c : Chip) (x : LineNo) (means : AnswerMeans) : Body :=
  .answer (((c.ctx x).map (·.cyclesRung)).getD 0)
    (means = .waiting ∨ ((c.ctx x).map (·.burst)).getD false = false) means

/-- The chip with ANSWER of line x formed. -/
def Chip.answering (c : Chip) (x : LineNo) (means : AnswerMeans) : Chip := emit (some x) (c.answerBody x means) c

/-- The chip as an answer of line x comes to enter TALK: an entry that waits is gone, or a ringing over, and the slot given up. -/
def Chip.answerOver (c : Chip) (x : LineNo) (means : AnswerMeans) : Chip :=
  if means = .waiting then releaseSlot x (dropEntry x (c.answering x means)) else (c.answering x means).ringOver x

section
variable {c : Chip} {x : LineNo} {k : SlotNo} {a : Alloc} {means : AnswerMeans}

theorem answer_eq (h : means ≠ .waiting) (x : LineNo) (c : Chip) : answer x means c = enterTalk x true (c.answerOver x means) := by
  rw [Chip.answerOver, if_neg h, Chip.answering, Chip.answerBody]
  unfold answer
  cases c.ctx x with
  | none => simp [h, Ctx.fresh, Chip.ringOver]
  | some k => simp [h, Chip.ringOver]

theorem earlyAnswer_eq (x : LineNo) (c : Chip) : earlyAnswer x c = enterTalk x true (c.answerOver x .waiting) := by
  rw [Chip.answerOver, if_pos rfl, Chip.answering, Chip.answerBody]
  unfold earlyAnswer
  cases c.ctx x with
  | none => simp [Ctx.fresh]
  | some k => simp

/-- Every line keeps its hook state over an answer. -/
theorem Chip.answerOver_hook (c : Chip) (x y : LineNo) (means : AnswerMeans) :
    ((c.answerOver x means).line y).hook = (c.line y).hook := by
  have hfixed : ((c.answerOver x means).line y).fixed = ((c.answering x means).line y).fixed := by
    unfold Chip.answerOver
    split
    · exact releaseSlot_fixed x y _
    · exact Chip.ringOver_fixed _ x y
  rw [Chip.answering, emit_line] at hfixed
  exact congrArg (·.2.1) hfixed

theorem Chip.answerOver_quiet (c : Chip) (x : LineNo) (means : AnswerMeans) : Quiet c (c.answerOver x means) := by
  have hrec : Quiet c (c.answering x means) := (Quiet.refl c).emit _ _
  unfold Chip.answerOver
  split
  · exact (hrec.dropEntry x).releaseSlot x
  · exact hrec.trans (Chip.ringOver_quiet _ x)

/-- The records that an answer brings stand behind ANSWER. -/
theorem Chip.answerOver_appends (c : Chip) (x : LineNo) (means : AnswerMeans) :
    (c.answering x means).Appends (c.answerOver x means) := by
  unfold Chip.answerOver
  split
  · exact ((Chip.Appends.refl _).modRsc _).releaseSlot
  · exact (Chip.Appends.refl _).ringOver

/-- ANSWER is queued where the journal queues records of the line (10 R154). -/
theorem Chip.Queueing.answering_queue (h : c.Queueing x) (means : AnswerMeans) :
    (c.answering x means).jwr.queue = c.jwr.queue ++ [⟨some x, c.shc.ms, c.answerBody x means⟩] := by
  rw [Chip.answering, emit_of_queueing h]
  rfl

/-- An early answer while no line waits for a slot touches nothing but the line, its slot and its entry (07 R117). -/
theorem Chip.answerOver_early (hw : c.sst.waitList = []) (x : LineNo) :
    ((c.answerOver x .waiting).line x).slot = none ∧ (∀ y, y ≠ x → (c.answerOver x .waiting).line y = c.line y) ∧
      (c.answerOver x .waiting).rsc = { c.rsc with queue := c.rsc.queue.filter (·.line ≠ x) } ∧
      (c.answerOver x .waiting).jwr.queue = (c.answering x .waiting).jwr.queue := by
  have hover : c.answerOver x .waiting = (dropSlot x (dropEntry x (c.answering x .waiting))).1 := by
    rw [Chip.answerOver, if_pos rfl, releaseSlot_of_nil]
    simpa [Chip.answering] using hw
  rw [hover]
  refine ⟨dropSlot_slot x _, fun y hy => ?_, ?_, ?_⟩
  · rw [dropSlot_line_ne hy]
    exact emit_line _ _ c y
  · rw [dropSlot_rsc]
    simp [Chip.answering, Chip.modRsc]
  · rw [dropSlot_queue]
    rfl

/-- The answer of a line that rings alone ends its ringing and no more (07 R116). -/
theorem Chip.RingsAlone.answerOver (h : c.RingsAlone x k a) (hm : means ≠ .waiting) :
    (c.answering x means).RungOut (c.answerOver x means) x k a := by
  rw [Chip.answerOver, if_neg hm]
  exact (h.emit _ _).rungOut

end

/-! ### The commands that bring an answer -/

section
variable {s : State} {i : Instr} {x : LineNo} {means : AnswerMeans}

/-- The line as a confirmed trip leaves it, before the LCT takes the answer (02 R23). -/
def Line.tripped (l : Line) : Line :=
  { l with
    hook := .off
    interval := if l.hook = .off then l.interval else 0
    tripRun := 0
    run := 0
    threshold := .none
    mark := true }

/-- A trip run that reaches the confirm count on a ringing line answers it (02 R23). -/
theorem tripSense_answers {c : Chip} (hst : (c.line x).st = .ringing) (hn : (c.timing x).tripConfirm ≤ (c.line x).tripRun + 1) :
    tripSense x true c = answer x .trip (c.modLine x Line.tripped) := by
  have hst' : ((c.modLine x Line.tripped).line x).st = .ringing := by
    rw [Chip.line_modLine_self]
    exact hst
  simp only [tripSense, if_pos hn, if_true]
  exact if_pos hst'

/-- TRIP_CONFIRM at the sample that completes the trip run (02 R23). -/
theorem exec_tripConfirm (h : s.Rung x) (hst : (s.chip.line x).st = .ringing)
    (hn : (s.chip.timing x).tripConfirm ≤ (s.chip.line x).tripRun + 1) (loop : Bool) :
    exec (.tripConfirm x loop true) s =
      finish s (answer x .trip (s.chip.modLine x fun l => l.advanced.tripped)) := by
  have hfalls : s.chip.tripFalls x true = true := by
    have hsensed : s.chip.sensed x = (s.chip.line x).advanced := Chip.sensed_of_not_due h.due
    simp [Chip.tripFalls, hsensed, Line.advanced, h.sampling, h.relay, hn]
  have hexec : exec (.tripConfirm x loop true) s = finish s (sample x loop true s.chip) := if_pos hfalls
  rw [hexec, h.sample_eq, tripSense_answers (by rw [Chip.line_modLine_self]; exact hst)
    (by rw [Chip.timing_advanced, Chip.line_modLine_self]; exact hn), Chip.modLine_modLine]

/-- The command i brings an answer of line x: a trip confirmed in RINGING, or an off-hook recognised in RINGING or in RING_WAIT. -/
def State.Answers (s : State) (i : Instr) (x : LineNo) (means : AnswerMeans) : Prop :=
  (∃ loop, i = .tripConfirm x loop true ∧ means = .trip ∧ (s.chip.line x).st = .ringing ∧
      (s.chip.line x).sampling = .on ∧ (s.chip.line x).relay = true ∧ (s.chip.line x).threshold = .none ∧
      (s.chip.timing x).tripConfirm ≤ (s.chip.line x).tripRun + 1) ∨
    (∃ trip, i = .hookTransition x true trip ∧ s.AboutToTurn x true ∧
      (means = .loop ∧ (s.chip.line x).st = .ringing ∨ means = .waiting ∧ (s.chip.line x).st = .ringWait))

/-- The command turns the line off-hook and answers it. -/
theorem State.Answers.exec_eq (h : s.Answers i x means) :
    ∃ f : Line → Line, (f (s.chip.line x)).hook = .off ∧ (f (s.chip.line x)).slot = (s.chip.line x).slot ∧
      exec i s = finish s (enterTalk x true ((s.chip.modLine x f).answerOver x means)) := by
  rcases h with ⟨loop, rfl, rfl, hst, hon, hrelay, hthreshold, hn⟩ | ⟨trip, rfl, hturn, ⟨rfl, hst⟩ | ⟨rfl, hst⟩⟩
  · have hdue : (s.chip.line x).advanced.thresholdDue = false := by simp [Line.thresholdDue, Line.advanced, hthreshold]
    refine ⟨fun l => l.advanced.tripped, rfl, rfl, ?_⟩
    rw [exec_tripConfirm ⟨hon, hdue, hrelay⟩ hst hn, answer_eq (by simp)]
  · refine ⟨fun l => l.turned .off, rfl, rfl, ?_⟩
    have hst' : ((s.chip.turned x .off).line x).st = .ringing := by simpa using hst
    rw [hturn.exec_off trip, ← answer_eq (by simp)]
    simp only [offHook, hst']
    rfl
  · refine ⟨fun l => l.turned .off, rfl, rfl, ?_⟩
    have hst' : ((s.chip.turned x .off).line x).st = .ringWait := by simpa using hst
    rw [hturn.exec_off trip, ← earlyAnswer_eq]
    simp only [offHook, hst']
    rfl

/-- A line that is turned off-hook has the call context that it had. -/
theorem answerBody_modLine {f : Line → Line} (hs : (f (s.chip.line x)).slot = (s.chip.line x).slot) (means : AnswerMeans) :
    (s.chip.modLine x f).answerBody x means = s.chip.answerBody x means := by
  simp [Chip.answerBody, Chip.ctx, hs]

end

end Sys2Proof.Machine

section
open Sys2Proof Sys2Proof.Machine

/-- Settles O21: the line enters TALK over whatever its answer brings to others; ANSWER is formed first, and with no other request waiting
nothing is formed after it. -/
theorem answerEntersTalk : Obligations.AnswerEntersTalk := by
  unfold Obligations.AnswerEntersTalk
  intro s i x means h r
  obtain ⟨f, hhook, hslot, hexec⟩ := State.Answers.exec_eq h
  have hquiet := ((Quiet.refl s.chip).modLine x f).trans (Chip.answerOver_quiet (s.chip.modLine x f) x means)
  have hqueue (hq : Queues x s) : ((s.chip.modLine x f).answering x means).jwr.queue = s.chip.jwr.queue ++ [r] := by
    have hq' : (s.chip.modLine x f).Queueing x := Chip.Queueing.congr ((queues_iff x s).1 hq) rfl rfl
    rw [hq'.answering_queue, answerBody_modLine hslot]
    rfl
  rw [enterTalk_answered] at hexec
  refine ⟨_, hexec.trans (finish_eq _ _), by simp [Line.talking, Line.toned], by simp [Line.talking],
    by simp [Line.talking, Line.toned], ?_, (hquiet.modLine x _).callOnly, fun hq => ?_,
    fun hw => ⟨fun hm => ?_, fun hm hempty k a hs hp ha => ?_⟩⟩
  · rw [settle_line, Chip.line_modLine_self]
    exact (Chip.answerOver_hook _ x x means).trans (by rw [Chip.line_modLine_self]; exact hhook)
  · obtain ⟨more, hmore⟩ := Chip.answerOver_appends (s.chip.modLine x f) x means
    refine ⟨more, ?_⟩
    rw [settle_jwr, Chip.modLine_jwr, ← hmore, hqueue hq, List.append_assoc, List.singleton_append]
  · subst hm
    obtain ⟨hnone, hothers, hrsc, hjwr⟩ := Chip.answerOver_early (c := s.chip.modLine x f) hw x
    refine ⟨?_, fun y hy => ?_, ?_, fun hq => ?_⟩
    · rw [settle_line, Chip.line_modLine_self]
      exact hnone
    · rw [settle_line, Chip.line_modLine_ne _ _ hy, hothers y hy, Chip.line_modLine_ne _ _ hy]
    · rw [settle_rsc, Chip.modLine_rsc, hrsc]
      rfl
    · rw [settle_jwr, Chip.modLine_jwr, hjwr, hqueue hq]
  · have halone : (s.chip.modLine x f).RingsAlone x k a := ⟨by rw [Chip.line_modLine_self, hslot, hs], ha, hempty, hw⟩
    have hover := (halone.answerOver hm).talks.settled s.chip
    rw [enterTalk_answered] at hover
    obtain ⟨hholder, hctx⟩ := hover.released (by rw [Chip.answering, emit_slot]; exact hp)
    refine ⟨hover.slot, hover.relay, hover.selector, hholder, hctx, hover.rsc.trans (emit_rscWithout ..), fun y hy => ?_,
      fun j hj => ?_, fun hq => ?_⟩
    · rw [hover.others y hy, Chip.answering, emit_line, Chip.line_modLine_ne _ _ hy]
    · rw [hover.otherSlots j hj, Chip.answering, emit_slot]
      rfl
    · exact hover.queue.trans (hqueue hq)

end
end

section
/-! SUPPORT. The Ring Wait Queue as an entry joins it (06 R96). -/

namespace Sys2Proof.Machine

section
variable {q ps os : List RingWait} {e : RingWait} {x : LineNo}

theorem queueTail_of_ordinary (q : List RingWait) (he : e.cls = .ordinary) : queueTail q e = q ++ [e] := by
  simp only [queueTail, he]

theorem queueTail_of_priority (he : e.cls = .priority) (q : List RingWait) :
    queueTail q e = q.filter (·.cls = .priority) ++ e :: q.filter (·.cls ≠ .priority) := by
  simp only [queueTail, he]

/-- A PRIORITY entry stands between the PRIORITY entries of a sorted queue and the others. -/
theorem queueTail_sorted (hp : ∀ p ∈ ps, p.cls = .priority) (ho : ∀ o ∈ os, o.cls = .ordinary) (he : e.cls = .priority) :
    queueTail (ps ++ os) e = ps ++ e :: os := by
  have hfirst : (ps ++ os).filter (·.cls = .priority) = ps := by
    rw [List.filter_append, List.filter_eq_self.2 (by simpa using hp),
      List.filter_eq_nil_iff.2 (fun o h => by simp [ho o h]), List.append_nil]
  have hlast : (ps ++ os).filter (·.cls ≠ .priority) = os := by
    rw [List.filter_append, List.filter_eq_nil_iff.2 (fun p h => by simp [hp p h]),
      List.filter_eq_self.2 (fun o h => by simp [ho o h]), List.nil_append]
  rw [queueTail_of_priority he, hfirst, hlast]

/-- An entry joins the queue as it is before or after a change that leaves the entries of the queue and its class alone. -/
theorem map_queueTail {f : RingWait → RingWait} (hq : ∀ p ∈ q, f p = p) (hcls : (f e).cls = e.cls) :
    (queueTail q e).map f = queueTail q (f e) := by
  have hkeep (r : List RingWait) (hr : ∀ p ∈ r, p ∈ q) : r.map f = r :=
    (List.map_congr_left fun p hp => hq p (hr p hp)).trans (List.map_id' r)
  cases he : e.cls with
  | ordinary =>
    rw [queueTail_of_ordinary q he, queueTail_of_ordinary q (hcls.trans he), List.map_append, hkeep q fun _ h => h]
    rfl
  | priority =>
    rw [queueTail_of_priority he, queueTail_of_priority (hcls.trans he), List.map_append, List.map_cons,
      hkeep _ fun _ h => (List.mem_filter.1 h).1, hkeep _ fun _ h => (List.mem_filter.1 h).1]

theorem mem_queueTail {p : RingWait} : p ∈ queueTail q e ↔ p = e ∨ p ∈ q := by
  cases he : e.cls with
  | ordinary => simp [queueTail_of_ordinary q he, or_comm]
  | priority =>
    rw [queueTail_of_priority he]
    by_cases hp : p.cls = .priority <;> simp [hp, or_comm]

/-- The entry of a line that had none is the one that joined. -/
theorem find_queueTail (hq : ∀ p ∈ q, p.line ≠ x) (he : e.line = x) : (queueTail q e).find? (·.line = x) = some e := by
  cases hf : (queueTail q e).find? (·.line = x) with
  | none => exact absurd he (by simpa using List.find?_eq_none.1 hf e (mem_queueTail.2 (.inl rfl)))
  | some p =>
    have hx : p.line = x := by simpa using List.find?_some hf
    rcases mem_queueTail.1 (List.mem_of_find?_eq_some hf) with rfl | hp
    · rfl
    · exact absurd hx (hq p hp)

/-- The entry gone again, a sorted queue is as it was. -/
theorem filter_queueTail_sorted (hp : ∀ p ∈ ps, p.cls = .priority) (ho : ∀ o ∈ os, o.cls = .ordinary)
    (hq : ∀ p ∈ ps ++ os, p.line ≠ x) (he : e.line = x) : (queueTail (ps ++ os) e).filter (·.line ≠ x) = ps ++ os := by
  have hkeep : (ps ++ os).filter (·.line ≠ x) = ps ++ os := List.filter_eq_self.2 fun p h => by simpa using hq p h
  cases hcls : e.cls with
  | ordinary =>
    rw [queueTail_of_ordinary _ hcls, List.filter_append, hkeep]
    simp [he]
  | priority =>
    rw [queueTail_sorted hp ho hcls, List.filter_append, List.filter_cons_of_neg (by simpa using he), ← List.filter_append, hkeep]

/-- Which entry of the line joined, the line's entries gone, does not tell. -/
theorem filter_queueTail_congr {e' : RingWait} (he : e.line = x) (he' : e'.line = x) (hcls : e'.cls = e.cls) :
    (queueTail q e').filter (·.line ≠ x) = (queueTail q e).filter (·.line ≠ x) := by
  cases hc : e.cls with
  | ordinary => simp [queueTail_of_ordinary q hc, queueTail_of_ordinary q (hcls.trans hc), he, he']
  | priority => simp [queueTail_of_priority hc, queueTail_of_priority (hcls.trans hc), he, he']

end

end Sys2Proof.Machine
end

section
/-! SUPPORT. RING taken (07 R110, 10 R150): the line in RING_WAIT with its entry queued, and what its slot request finds (04 R58, R59,
R61, R65). -/

namespace Sys2Proof.Machine

/-- The entry of a line as RING makes it, its slot still to be had (07 R110, 06 R89). -/
def RingWait.asking (x : LineNo) (party : Nat) (plan : Option PlanNo) (cycles : Nat) (cls : LineClass) (notBefore : Option Nat) :
    RingWait :=
  ⟨x, party, plan, cycles, cls, 0, notBefore, true, false, 0⟩

/-- The chip with entry `e` in the queue and line x in RING_WAIT, its slot request still to be made (07 R110). -/
def Chip.ringQueued (c : Chip) (x : LineNo) (e : RingWait) : Chip :=
  (c.modRsc fun r => { r with queue := queueTail r.queue e }).modLine x fun l => l.enter (c.timing x).clearAt .ringWait

/-- The same with the class of the request noted, before a slot is bound (04 R62). -/
def Chip.ringAsked (c : Chip) (x : LineNo) (e : RingWait) : Chip := (c.ringQueued x e).asked x e.cls

/-! ### What an order's copy and its result leave alone (10 R150) -/

section
variable (o : OrderCopy) (r : Result) (c : Chip)

@[simp] theorem copyOrder_sets : (copyOrder o c).sets = c.sets := rfl
@[simp] theorem copyOrder_sst : (copyOrder o c).sst = c.sst := rfl
@[simp] theorem copyOrder_ctb : (copyOrder o c).ctb = c.ctb := rfl
@[simp] theorem copyOrder_rsc : (copyOrder o c).rsc = c.rsc := rfl
@[simp] theorem copyOrder_gen : (copyOrder o c).gen = c.gen := rfl
@[simp] theorem copyOrder_jwr : (copyOrder o c).jwr = c.jwr := rfl
@[simp] theorem copyOrder_mpt : (copyOrder o c).mpt = c.mpt := rfl
@[simp] theorem copyOrder_slot (i : SlotNo) : (copyOrder o c).slot i = c.slot i := rfl
@[simp] theorem copyOrder_planPresent : (copyOrder o c).planPresent = c.planPresent := rfl
@[simp] theorem setResult_sets : (setResult r c).sets = c.sets := rfl
@[simp] theorem setResult_sst : (setResult r c).sst = c.sst := rfl
@[simp] theorem setResult_ctb : (setResult r c).ctb = c.ctb := rfl
@[simp] theorem setResult_rsc : (setResult r c).rsc = c.rsc := rfl
@[simp] theorem setResult_gen : (setResult r c).gen = c.gen := rfl
@[simp] theorem setResult_jwr : (setResult r c).jwr = c.jwr := rfl
@[simp] theorem setResult_mpt : (setResult r c).mpt = c.mpt := rfl
@[simp] theorem setResult_shc : (setResult r c).shc = c.shc := rfl
@[simp] theorem setResult_line (x : LineNo) : (setResult r c).line x = c.line x := rfl
@[simp] theorem setResult_slot (i : SlotNo) : (setResult r c).slot i = c.slot i := rfl

end

/-! ### The order taken -/

section
variable {c : Chip} {x : LineNo}

theorem startRing_eq (party : Nat) (plan : Option PlanNo) (cycles : Nat) (cls : LineClass) (notBefore : Option Nat) :
    startRing x party plan cycles cls notBefore c =
      requestSlot x .terminate cls (c.ringQueued x (.asking x party plan cycles cls notBefore)) := rfl

theorem takeOrder_ring {party plan cycles prio : Word} (he : x.val < c.shc.hdr.equipped) (hu : (c.line x).st ≠ .unequipped)
    (h1 : 1 ≤ party.toNat) (h4 : party.toNat ≤ 4) (h8 : plan.toNat ≤ 8) (h255 : cycles.toNat ≤ 255) (hp : prio.toNat ≤ 1) :
    takeOrder ⟨1, word x.val, party, plan, cycles, prio⟩ c =
      withResult (orderRing x party.toNat (planArg plan) cycles.toNat (prio.toNat == 1)
        (copyOrder ⟨1, word x.val, party, plan, cycles, prio⟩ c)) := by
  rw [takeOrder_of_names (k := .ring) rfl (by simp [argsInRange, lineInRange_word, h1, h4, h8, h255, hp]) (by simp [orderLine])
    (lineOf_word x) he]
  simp [hu, handOver]

/-- The states in which RING begins a ringing (07 R110). -/
def Line.ringable (l : Line) : Prop := l.st = .idle ∨ l.st = .releaseGuard ∧ l.equipped = true ∧ l.hook = .on

/-- What is left of the guard of a line that RING finds in RELEASE_GUARD (07 R111). -/
def Line.notBefore (l : Line) : Option Nat := if l.st = .idle then none else guardLeft l.guard

theorem orderRing_of_ringable (h : (c.line x).ringable) (party : Nat) (plan : Option PlanNo) (cycles : Nat) (prio : Bool) :
    orderRing x party plan cycles prio c =
      (startRing x party plan cycles (effectiveClass (c.line x).cls prio) (c.line x).notBefore c, .ok) := by
  rcases h with h | ⟨h, hequipped, hhook⟩
  · simp [orderRing, Line.notBefore, h]
  · simp [orderRing, Line.notBefore, h, hequipped, hhook]

theorem orderRing_of_unequipped_guard (h : (c.line x).st = .releaseGuard) (he : (c.line x).equipped = false) (party : Nat)
    (plan : Option PlanNo) (cycles : Nat) (prio : Bool) : orderRing x party plan cycles prio c = (c, .noLine) := by
  simp [orderRing, h, he]

theorem orderRing_of_offHook_guard (h : (c.line x).st = .releaseGuard) (he : (c.line x).equipped = true)
    (hh : (c.line x).hook = .off) (party : Nat) (plan : Option PlanNo) (cycles : Nat) (prio : Bool) :
    orderRing x party plan cycles prio c = (c, .lineBusy) := by
  simp [orderRing, h, he, hh]

theorem orderRing_of_blocked (h : (c.line x).st = .blocked) (party : Nat) (plan : Option PlanNo) (cycles : Nat) (prio : Bool) :
    orderRing x party plan cycles prio c = (c, .lineBlocked) := by
  simp [orderRing, h]

theorem orderRing_of_busy
    (h : (c.line x).st ∈ [LineSt.seizeWait, .dialTone, .dialling, .routing, .talk, .recall, .parked, .ringWait, .ringing])
    (party : Nat) (plan : Option PlanNo) (cycles : Nat) (prio : Bool) :
    orderRing x party plan cycles prio c = (c, .lineBusy) := by
  unfold orderRing
  dsimp only
  split
  · next hidle => simp [hidle] at h
  · next hguard => simp [hguard] at h
  · next hblocked => simp [hblocked] at h
  · next hunequipped => simp [hunequipped] at h
  all_goals rfl

theorem effectiveClass_word (own : LineClass) (prio : Word) :
    effectiveClass own (prio.toNat == 1) = if prio = 1 then .priority else own := by
  have hone : prio.toNat = 1 ↔ prio = 1 := by rw [← BitVec.toNat_inj]; rfl
  simp [effectiveClass, hone]

theorem guardLeft_eq (t : Option Timer) :
    guardLeft t = t.bind fun g => if g.duration - g.elapsed = 0 then none else some (g.duration - g.elapsed) := by
  cases t <;> rfl

/-! ### The line in RING_WAIT with its request made -/

section
variable (c : Chip) (x : LineNo) (e : RingWait)

@[simp] theorem Chip.ringAsked_line :
    (c.ringAsked x e).line x = { (c.line x).enter (c.timing x).clearAt .ringWait with askClass := e.cls } := by
  simp [ringAsked, ringQueued, Chip.asked]
theorem Chip.ringAsked_line_ne {y : LineNo} (h : y ≠ x) : (c.ringAsked x e).line y = c.line y := by
  simp [ringAsked, ringQueued, Chip.asked, Chip.line_modLine_ne _ _ h]
@[simp] theorem Chip.ringAsked_slot (j : SlotNo) : (c.ringAsked x e).slot j = c.slot j := rfl
@[simp] theorem Chip.ringAsked_rsc : (c.ringAsked x e).rsc = { c.rsc with queue := queueTail c.rsc.queue e } := rfl
@[simp] theorem Chip.ringAsked_sets : (c.ringAsked x e).sets = c.sets := rfl
@[simp] theorem Chip.ringAsked_sst : (c.ringAsked x e).sst = c.sst := rfl
@[simp] theorem Chip.ringAsked_ctb : (c.ringAsked x e).ctb = c.ctb := rfl
@[simp] theorem Chip.ringAsked_gen : (c.ringAsked x e).gen = c.gen := rfl
@[simp] theorem Chip.ringAsked_ord : (c.ringAsked x e).ord = c.ord := rfl
@[simp] theorem Chip.ringAsked_jwr : (c.ringAsked x e).jwr = c.jwr := rfl
@[simp] theorem Chip.ringAsked_mpt : (c.ringAsked x e).mpt = c.mpt := rfl
@[simp] theorem Chip.ringAsked_shc : (c.ringAsked x e).shc = c.shc := rfl
@[simp] theorem Chip.ringAsked_planPresent : (c.ringAsked x e).planPresent = c.planPresent := rfl

end

section
variable {e : RingWait} {k : SlotNo}

theorem forall_ne_of_entry (hn : c.entry x = none) : ∀ p ∈ c.rsc.queue, p.line ≠ x :=
  fun p hp => by simpa using List.find?_eq_none.1 hn p hp

/-- A line without an entry has the one that joined. -/
theorem Chip.ringAsked_entry (hn : c.entry x = none) (he : e.line = x) : (c.ringAsked x e).entry x = some e :=
  find_queueTail (forall_ne_of_entry hn) he

/-- A change to the entry of a line with a slot bound is a change to the entry that joined. -/
theorem modEntry_ringAsked (hn : c.entry x = none) (he : e.line = x) {f : RingWait → RingWait} (hcls : (f e).cls = e.cls)
    (g : GrantKind) : modEntry x f ((c.ringAsked x e).boundTo x k g) = (c.ringAsked x (f e)).boundTo x k g := by
  have hmap : ((queueTail c.rsc.queue e).map fun p => if p.line = x then f p else p) = queueTail c.rsc.queue (f e) := by
    have hkeep : ∀ p ∈ c.rsc.queue, (if p.line = x then f p else p) = p := fun p hp => if_neg (forall_ne_of_entry hn p hp)
    have hself : (if e.line = x then f e else e) = f e := if_pos he
    rw [map_queueTail hkeep (by rw [hself, hcls]), hself]
  have hqueued : ((c.ringQueued x e).modRsc fun r => { r with queue := r.queue.map fun p => if p.line = x then f p else p }) =
      c.ringQueued x (f e) :=
    congrArg (fun q => (c.modRsc fun r => { r with queue := q }).modLine x fun l => l.enter (c.timing x).clearAt .ringWait) hmap
  rw [modEntry_eq]
  calc _ = (((c.ringQueued x e).modRsc fun r =>
      { r with queue := r.queue.map fun p => if p.line = x then f p else p }).asked x e.cls).boundTo x k g := rfl
    _ = (c.ringAsked x (f e)).boundTo x k g := by rw [hqueued, ← hcls]; rfl

theorem chooseSlot_ringQueued : (c.ringQueued x e).chooseSlot x = c.chooseSlot x := chooseSlot_congr rfl x

/-- No slot is to be had: the line waits (04 R65). -/
theorem requestSlot_ringQueued_waits (hrun : c.shc.run ≠ .starting) (hc : c.chooseSlot x = none) :
    requestSlot x .terminate e.cls (c.ringQueued x e) =
      (c.ringAsked x e).setWaitList (waitTail c.sst.waitList ⟨x, .terminate, e.cls⟩) :=
  requestSlot_waits (c := c.ringQueued x e) hrun (chooseSlot_ringQueued.trans hc) _ _

theorem requestSlot_ringQueued_grants (hrun : c.shc.run ≠ .starting) (hc : c.chooseSlot x = some k) :
    requestSlot x .terminate e.cls (c.ringQueued x e) = grantFreed (takeGrant k x (bindSlot k x (c.ringAsked x e))) :=
  requestSlot_grants (c := c.ringQueued x e) hrun (chooseSlot_ringQueued.trans hc) _ _

/-- The slot chosen holds no copy of the line's record: it is bound and a fetch requested (04 R59, R60). -/
theorem requestSlot_ringQueued_fetches (hrun : c.shc.run ≠ .starting) (hc : c.chooseSlot x = some k) (hm : (c.slot k).Misses x)
    (hn : c.entry x = none) (he : e.line = x) :
    requestSlot x .terminate e.cls (c.ringQueued x e) =
      addRequest (.fetch k)
        ((c.ringAsked x { e with needsSlot := false, fetching := true }).boundTo x k .miss) := by
  have hk : ((c.ringAsked x e).slot k).grantKind x = .miss := hm.grantKind
  rw [requestSlot_ringQueued_grants hrun hc, takeGrant_bindSlot_of_miss hk, bindSlot_of_miss hk]
  exact congrArg (addRequest (.fetch k)) (modEntry_ringAsked hn he (f := fun e => { e with needsSlot := false, fetching := true })
    rfl .miss)

/-- The slot chosen has a fetch of the line's record in progress: the fetch goes on (04 R61). -/
theorem requestSlot_ringQueued_joins (hrun : c.shc.run ≠ .starting) (hc : c.chooseSlot x = some k)
    (hb : (c.slot k).status = .bound) (hn : c.entry x = none) (he : e.line = x) :
    requestSlot x .terminate e.cls (c.ringQueued x e) =
      (c.ringAsked x { e with needsSlot := false, fetching := true }).boundTo x k .running := by
  have hk : ((c.ringAsked x e).slot k).grantKind x = .running := Slot.grantKind_of_bound hb x
  rw [requestSlot_ringQueued_grants hrun hc, bindSlot_of_not_miss hk (by simp), takeGrant_of_fetching (by simp [Slot.bind]),
    modEntry_ringAsked hn he (f := fun e => { e with needsSlot := false, fetching := true }) rfl]
  rfl

/-- The slot chosen is WARM with the line's record, which is taken at once (04 R59). -/
theorem requestSlot_ringQueued_hits (hrun : c.shc.run ≠ .starting) (hc : c.chooseSlot x = some k)
    (hw : (c.slot k).status = .warm) (hr : (c.slot k).recLine = some x) (hn : c.entry x = none) (he : e.line = x) :
    requestSlot x .terminate e.cls (c.ringQueued x e) =
      grantFreed (takeRecord x
        ((c.ringAsked x { e with needsSlot := false, fetching := false }).boundTo x k .hit)) := by
  have hk : ((c.ringAsked x e).slot k).grantKind x = .hit := Slot.grantKind_of_warm hw hr
  rw [requestSlot_ringQueued_grants hrun hc, bindSlot_of_not_miss hk (by simp), takeGrant_of_valid (by simp [Slot.bind]),
    modEntry_ringAsked hn he (f := fun e => { e with needsSlot := false, fetching := false }) rfl]

/-- The record of a WARM slot is taken for the entry that joined (07 R112, R113). -/
theorem takeRecord_ringAsked (hn : c.entry x = none) (he : e.line = x) :
    takeRecord x ((c.ringAsked x e).boundTo x k .hit) =
      if recordValid c.planPresent (c.slot k).copy = false then
        refuseRing x .record e.party ((c.ringAsked x e).boundTo x k .hit)
      else if recPartyCount (c.slot k).copy < e.party then
        refuseRing x .party e.party ((c.ringAsked x e).boundTo x k .hit)
      else (acceptRing x (c.slot k).copy ((c.ringAsked x e).boundTo x k .hit), none) := by
  have hcopy : (((c.ringAsked x e).boundTo x k .hit).slot k).copy = (c.slot k).copy := by simp [Slot.bind]
  rw [takeRecord_of_ringWait (i := k) (by simp [Line.slotted]) (by simp [Line.slotted, Line.enter])
    ((Chip.boundTo_entry _ _).trans (Chip.ringAsked_entry hn he)), hcopy]
  rfl

/-- It is accepted if it is valid and gives the party ordered. -/
theorem takeRecord_ringAsked_accepts (hn : c.entry x = none) (he : e.line = x)
    (hv : recordValid c.planPresent (c.slot k).copy = true) (hp : e.party ≤ recPartyCount (c.slot k).copy) :
    takeRecord x ((c.ringAsked x e).boundTo x k .hit) =
      (walk ((c.ringAsked x (e.accepted (c.slot k).copy)).boundTo x k .hit), none) := by
  rw [takeRecord_ringAsked hn he, if_neg (by simp [hv]), if_neg (by simpa using hp), acceptRing_eq,
    modEntry_ringAsked hn he (f := (·.accepted (c.slot k).copy)) rfl]

/-- It is refused if it is not, with the reason. -/
theorem takeRecord_ringAsked_refuses {v : Bool} (hn : c.entry x = none) (he : e.line = x)
    (hv : recordValid c.planPresent (c.slot k).copy = v) (hbad : v = false ∨ recPartyCount (c.slot k).copy < e.party) :
    takeRecord x ((c.ringAsked x e).boundTo x k .hit) =
      refuseRing x (if v then .party else .record) e.party ((c.ringAsked x e).boundTo x k .hit) := by
  rw [takeRecord_ringAsked hn he, hv]
  cases v with
  | false => rfl
  | true => simp [hbad.resolve_left (by simp)]

end

end

end Sys2Proof.Machine
end

section
/-! SUPPORT. RING on the machine: each outcome of its slot request (07 R110 to R113). -/

namespace Sys2Proof.Machine

section
variable {s : State} {i : Instr} {o : OrderCopy} {x : LineNo} {e : RingWait} {k : SlotNo}

/-- The machine goes on with an order taken. -/
theorem exec_of_takeOrder {d : Chip} (hr : Ready s) (ho : orderOf i = some o) (ht : takeOrder o s.chip = d) :
    exec i s = .next { s with chip := settle s.chip d } :=
  ht ▸ (exec_of_ready hr ho).trans (finish_eq _ _)

variable (hr : Ready s)
  (htake : takeOrder o s.chip = setResult .ok (requestSlot x .terminate e.cls ((copyOrder o s.chip).ringQueued x e)))

theorem copyOrder_run (hr : Ready s) (o : OrderCopy) : (copyOrder o s.chip).shc.run ≠ .starting := hr.1 ▸ nofun

include hr htake

/-- No slot is to be had: the line joins the Slot Wait List (04 R65). -/
theorem ring_waits (ho : orderOf i = some o) (hst : (s.chip.line x).st ≠ .ringWait) (hs : (s.chip.line x).slot = none)
    (hc : s.chip.chooseSlot x = none) :
    ∃ t, exec i s = .next t ∧ (t.chip.line x).st = .ringWait ∧ (t.chip.line x).guard = none ∧
      (t.chip.line x).tone = (s.chip.line x).tone ∧ (t.chip.line x).threshold = .none ∧ (t.chip.line x).mark = true ∧
      (t.chip.line x).slot = none ∧ t.chip.rsc = { s.chip.rsc with queue := queueTail s.chip.rsc.queue e } ∧
      t.chip.sst = { s.chip.sst with waitList := waitTail s.chip.sst.waitList ⟨x, .terminate, e.cls⟩ } ∧
      Answered o .ok s t ∧ OthersKept x s t ∧ OnlyChanges [.lines, .slots, .scheduler, .orders] s t := by
  rw [requestSlot_ringQueued_waits (copyOrder_run hr o) hc] at htake
  refine ⟨_, exec_of_takeOrder hr ho htake, by simp [Line.enter], by simp [Line.enter], by simp [Line.enter],
    by simp [Line.enter, entryThreshold, LineSt.judging], by simp [Line.enter, hst], by simp [Line.enter, hs], by simp,
    by simp [Chip.setWaitList], by simp [Answered, setResult, copyOrder],
    fun y hy => by simp [Chip.ringAsked_line_ne _ _ _ hy], ?_⟩
  apply OnlyChanges.of_chip (m := s.ram) <;> simp

variable (hn : s.chip.entry x = none) (he : e.line = x) (hc : s.chip.chooseSlot x = some k)
include hn he hc

/-- The slot chosen holds no copy of the line's record: it is bound and fetched (04 R59, R60). -/
theorem ring_fetches (ho : orderOf i = some o) (hm : (s.chip.slot k).Misses x) :
    ∃ t, exec i s = .next t ∧ (t.chip.line x).st = .ringWait ∧ (t.chip.line x).guard = none ∧
      (t.chip.line x).slot = some k ∧
      t.chip.rsc =
        { s.chip.rsc with queue := queueTail s.chip.rsc.queue { e with needsSlot := false, fetching := true } } ∧
      (t.chip.slot k).status = .bound ∧ (t.chip.slot k).phase = .fetching ∧ (t.chip.slot k).holder = some x ∧
      (t.chip.slot k).recLine = some x ∧ (t.chip.slot k).ctx = Ctx.fresh ∧
      t.chip.sst.lru = s.chip.sst.lru.filter (· ≠ k) ++ [k] ∧ t.chip.mpt.reqs = s.chip.mpt.reqs ++ [.fetch k] ∧
      OtherSlotsKept k s t ∧ Answered o .ok s t ∧ OthersKept x s t ∧
      OnlyChanges [.lines, .slots, .scheduler, .orders, .port] s t := by
  rw [requestSlot_ringQueued_fetches (c := copyOrder o s.chip) (copyOrder_run hr o) hc hm hn he] at htake
  refine ⟨_, exec_of_takeOrder hr ho htake, by simp [Line.slotted, Line.enter], by simp [Line.slotted, Line.enter],
    by simp [Line.slotted], by simp, by simp [Slot.bind], by simp [Slot.bind], by simp [Slot.bind], by simp [Slot.bind],
    by simp [Slot.bind], by simp, by simp, fun j hj => by simp [Chip.boundTo_slot_ne _ hj],
    by simp [Answered, setResult, copyOrder],
    fun y hy => by simp [Chip.boundTo_line_ne _ hy, Chip.ringAsked_line_ne _ _ _ hy], ?_⟩
  apply OnlyChanges.of_chip (m := s.ram) <;> simp

/-- The slot chosen has a fetch of the line's record in progress, without a holder: the fetch goes on (04 R61). -/
theorem ring_joins (ho : orderOf i = some o) (hb : (s.chip.slot k).status = .bound) :
    ∃ t, exec i s = .next t ∧ (t.chip.line x).st = .ringWait ∧ (t.chip.line x).slot = some k ∧
      t.chip.rsc =
        { s.chip.rsc with queue := queueTail s.chip.rsc.queue { e with needsSlot := false, fetching := true } } ∧
      t.chip.slot k =
        { s.chip.slot k with phase := .fetching, holder := some x, recLine := some x, failed := false, ctx := Ctx.fresh } ∧
      OtherSlotsKept k s t ∧ Answered o .ok s t ∧ OthersKept x s t ∧
      OnlyChanges [.lines, .slots, .scheduler, .orders] s t := by
  rw [requestSlot_ringQueued_joins (c := copyOrder o s.chip) (copyOrder_run hr o) hc hb hn he] at htake
  refine ⟨_, exec_of_takeOrder hr ho htake, by simp [Line.slotted, Line.enter], by simp [Line.slotted], by simp,
    by simp [Slot.bind, hb], fun j hj => by simp [Chip.boundTo_slot_ne _ hj], by simp [Answered, setResult, copyOrder],
    fun y hy => by simp [Chip.boundTo_line_ne _ hy, Chip.ringAsked_line_ne _ _ _ hy], ?_⟩
  apply OnlyChanges.of_chip (m := s.ram) <;> simp

variable (hw : (s.chip.slot k).status = .warm) (hrec : (s.chip.slot k).recLine = some x)
include hw hrec

/-- A slot WARM with the line's record has it taken at once (04 R59). -/
theorem takeOrder_ring_warm :
    takeOrder o s.chip = setResult .ok (grantFreed (takeRecord x
      (((copyOrder o s.chip).ringAsked x { e with needsSlot := false, fetching := false }).boundTo x k .hit))) := by
  rw [htake, requestSlot_ringQueued_hits (c := copyOrder o s.chip) (copyOrder_run hr o) hc hw hrec hn he]

/-- The record gives the party ordered: it is accepted (07 R112). -/
theorem ring_accepts (ho : orderOf i = some o) (hv : recordValid s.chip.planPresent (s.chip.slot k).copy = true)
    (hparty : e.party ≤ recPartyCount (s.chip.slot k).copy) (hg : s.chip.gen.state ≠ .running)
    (hover : s.chip.gen.overload = false) :
    ∃ t, exec i s = .next t ∧ (t.chip.line x).st = .ringWait ∧ (t.chip.line x).slot = some k ∧
      t.chip.rsc = { s.chip.rsc with queue := queueTail s.chip.rsc.queue (e.accepted (s.chip.slot k).copy) } ∧
      (t.chip.slot k).status = .bound ∧ (t.chip.slot k).phase = .valid ∧ (t.chip.slot k).holder = some x ∧
      (t.chip.slot k).ctx = Ctx.fresh ∧ OtherSlotsKept k s t ∧ Answered o .ok s t ∧ OthersKept x s t ∧ OrderOnly s t := by
  obtain ⟨u, hu, hchip, hans, honly⟩ := next_order hr ho htake
    ((((Quiet.refl _).modRsc _).modLine x _).requestSlot x _ _)
  rw [← htake, takeOrder_ring_warm hr htake hn he hc hw hrec,
    takeRecord_ringAsked_accepts (c := copyOrder o s.chip) (e := { e with needsSlot := false, fetching := false }) hn he hv hparty,
    grantFreed_of_none] at hchip
  generalize hB : ((copyOrder o s.chip).ringAsked x (e.accepted (s.chip.slot k).copy)).boundTo x k .hit = B
  obtain ⟨hlines, hsst, hrsc⟩ := walk_parts (c := B) (by simpa [← hB] using hg) (by simpa [← hB] using hover)
  replace hchip : u.chip = settle s.chip (setResult .ok (walk B)) := by rw [hchip, ← hB]; rfl
  have hline (y : LineNo) : u.chip.line y = B.line y := by
    rw [hchip, settle_line]
    exact congrArg (·[y]) hlines
  have hslot (j : SlotNo) : u.chip.slot j = B.slot j := by
    rw [hchip, settle_slot]
    exact congrArg (·.slots[j]) hsst
  refine ⟨u, hu, ?_, ?_, ?_, ?_, ?_, ?_, ?_, fun j hj => ?_, hans, fun y hy => ?_, honly⟩
  · simp [hline, ← hB, Line.slotted, Line.enter]
  · simp [hline, ← hB, Line.slotted]
  · rw [hchip, settle_rsc]
    exact hrsc.trans (by rw [← hB]; rfl)
  · simp [hslot, ← hB, Slot.bind]
  · simp [hslot, ← hB, Slot.bind]
  · simp [hslot, ← hB, Slot.bind]
  · simp [hslot, ← hB, Slot.bind]
  · simp [hslot, ← hB, Chip.boundTo_slot_ne _ hj]
  · simp [hline, ← hB, Chip.boundTo_line_ne _ hy, Chip.ringAsked_line_ne _ _ _ hy]

/-- The record is not valid or does not give the party ordered: it is refused, and the entry and the slot are given up (07 R113). -/
theorem ring_refuses (ho : orderOf i = some o)
    (hbad : recordValid s.chip.planPresent (s.chip.slot k).copy = false ∨ recPartyCount (s.chip.slot k).copy < e.party)
    (hnil : s.chip.sst.waitList = []) :
    ∃ t, exec i s = .next t ∧ (t.chip.line x).st = (if (s.chip.line x).equipped then .idle else .unequipped) ∧
      (t.chip.line x).slot = none ∧ t.chip.shc.attention &&& attnFault = attnFault ∧
      t.chip.rsc = { s.chip.rsc with queue := (queueTail s.chip.rsc.queue e).filter (·.line ≠ x) } ∧
      OtherSlotsKept k s t ∧ Answered o .ok s t ∧ OthersKept x s t ∧ OrderOnly s t ∧
      (Queues x s → s.chip.jwr.counted + 2 ≤ 32 → t.chip.jwr.queue = s.chip.jwr.queue ++
        [⟨some x, s.chip.shc.ms, .fault .recordInvalid 0⟩,
          ⟨some x, s.chip.shc.ms, .ringFailed
            (if recordValid s.chip.planPresent (s.chip.slot k).copy then .party else .record) e.party⟩]) := by
  generalize hv : recordValid s.chip.planPresent (s.chip.slot k).copy = v at hbad ⊢
  obtain ⟨u, hu, hchip, hans, honly⟩ := next_order hr ho htake
    ((((Quiet.refl _).modRsc _).modLine x _).requestSlot x _ _)
  rw [← htake, takeOrder_ring_warm hr htake hn he hc hw hrec,
    takeRecord_ringAsked_refuses (c := copyOrder o s.chip) (e := { e with needsSlot := false, fetching := false }) hn he hv hbad]
    at hchip
  generalize hwhy : (if v then RingFail.party else .record) = why at hchip ⊢
  generalize hB : ((copyOrder o s.chip).ringAsked x { e with needsSlot := false, fetching := false }).boundTo x k .hit = B
    at hchip
  have hequipped : (B.line x).equipped = (s.chip.line x).equipped := by simp [← hB, Line.slotted, Line.enter]
  have hqueue : B.rsc.queue.filter (·.line ≠ x) = (queueTail s.chip.rsc.queue e).filter (·.line ≠ x) := by
    rw [← hB]
    exact filter_queueTail_congr he he rfl
  have hrsc : { B.rsc with queue := B.rsc.queue.filter (·.line ≠ x) } =
      { s.chip.rsc with queue := (queueTail s.chip.rsc.queue e).filter (·.line ≠ x) } := by
    rw [hqueue, ← hB]
    rfl
  rw [refuseRing_eq (i := k) (by simp [← hB, Line.slotted]) (by simp [← hB, Slot.bind]),
    grantFreed_of_nil (by simpa [enterIdle_eq, ← hB] using hnil), enterIdle_eq] at hchip
  refine ⟨u, hu, ?_, ?_, ?_, ?_, fun j hj => ?_, hans, fun y hy => ?_, honly, fun hq hroom => ?_⟩
  · simp [hchip, Line.slotted, hequipped]
  · simp [hchip, Line.slotted]
  · simpa [hchip] using Chip.ringFault_attention B x k why e.party
  · rw [← hrsc]
    simp [hchip, Chip.modRsc]
  · simp [hchip, dropValid_slot_ne _ _ _ hj, Chip.ringFault_slot_ne _ _ _ _ _ hj, ← hB, Chip.boundTo_slot_ne _ hj]
  · simp [hchip, Chip.line_modLine_ne _ _ hy, dropValid_line_ne _ _ _ hy, ← hB, Chip.boundTo_line_ne _ hy,
      Chip.ringAsked_line_ne _ _ _ hy]
  · have hB' : B.Queueing x := Chip.Queueing.congr ((queues_iff x s).1 hq) (by rw [← hB]; rfl) (by rw [← hB]; rfl)
    have := Chip.ringFault_queue (c := B) hB' (by rw [← hB]; exact hroom) k why e.party
    simpa [hchip, ← hB] using this

end

end Sys2Proof.Machine
end

section
open Sys2Proof Sys2Proof.Machine

/-- Settles O37: RING by the state of its line; a line on which it may be rung joins the queue, and its slot request decides. -/
theorem ringActsByLineState : Obligations.RingActsByLineState := by
  unfold Obligations.RingActsByLineState
  refine ⟨fun ps os e hp ho => ⟨queueTail_sorted hp ho, queueTail_of_ordinary _⟩, ?_⟩
  intro s x party plan cycles prio hr ⟨heq, hu⟩ h1 h4 h8 h255 hprio l i o cls e
  have htake := takeOrder_ring (c := s.chip) heq hu h1 h4 h8 h255 hprio
  have refused {r : Result} (h : orderRing x party.toNat (planArg plan) cycles.toNat (prio.toNat == 1) (copyOrder o s.chip) =
      (copyOrder o s.chip, r)) : AnswersOnly i o r s := by
    refine answersOnly_of_takeOrder hr rfl ?_
    rw [htake, h]
    rfl
  refine ⟨fun hst hs hn => ?_,
    fun hst he hh => refused (orderRing_of_offHook_guard (c := copyOrder o s.chip) hst he hh ..),
    fun hst he => refused (orderRing_of_unequipped_guard (c := copyOrder o s.chip) hst he ..),
    fun hst => refused (orderRing_of_busy (c := copyOrder o s.chip) hst ..),
    fun hst => refused (orderRing_of_blocked (c := copyOrder o s.chip) hst ..)⟩
  have hentry : RingWait.asking x party.toNat (planArg plan) cycles.toNat (effectiveClass l.cls (prio.toNat == 1))
      l.notBefore = e := by
    rw [effectiveClass_word, Line.notBefore, guardLeft_eq]
    rfl
  have hring : takeOrder o s.chip = setResult .ok (requestSlot x .terminate e.cls ((copyOrder o s.chip).ringQueued x e)) := by
    rw [htake, orderRing_of_ringable (c := copyOrder o s.chip) hst, startRing_eq, ← hentry]
    rfl
  have hwait : l.st ≠ .ringWait := by
    rcases hst with h | ⟨h, -⟩ <;> simp [h]
  refine ⟨ring_waits hr hring rfl hwait hs, fun k hc hm => ring_fetches hr hring hn rfl hc rfl hm,
    fun k hc hb => ring_joins hr hring hn rfl hc rfl hb, fun k hc hw hrec => ?_⟩
  intro copy valid p
  refine ⟨fun hv hparty hg hover => ?_, fun hbad hnil => ?_⟩
  · have h := ring_accepts (i := i) hr hring hn rfl hc hw hrec rfl hv hparty hg hover
    rw [RingWait.accepted, RingWait.planFor_eq] at h
    exact h
  · obtain ⟨t, ht, hidle, hslot, hflag, hrsc, hslots, hans, hothers, honly, hqueue⟩ :=
      ring_refuses (i := i) hr hring hn rfl hc hw hrec rfl hbad hnil
    refine ⟨t, ht, hidle, hslot, hflag, hrsc, fun ps os hq hp ho => ?_, hslots, hans, hothers, honly, hqueue⟩
    rw [hrsc, hq, filter_queueTail_sorted (e := e) hp ho (hq ▸ forall_ne_of_entry hn) rfl, ← hq]

end

section
/-! SUPPORT. Records that join the write queue one after another while it has room (10 R154). -/

namespace Sys2Proof.Machine

/-- The journal queues the next `n` records: the shelf is RUNNING, no stall stands, and the write queue has room for them. -/
structure Chip.Room (c : Chip) (n : Nat) : Prop where
  run : c.shc.run = .running
  stall : c.jwr.stall = .none
  room : c.jwr.counted + n ≤ 32

/-- The journal of `d` is that of `c` with the records `rs` behind the others of the write queue. -/
structure Chip.Writes (c d : Chip) (rs : List Rec) : Prop where
  run : d.shc.run = c.shc.run
  ms : d.shc.ms = c.shc.ms
  jwr : d.jwr = { c.jwr with queue := c.jwr.queue ++ rs }

section
variable {c d e : Chip} {rs rs' : List Rec} {m n : Nat}

theorem Chip.Room.of_queuesShelf {s : State} (h : QueuesShelf s) : s.chip.Room 1 := by
  obtain ⟨hrun, hstall, hfull⟩ := h
  have hlt : ¬ 32 ≤ s.chip.jwr.counted := of_decide_eq_false hfull
  exact ⟨hrun, hstall, by omega⟩

theorem Chip.Room.of_counted {s : State} (h : QueuesShelf s) (hn : s.chip.jwr.counted + n ≤ 32) : s.chip.Room n :=
  ⟨h.1, h.2.1, hn⟩

/-- Room is a matter of the run state and the journal alone. -/
theorem Chip.Room.congr (h : c.Room n) (hrun : d.shc.run = c.shc.run) (hj : d.jwr = c.jwr) : d.Room n :=
  ⟨hrun.trans h.run, by rw [hj]; exact h.stall, by rw [hj]; exact h.room⟩

theorem Chip.Writes.refl (c : Chip) : c.Writes c [] := ⟨rfl, rfl, by simp⟩

/-- What writes from a chip with the same journal, run state and millisecond counter writes from this one. -/
theorem Chip.Writes.of_congr (h : d.Writes e rs) (hrun : d.shc.run = c.shc.run) (hms : d.shc.ms = c.shc.ms) (hj : d.jwr = c.jwr) :
    c.Writes e rs :=
  ⟨h.run.trans hrun, h.ms.trans hms, by rw [h.jwr, hj]⟩

theorem Chip.Writes.trans (h : c.Writes d rs) (k : d.Writes e rs') : c.Writes e (rs ++ rs') :=
  ⟨k.run.trans h.run, k.ms.trans h.ms, by rw [k.jwr, h.jwr, List.append_assoc]⟩

/-- What touches neither the journal nor the run state and the millisecond counter writes no record. -/
theorem Chip.Writes.congr (h : c.Writes d rs) (hrun : e.shc.run = d.shc.run) (hms : e.shc.ms = d.shc.ms) (hj : e.jwr = d.jwr) :
    c.Writes e rs :=
  ⟨hrun.trans h.run, hms.trans h.ms, hj.trans h.jwr⟩

/-- Records that were written leave room for the rest. -/
theorem Chip.Writes.room (h : c.Writes d rs) (hr : c.Room m) (hm : rs.length + n ≤ m) : d.Room n := by
  refine ⟨h.run.trans hr.run, by rw [h.jwr]; exact hr.stall, ?_⟩
  have hroom := hr.room
  have hlimit : c.jwr.counted + rs.length + n ≤ 32 := by omega
  exact h.jwr ▸ (Nat.add_le_add_right (c.jwr.counted_append_le rs) n).trans hlimit

/-- A record formed while there is room joins the tail of the write queue, stamped with the millisecond counter; a line must hold no
summary (10 R154, R157). -/
theorem Chip.Room.emit (h : c.Room (n + 1)) {o : Option LineNo} (ho : ∀ x ∈ o, c.jwr.summaries[x] = none) (b : Body) :
    c.Writes (emit o b c) [⟨o, c.shc.ms, b⟩] := by
  obtain ⟨hrun, hstall, hroom⟩ := h
  have hfull : c.jwr.full = false := decide_eq_false (by simp only [Config.queueLimit]; omega)
  have hstamp : c.stamp = c.shc.ms := by simp [Chip.stamp, hrun]
  have hheld : (o.map c.heldFlag).getD false = false := by
    cases o with
    | none => rfl
    | some x => simp [Chip.heldFlag, ho x rfl]
  refine ⟨emit_run .., emit_ms .., ?_⟩
  simp [Machine.emit, hrun, enqueue, hstall, hheld, hfull, hstamp]

/-- A record of the shelf. -/
theorem Chip.Room.emit_shelf (h : c.Room (n + 1)) (b : Body) : c.Writes (Machine.emit none b c) [⟨none, c.shc.ms, b⟩] :=
  h.emit (by simp) b

end

end Sys2Proof.Machine
end

section
/-! SUPPORT. A ringing line that goes back to waiting (06 R103, R107, 07 R122): what the shed does to it, to its slot and to the Ring
Scheduler, and the shed of one line after another. -/

namespace Sys2Proof.Machine

/-! ### The Ring Wait Queue -/

theorem queueHead_of_priority {e : RingWait} (he : e.cls = .priority) (q : List RingWait) : queueHead q e = e :: q := by
  simp only [queueHead, he]

/-- An ORDINARY entry stands between the PRIORITY entries of a sorted queue and the others. -/
theorem queueHead_sorted {ps os : List RingWait} {e : RingWait} (hp : ∀ p ∈ ps, p.cls = .priority)
    (ho : ∀ o ∈ os, o.cls = .ordinary) (he : e.cls = .ordinary) : queueHead (ps ++ os) e = ps ++ e :: os := by
  have hsorted := queueTail_sorted (e := { e with cls := .priority }) hp ho rfl
  rw [queueTail_of_priority rfl] at hsorted
  obtain ⟨hfirst, hlast⟩ := List.append_inj hsorted (by
    rw [List.filter_append, List.filter_eq_self.2 (by simpa using hp),
      List.filter_eq_nil_iff.2 (fun o h => by simp [ho o h]), List.append_nil])
  simp only [queueHead, he, hfirst, (List.cons.inj hlast).2]

/-! ### The Phase Load Table (06 R88) -/

@[simp] theorem length_pltAdd (n : Nat) (plt : List Nat) (p : Plan) (phase load : Nat) :
    (pltAdd n plt p phase load).length = n := by simp [pltAdd]

/-- The table with the load of a line's allocation added. -/
def Chip.loadedBy (c : Chip) (plt : List Nat) (x : LineNo) : List Nat :=
  match c.alloc x with
  | some a => pltAdd c.shc.hdr.n plt ((c.ctb.active[a.plan]).getD []) a.phase a.load
  | none => plt

/-- The table with the load of a line's allocation taken away. -/
def Chip.unloadedBy (c : Chip) (plt : List Nat) (x : LineNo) : List Nat :=
  match c.alloc x with
  | some a => pltSub c.shc.hdr.n plt ((c.ctb.active[a.plan]).getD []) a.phase a.load
  | none => plt

section
variable {c d : Chip} {plt : List Nat}

theorem Chip.loads_eq (c : Chip) : c.loads = c.rsc.allocs.foldl c.loadedBy (List.replicate c.shc.hdr.n 0) := rfl

theorem Chip.length_loadedBy (h : plt.length = c.shc.hdr.n) (x : LineNo) : (c.loadedBy plt x).length = c.shc.hdr.n := by
  unfold loadedBy
  split
  · exact length_pltAdd ..
  · exact h

theorem Chip.unloadedBy_loadedBy (h : plt.length = c.shc.hdr.n) (x : LineNo) : c.unloadedBy (c.loadedBy plt x) x = plt := by
  cases ha : c.alloc x with
  | none => simp only [unloadedBy, loadedBy, ha]
  | some a =>
    simp only [unloadedBy, loadedBy, ha]
    exact pltSub_pltAdd _ _ _ _ _ h

/-- Loads taken away newest first, after they were added oldest first, leave the table as it was. -/
theorem Chip.unloaded_loaded (h : plt.length = c.shc.hdr.n) (l : List LineNo) :
    l.reverse.foldl c.unloadedBy (l.foldl c.loadedBy plt) = plt := by
  induction l generalizing plt with
  | nil => rfl
  | cons x l ih =>
    rw [List.foldl_cons, List.reverse_cons, List.foldl_append, ih (c.length_loadedBy h x)]
    exact c.unloadedBy_loadedBy h x

/-! ### One line shed -/

variable {x y : LineNo} {k : SlotNo} {a : Alloc} {why : ShedReason}

theorem Chip.ctx_congr (hl : (d.line x).slot = (c.line x).slot) (hs : ∀ k, d.slot k = c.slot k) : d.ctx x = c.ctx x := by
  simp only [Chip.ctx, hl, hs]

theorem Chip.alloc_congr (h : d.ctx x = c.ctx x) : d.alloc x = c.alloc x := by simp only [Chip.alloc, h]

theorem Chip.waitsAgain_congr (h : d.ctx x = c.ctx x) : d.waitsAgain x = c.waitsAgain x := by
  simp only [Chip.waitsAgain, Chip.alloc_congr h]

theorem Chip.unloadedBy_congr (h : d.ctx x = c.ctx x) (hn : d.shc.hdr = c.shc.hdr) (hc : d.ctb = c.ctb) :
    d.unloadedBy plt x = c.unloadedBy plt x := by
  simp only [unloadedBy, Chip.alloc_congr h, hn, hc]

/-- An allocation stands in the context of a slot that the line holds. -/
theorem Chip.slot_of_alloc (h : c.alloc x = some a) : ∃ k, (c.line x).slot = some k ∧ (c.slot k).ctx.alloc = some a := by
  cases hs : (c.line x).slot with
  | none => exact absurd hs (Chip.Spares.slot_of_alloc h)
  | some k => exact ⟨k, rfl, (Chip.alloc_of_slot hs).symm.trans h⟩

/-- The call context of a line that waits again: no allocation, and no burst applied (07 R122). -/
def Ctx.shed (q : Ctx) : Ctx := { q with alloc := none, burst := false }

/-- The line as it waits again: relay open, selector released, RING_WAIT. -/
def Line.shed (l : Line) (T : TimingSet) : Line := (l.unrung T.burstBlank).enter T.clearAt .ringWait

@[simp] theorem Line.shed_st (l : Line) (T : TimingSet) : (l.shed T).st = .ringWait := rfl
@[simp] theorem Line.shed_selector (l : Line) (T : TimingSet) : (l.shed T).selector = none := rfl
@[simp] theorem Line.shed_slot (l : Line) (T : TimingSet) : (l.shed T).slot = l.slot := l.moveRelay_slot T.burstBlank false
@[simp] theorem Line.shed_relay (l : Line) (T : TimingSet) : (l.shed T).relay = false := l.moveRelay_relay T.burstBlank false

/-- The Ring Scheduler with the allocation `a` of line x gone back to the queue. -/
def Chip.rscShed (c : Chip) (x : LineNo) (a : Alloc) : Rsc :=
  { c.rscWithout x a with queue := queueHead c.rsc.queue (c.waitsAgain x) }

/-- The allocation `a` of line x, in slot k, gone back to the queue, SHED still to be formed. -/
def Chip.shed (c : Chip) (x : LineNo) (k : SlotNo) (a : Alloc) : Chip :=
  ((c.modRsc fun _ => c.rscShed x a).modSlot k fun s => { s with ctx := s.ctx.shed }).modLine x (·.shed (c.timing x))

/-- SHED of a line, as it is queued (10 Table 10-12). -/
def Chip.shedRec (c : Chip) (why : ShedReason) (x : LineNo) : Rec :=
  let k := (c.ctx x).getD Ctx.fresh
  let e := c.waitsAgain x
  ⟨some x, c.shc.ms, .shed why e.party (e.plan.getD 0) k.cyclesRung e.cycles⟩

/-- A shed is one update of the Ring Scheduler, one of the slot and one of the line, and SHED. -/
theorem shedLine_eq (hs : (c.line x).slot = some k) (ha : (c.slot k).ctx.alloc = some a) (why : ShedReason) :
    shedLine why x c = emit (some x) (c.shedRec why x).body (c.shed x k a) := by
  have halloc : c.alloc x = some a := (Chip.alloc_of_slot hs).trans ha
  have hchip : setSt x .ringWait (modCtx x (fun q => { q with burst := false })
      ((dropAlloc x a c).modRsc fun r => { r with queue := queueHead r.queue (c.waitsAgain x) })) = c.shed x k a := by
    have hslot : ((dropAlloc x a c).line x).slot = some k := by
      rw [dropAlloc_eq hs, Chip.line_modLine_self]
      exact (Line.moveRelay_slot _ _ _).trans hs
    have htiming : (dropAlloc x a c).timing x = c.timing x := by
      rw [dropAlloc_eq hs]
      exact Chip.timing_modLine _ _ _ _ (congrArg Prod.fst (Line.moveRelay_fixed _ _ _))
    rw [modCtx_of_slot (by exact hslot)]
    calc
      _ = ((((c.modRsc fun _ => c.rscShed x a).modSlot k Slot.unrung).modSlot k fun s =>
            { s with ctx := { s.ctx with burst := false } }).modLine x fun l => l.unrung (c.timing x).burstBlank).modLine x fun l =>
              l.enter ((dropAlloc x a c).timing x).clearAt .ringWait := by
        rw [dropAlloc_eq hs]
        rfl
      _ = c.shed x k a := by
        rw [Chip.modSlot_modSlot, Chip.modLine_modLine, htiming]
        rfl
  have hbody : (c.shedRec why x).body = .shed why a.party a.plan (c.slot k).ctx.cyclesRung a.cyclesLeft := by
    simp [Chip.shedRec, Chip.waitsAgain, halloc, Chip.ctx_of_slot hs]
  have hentry : c.waitsAgain x = ⟨x, a.party, some a.plan, a.cyclesLeft, a.cls, a.age, none, false, false, 0⟩ := by
    simp [Chip.waitsAgain, halloc]
  rw [← hchip, hbody, hentry]
  simp only [shedLine, halloc, Chip.ctx_of_slot hs, Option.map_some, Option.getD_some]

/-- A shed is nothing but the line's place in the allocation list given up, or SHED formed of a line that waits again. -/
theorem shedLine_cases (why : ShedReason) (x : LineNo) (c : Chip) :
    (c.alloc x = none ∧ shedLine why x c = c.modRsc fun r => { r with allocs := r.allocs.filter (· ≠ x) }) ∨
      ∃ k a, (c.line x).slot = some k ∧ c.alloc x = some a ∧
        shedLine why x c = emit (some x) (c.shedRec why x).body (c.shed x k a) := by
  cases ha : c.alloc x with
  | none => exact .inl ⟨rfl, by simp only [shedLine, ha]⟩
  | some a =>
    obtain ⟨k, hs, hk⟩ := Chip.slot_of_alloc ha
    exact .inr ⟨k, a, hs, rfl, shedLine_eq hs hk why⟩

section
variable (why : ShedReason) (x y : LineNo) (c : Chip)

theorem shedLine_gen : (shedLine why x c).gen = c.gen := by
  obtain ⟨-, h⟩ | ⟨k, a, -, -, h⟩ := shedLine_cases why x c <;> simp [h, Chip.shed]

theorem shedLine_fault :
    (shedLine why x c).shc.fault = c.shc.fault ∧ (shedLine why x c).shc.further = c.shc.further := by
  obtain ⟨-, h⟩ | ⟨k, a, -, -, h⟩ := shedLine_cases why x c <;> simp [h, Chip.shed]

theorem shedLine_allocs : (shedLine why x c).rsc.allocs = c.rsc.allocs.filter (· ≠ x) := by
  obtain ⟨-, h⟩ | ⟨k, a, -, -, h⟩ := shedLine_cases why x c <;> simp [h, Chip.shed, Chip.rscShed, Chip.rscWithout]

theorem shedLine_plt : (shedLine why x c).rsc.plt = c.unloadedBy c.rsc.plt x := by
  obtain ⟨ha, h⟩ | ⟨k, a, -, ha, h⟩ := shedLine_cases why x c <;>
    simp [h, Chip.unloadedBy, ha, Chip.shed, Chip.rscShed, Chip.rscWithout]

theorem shedLine_slotRef : ((shedLine why x c).line y).slot = (c.line y).slot := by
  obtain ⟨-, h⟩ | ⟨k, a, -, -, h⟩ := shedLine_cases why x c
  · simp [h]
  · by_cases hy : y = x <;> simp [h, Chip.shed, Chip.line_modLine, hy]

/-- A relay that is open stays open. -/
theorem shedLine_relay (hr : (c.line y).relay = false) : ((shedLine why x c).line y).relay = false := by
  obtain ⟨-, h⟩ | ⟨k, a, -, -, h⟩ := shedLine_cases why x c
  · simp [h, hr]
  · by_cases hy : y = x <;> simp [h, Chip.shed, Chip.line_modLine, hy, hr]

variable {y c}

theorem shedLine_line_ne (hy : y ≠ x) : (shedLine why x c).line y = c.line y := by
  obtain ⟨-, h⟩ | ⟨k, a, -, -, h⟩ := shedLine_cases why x c <;> simp [h, Chip.shed, Chip.line_modLine_ne _ _ hy]

/-- The call context of a line with another slot, or with none, is kept. -/
theorem shedLine_ctx_ne (hy : (c.line y).slot = (c.line x).slot → (c.line y).slot = none) :
    (shedLine why x c).ctx y = c.ctx y := by
  have hslot := shedLine_slotRef why x y c
  obtain ⟨-, h⟩ | ⟨k, a, hk, -, h⟩ := shedLine_cases why x c
  · exact Chip.ctx_congr hslot fun j => by rw [h]; rfl
  · cases hj : (c.line y).slot with
    | none => simp [Chip.ctx, hslot, hj]
    | some j =>
      have hne : j ≠ k := by
        rintro rfl
        exact absurd (hy (hj.trans hk.symm)) (by simp [hj])
      rw [Chip.ctx_of_slot (hslot.trans hj), Chip.ctx_of_slot hj, h, emit_slot, Chip.shed, Chip.modLine_slot,
        Chip.slot_modSlot_ne _ _ hne, Chip.modRsc_slot]

variable {x}

/-- An allocated line that is shed waits in RING_WAIT without selector, its slot kept and its call context reset (07 R122). -/
theorem shedLine_waits (ha : (c.alloc x).isSome = true) :
    ((shedLine why x c).line x).st = .ringWait ∧ ((shedLine why x c).line x).selector = none ∧
      (shedLine why x c).ctx x = (c.ctx x).map Ctx.shed ∧
      (shedLine why x c).rsc.queue = queueHead c.rsc.queue (c.waitsAgain x) := by
  obtain ⟨hnone, -⟩ | ⟨k, a, hk, -, h⟩ := shedLine_cases why x c
  · simp [hnone] at ha
  · have hslot := (shedLine_slotRef why x x c).trans hk
    rw [Chip.ctx_of_slot hslot, Chip.ctx_of_slot hk, h]
    simp [Chip.shed, Chip.rscShed]

end

end

/-! ### One line after another -/

/-- The lines `l` are shed in their order. -/
def Chip.shedAll (c : Chip) (why : ShedReason) (l : List LineNo) : Chip := l.foldl (fun c x => shedLine why x c) c

/-- The lines `l` have their allocations, each in a slot of its own (06 R89). -/
structure Chip.Holds (c : Chip) (l : List LineNo) : Prop where
  nodup : l.Nodup
  alloc : ∀ x ∈ l, (c.alloc x).isSome = true
  apart : ∀ x y : LineNo, (c.line x).slot = (c.line y).slot → (c.line x).slot ≠ none → x = y

section
variable {c : Chip} {why : ShedReason} {l : List LineNo} {x y : LineNo}

theorem AllocLaw.holds (h : AllocLaw c) : c.Holds c.rsc.allocs.reverse :=
  ⟨List.nodup_reverse.2 h.1, fun x hx => h.2.1 x (List.mem_reverse.1 hx), h.2.2⟩

theorem Chip.shedAll_cons (c : Chip) (why : ShedReason) (x : LineNo) (l : List LineNo) :
    c.shedAll why (x :: l) = (shedLine why x c).shedAll why l := rfl

/-- What every shed keeps stands when all are done. -/
theorem Chip.shedAll_keeps {P : Chip → Prop} (hP : ∀ c x, P c → P (shedLine why x c)) (l : List LineNo) (h : P c) :
    P (c.shedAll why l) := by
  induction l generalizing c with
  | nil => exact h
  | cons x l ih => exact ih (hP c x h)

theorem Chip.shedAll_gen (c : Chip) (why : ShedReason) (l : List LineNo) : (c.shedAll why l).gen = c.gen :=
  shedAll_keeps (P := fun d => d.gen = c.gen) (fun d x h => (shedLine_gen why x d).trans h) l rfl

theorem Chip.shedAll_fault (c : Chip) (why : ShedReason) (l : List LineNo) :
    (c.shedAll why l).shc.fault = c.shc.fault ∧ (c.shedAll why l).shc.further = c.shc.further :=
  shedAll_keeps (P := fun d => d.shc.fault = c.shc.fault ∧ d.shc.further = c.shc.further)
    (fun d x h => ⟨(shedLine_fault why x d).1.trans h.1, (shedLine_fault why x d).2.trans h.2⟩) l ⟨rfl, rfl⟩

theorem Chip.shedAll_relay (hr : (c.line y).relay = false) (l : List LineNo) : ((c.shedAll why l).line y).relay = false :=
  shedAll_keeps (P := fun d => (d.line y).relay = false) (fun d x h => shedLine_relay why x y d h) l hr

theorem Chip.shedAll_quiet (c : Chip) (why : ShedReason) (l : List LineNo) : Quiet c (c.shedAll why l) :=
  shedAll_keeps (P := Quiet c) (fun _ x h => h.shedLine why x) l (Quiet.refl c)

theorem Chip.shedAll_allocs (c : Chip) (why : ShedReason) (l : List LineNo) :
    (c.shedAll why l).rsc.allocs = c.rsc.allocs.filter (· ∉ l) := by
  induction l generalizing c with
  | nil => simp [shedAll]
  | cons x l ih =>
    rw [shedAll_cons, ih, shedLine_allocs, List.filter_filter]
    simp [Bool.and_comm]

/-- No allocation is left when all are shed. -/
theorem Chip.shedAll_every (c : Chip) (why : ShedReason) : (c.shedAll why c.rsc.allocs.reverse).rsc.allocs = [] := by
  rw [shedAll_allocs]
  simp

theorem Chip.shedAll_slotRef (c : Chip) (why : ShedReason) (l : List LineNo) (y : LineNo) :
    ((c.shedAll why l).line y).slot = (c.line y).slot :=
  shedAll_keeps (P := fun d => (d.line y).slot = (c.line y).slot) (fun d x h => (shedLine_slotRef why x y d).trans h) l rfl

namespace Chip.Holds

/-- A line other than the first keeps its call context as the first is shed. -/
theorem ctx_ne (h : c.Holds (x :: l)) (hy : y ≠ x) (why : ShedReason) : (shedLine why x c).ctx y = c.ctx y :=
  shedLine_ctx_ne why x fun e => by_contra fun hn => hy (h.apart y x e hn)

theorem ne_of_mem (h : c.Holds (x :: l)) (hy : y ∈ l) : y ≠ x :=
  fun e => (List.nodup_cons.1 h.nodup).1 (e ▸ hy)

theorem tail (h : c.Holds (x :: l)) (why : ShedReason) : (shedLine why x c).Holds l where
  nodup := (List.nodup_cons.1 h.nodup).2
  alloc y hy := by
    rw [Chip.alloc_congr (h.ctx_ne (h.ne_of_mem hy) why)]
    exact h.alloc y (List.mem_cons_of_mem x hy)
  apart y z := by
    rw [shedLine_slotRef, shedLine_slotRef]
    exact h.apart y z

/-- A line that is not among those shed is left as it is, with its call context. -/
theorem shedAll_kept (h : c.Holds l) (hy : y ∉ l) (why : ShedReason) :
    (c.shedAll why l).line y = c.line y ∧ (c.shedAll why l).ctx y = c.ctx y := by
  induction l generalizing c with
  | nil => exact ⟨rfl, rfl⟩
  | cons x l ih =>
    obtain ⟨hyx, hyl⟩ := not_or.1 (List.mem_cons.not.1 hy)
    obtain ⟨hline, hctx⟩ := ih (h.tail why) hyl
    exact ⟨hline.trans (shedLine_line_ne why x hyx), hctx.trans (h.ctx_ne hyx why)⟩

/-- Every line that is shed waits again. -/
theorem shedAll_waits (h : c.Holds l) (hy : y ∈ l) (why : ShedReason) :
    ((c.shedAll why l).line y).st = .ringWait ∧ ((c.shedAll why l).line y).selector = none ∧
      (c.shedAll why l).ctx y = (c.ctx y).map Ctx.shed := by
  induction l generalizing c with
  | nil => cases hy
  | cons x l ih =>
    rw [shedAll_cons]
    by_cases hyl : y ∈ l
    · rw [← h.ctx_ne (h.ne_of_mem hyl) why]
      exact ih (h.tail why) hyl
    · obtain rfl : y = x := (List.mem_cons.1 hy).resolve_right hyl
      obtain ⟨hst, hsel, hctx, -⟩ := shedLine_waits why (h.alloc y hy)
      obtain ⟨hline, hkept⟩ := (h.tail why).shedAll_kept hyl why
      rw [hline, hkept]
      exact ⟨hst, hsel, hctx⟩

/-- The entries of the lines shed join the queue one after another, each at the head of its class. -/
theorem shedAll_queue (h : c.Holds l) (why : ShedReason) :
    (c.shedAll why l).rsc.queue = l.foldl (fun q x => queueHead q (c.waitsAgain x)) c.rsc.queue := by
  induction l generalizing c with
  | nil => rfl
  | cons x l ih =>
    obtain ⟨-, -, -, hqueue⟩ := shedLine_waits why (h.alloc x (List.mem_cons_self ..))
    rw [shedAll_cons, ih (h.tail why), hqueue, List.foldl_cons]
    refine List.foldl_ext _ _ _ fun q y hy => ?_
    rw [Chip.waitsAgain_congr (h.ctx_ne (h.ne_of_mem hy) why)]

/-- The loads of the lines shed leave the table one after another. -/
theorem shedAll_plt (h : c.Holds l) (why : ShedReason) : (c.shedAll why l).rsc.plt = l.foldl c.unloadedBy c.rsc.plt := by
  induction l generalizing c with
  | nil => rfl
  | cons x l ih =>
    have hq := (Quiet.refl c).shedLine why x
    rw [shedAll_cons, ih (h.tail why), shedLine_plt, List.foldl_cons]
    exact List.foldl_ext _ _ _ fun q y hy => Chip.unloadedBy_congr (h.ctx_ne (h.ne_of_mem hy) why) hq.shc.hdr hq.ctb

/-- SHED of a line joins the write queue while there is room and the line holds no summary. -/
theorem writes_one (h : c.Holds (x :: l)) {n : Nat} (hr : c.Room (n + 1)) (hx : c.jwr.summaries[x] = none) (why : ShedReason) :
    c.Writes (shedLine why x c) [c.shedRec why x] := by
  obtain ⟨hnone, -⟩ | ⟨k, a, -, -, e⟩ := shedLine_cases why x c
  · simpa [hnone] using h.alloc x (List.mem_cons_self ..)
  · have hroom : (c.shed x k a).Room (n + 1) := hr.congr rfl rfl
    have hrec := hroom.emit (o := some x) (by simpa [Chip.shed] using hx) (c.shedRec why x).body
    rw [e]
    exact hrec.of_congr rfl rfl rfl

/-- With room for every SHED they join the write queue in the order of the sheds. -/
theorem shedAll_writes (h : c.Holds l) (hr : c.Room l.length) (hx : ∀ x ∈ l, c.jwr.summaries[x] = none) (why : ShedReason) :
    c.Writes (c.shedAll why l) (l.map (c.shedRec why)) := by
  induction l generalizing c with
  | nil => exact Chip.Writes.refl c
  | cons x l ih =>
    have hone := h.writes_one hr (hx x (List.mem_cons_self ..)) why
    have hrest := ih (h.tail why) (hone.room hr (Nat.add_comm ..).le) fun y hy => by
      rw [hone.jwr]
      exact hx y (List.mem_cons_of_mem x hy)
    have hrecs : l.map ((shedLine why x c).shedRec why) = l.map (c.shedRec why) := List.map_congr_left fun y hy => by
      have hctx := h.ctx_ne (h.ne_of_mem hy) why
      simp only [Chip.shedRec, hctx, Chip.waitsAgain_congr hctx, hone.ms]
    exact hone.trans (hrecs ▸ hrest)

end Chip.Holds

end

end Sys2Proof.Machine
end

section
/-! SUPPORT. A change of generator state with its record (08 R135), and a trip (08 R131, R132): the generator, the relays and the records
of the trip itself, and every allocation shed newest first (06 R107). -/

namespace Sys2Proof.Machine

/-! ### A change of state -/

section
variable (st : GenSt) (w : GenCause) (n : Nat) (c : Chip)

/-- A change of generator state changes the state, the Journal Writer and the attention flags, and nothing else. -/
theorem setGen_eq :
    setGen st w n c =
      { c with
        gen := { c.gen with state := st }
        jwr := (setGen st w n c).jwr
        shc := { c.shc with attention := (setGen st w n c).shc.attention } } := by
  unfold setGen
  dsimp only
  split
  · rw [emit_eq]
    rfl
  · rw [emit_eq]
    rfl

/-- GEN_STATE joins the write queue while there is room (08 R135, 10 R154). -/
theorem setGen_writes {m : Nat} (h : c.Room (m + 1)) :
    c.Writes (setGen st w n c) [⟨none, c.shc.ms, .genState st c.gen.state w n⟩] := by
  have hroom : (c.modGen fun g => { g with state := st }).Room (m + 1) := h.congr rfl rfl
  have hwrites : c.Writes (emit none (.genState st c.gen.state w n) (c.modGen fun g => { g with state := st }))
      [⟨none, c.shc.ms, .genState st c.gen.state w n⟩] := (hroom.emit_shelf _).of_congr rfl rfl rfl
  unfold setGen
  dsimp only
  split
  · exact hwrites.congr rfl rfl rfl
  · exact hwrites

end

theorem attention_or_and (a f : BitVec 5) : (a ||| f) &&& f = f := by
  ext i hi
  simp only [BitVec.getElem_and, BitVec.getElem_or]
  cases f[i] <;> simp

/-- Entry to TRIPPED or LOCKED_OUT sets the GEN flag (08 R135). -/
theorem setGen_flag {st : GenSt} (h : st = .tripped ∨ st = .lockedOut) (w : GenCause) (n : Nat) (c : Chip) :
    (setGen st w n c).shc.attention &&& attnGen = attnGen := by
  unfold setGen
  dsimp only
  rw [if_pos h]
  exact attention_or_and _ _

/-- A fault raised by the shelf is journalled while there is room (11 R165). -/
theorem raiseFault_writes {c : Chip} {m : Nat} (h : c.Room (m + 1)) (k : FaultKind) (n : Nat) :
    c.Writes (raiseFault k none n c) [⟨none, c.shc.ms, .fault k n⟩] := by
  have hroom : (offerFault k none n c).Room (m + 1) := h.congr rfl rfl
  exact (hroom.emit_shelf (.fault k n)).of_congr rfl rfl rfl

/-! ### The generator as it trips -/

/-- The state that a trip enters: LOCKED_OUT on the third in the window (08 R132). -/
def Gen.tripSt (g : Gen) : GenSt := if 2 ≤ g.recent.length then .lockedOut else .tripped

/-- The fault that a trip raises. -/
def Gen.tripFault (g : Gen) : FaultKind := if 2 ≤ g.recent.length then .genLockout else .genTrip

/-- The trips in the window that GEN_STATE counts, this one among them. -/
def Gen.trips (g : Gen) : Nat := min 3 (g.recent.length + 1)

/-- The generator tripped: its timers stopped, and on the third trip its history cleared, else the trip entered in the history and the
hold timer started (08 R131, R132). -/
def Gen.tripped (g : Gen) : Gen :=
  { g with
    state := g.tripSt
    startTimer := none
    idleTimer := none
    history := if 2 ≤ g.recent.length then [] else 0 :: g.recent
    holdTimer := if 2 ≤ g.recent.length then g.holdTimer else some ⟨0, 1000 * g.tripHold⟩ }

section
variable (g : Gen)

theorem Gen.tripSt_cases : g.tripSt = .tripped ∨ g.tripSt = .lockedOut := by
  unfold tripSt
  split
  · exact .inr rfl
  · exact .inl rfl

theorem Gen.tripped_of_third (h : 2 ≤ g.recent.length) :
    g.tripped.state = .lockedOut ∧ g.tripped.history = [] ∧ g.tripFault = .genLockout := by
  simp [tripped, tripSt, tripFault, h]

theorem Gen.tripped_of_first (h : g.recent.length < 2) :
    g.tripped.state = .tripped ∧ g.tripped.history = 0 :: g.recent ∧
      g.tripped.holdTimer = some ⟨0, 1000 * g.tripHold⟩ ∧ g.tripFault = .genTrip := by
  simp [tripped, tripSt, tripFault, Nat.not_le.2 h]

theorem Gen.tripFault_eq : g.tripFault = if g.tripSt = .lockedOut then .genLockout else .genTrip := by
  by_cases h : 2 ≤ g.recent.length <;> simp [tripFault, tripSt, h]

end

/-- The generator tripped with the state still to be changed, and every relay opened (08 R131). -/
def Chip.opened (c : Chip) : Chip := openRelays (c.modGen fun _ => { c.gen.tripped with state := c.gen.state })

/-- The generator tripped with its records, no allocation shed yet (08 R131, R132). -/
def Chip.tripped (c : Chip) : Chip :=
  raiseFault c.gen.tripFault none 0 (setGen c.gen.tripSt .overload c.gen.trips c.opened)

@[simp] theorem Chip.tripped_rsc (c : Chip) : c.tripped.rsc = c.rsc := by
  rw [tripped, raiseFault_rsc, setGen_eq]
  rfl

/-- A trip is the generator tripped, and then every allocation shed, the newest first (06 R107). -/
theorem tripGen_eq (c : Chip) : tripGen c = c.tripped.shedAll .trip c.rsc.allocs.reverse := by
  have htrips : 2 ≤ c.gen.recent.length → c.gen.trips = 3 := fun h => by
    unfold Gen.trips
    omega
  have hless : ¬ 2 ≤ c.gen.recent.length → c.gen.trips = c.gen.recent.length + 1 := fun h => by
    unfold Gen.trips
    omega
  rw [← c.tripped_rsc]
  by_cases h : 2 ≤ c.gen.recent.length
  · simp only [tripGen, Chip.tripped, Chip.opened, Gen.tripped, Gen.tripSt, Gen.tripFault, h, htrips h, if_true]
    rfl
  · simp only [tripGen, Chip.tripped, Chip.opened, Gen.tripped, Gen.tripSt, Gen.tripFault, h, hless h, if_false]
    rfl

/-! ### What the records of a trip leave -/

section
variable (c : Chip) (y : LineNo)

@[simp] theorem Chip.tripped_gen : c.tripped.gen = c.gen.tripped := by
  rw [tripped, raiseFault_gen, setGen_eq]
  rfl

@[simp] theorem Chip.tripped_ctb : c.tripped.ctb = c.ctb := by
  rw [tripped, raiseFault_ctb, setGen_eq]
  rfl

@[simp] theorem Chip.tripped_slot (k : SlotNo) : c.tripped.slot k = c.slot k := by
  rw [tripped, raiseFault_slot, setGen_eq]
  rfl

theorem Chip.tripped_line : c.tripped.line y = (c.line y).moveRelay (c.timing y).burstBlank false := by
  rw [tripped, raiseFault_line, setGen_eq]
  exact mapEach_get _ c.lines y

@[simp] theorem Chip.tripped_relay : (c.tripped.line y).relay = false := by
  rw [tripped_line, Line.moveRelay_relay]

@[simp] theorem Chip.tripped_slotRef : (c.tripped.line y).slot = (c.line y).slot := by
  rw [tripped_line, Line.moveRelay_slot]

@[simp] theorem Chip.tripped_ctx : c.tripped.ctx y = c.ctx y := Chip.ctx_congr (c.tripped_slotRef y) c.tripped_slot

@[simp] theorem Chip.tripped_alloc : c.tripped.alloc y = c.alloc y := Chip.alloc_congr (c.tripped_ctx y)

@[simp] theorem Chip.tripped_waitsAgain : c.tripped.waitsAgain y = c.waitsAgain y := Chip.waitsAgain_congr (c.tripped_ctx y)

theorem Chip.opened_quiet : Quiet c c.opened := ((Quiet.refl c).modGen _).openRelays

theorem Chip.tripped_quiet : Quiet c c.tripped := (c.opened_quiet.setGen _ _ _).raiseFault _ _ _

@[simp] theorem Chip.tripped_hdr : c.tripped.shc.hdr = c.shc.hdr := c.tripped_quiet.shc.hdr

/-- What the fault record captures of a trip (11 R165). -/
theorem Chip.tripped_offered :
    (c.tripped.shc.fault, c.tripped.shc.further) =
      offered c.shc.fault c.shc.further ⟨c.gen.tripFault, none, 0, c.stamp⟩ := by
  rw [tripped, raiseFault_offered, setGen_eq]
  rfl

/-- A trip sets the GEN and FAULT flags. -/
theorem Chip.tripped_flags : c.tripped.shc.attention &&& (attnGen ||| attnFault) = attnGen ||| attnFault := by
  have hgen : c.tripped.shc.attention &&& attnGen = attnGen :=
    ((Quiet.refl _).raiseFault _ _ _).shc.flag (setGen_flag c.gen.tripSt_cases _ _ _)
  have hfault : c.tripped.shc.attention &&& attnFault = attnFault := raiseFault_attention ..
  rw [BitVec.and_or_distrib_left, hgen, hfault]

/-- The records of a trip: GEN_STATE, then FAULT. -/
def Chip.tripRecs : List Rec :=
  [⟨none, c.shc.ms, .genState c.gen.tripSt c.gen.state .overload c.gen.trips⟩, ⟨none, c.shc.ms, .fault c.gen.tripFault 0⟩]

theorem Chip.tripped_writes {m : Nat} (h : c.Room (m + 2)) : c.Writes c.tripped c.tripRecs := by
  have hroom : c.opened.Room (m + 1 + 1) := h.congr rfl rfl
  have hgen := setGen_writes c.gen.tripSt .overload c.gen.trips c.opened hroom
  have hfault := raiseFault_writes (m := m) (hgen.room hroom (Nat.add_comm ..).le) c.gen.tripFault 0
  rw [hgen.ms] at hfault
  exact (hgen.trans hfault).of_congr rfl rfl rfl

end

/-! ### A trip -/

section
variable (c : Chip)

theorem tripGen_gen : (tripGen c).gen = c.gen.tripped := by
  rw [tripGen_eq, Chip.shedAll_gen, Chip.tripped_gen]

theorem tripGen_allocs : (tripGen c).rsc.allocs = [] := by
  rw [tripGen_eq, ← c.tripped_rsc]
  exact c.tripped.shedAll_every .trip

theorem tripGen_relay (y : LineNo) : ((tripGen c).line y).relay = false := by
  rw [tripGen_eq]
  exact Chip.shedAll_relay (c.tripped_relay y) _

theorem tripGen_flags : (tripGen c).shc.attention &&& (attnGen ||| attnFault) = attnGen ||| attnFault := by
  rw [tripGen_eq]
  exact (Chip.shedAll_quiet ..).shc.flag c.tripped_flags

theorem tripGen_offered :
    ((tripGen c).shc.fault, (tripGen c).shc.further) =
      offered c.shc.fault c.shc.further ⟨c.gen.tripFault, none, 0, c.stamp⟩ := by
  obtain ⟨hfault, hfurther⟩ := c.tripped.shedAll_fault .trip c.rsc.allocs.reverse
  rw [tripGen_eq, hfault, hfurther, c.tripped_offered]

/-- No idle stop timer runs on a generator that is not RUNNING (08 R130). -/
theorem settle_gen_of_not_running {c : Chip} (h : c.gen.state ≠ .running) (c0 : Chip) :
    (settle c0 c).gen = { c.gen with idleTimer := none } := by
  have hidle : c.genIdle = false := by simp [Chip.genIdle, h]
  rw [settle_eq]
  simp only [settleIdle_none _ _ hidle]

theorem tripGen_state : (tripGen c).gen.state = .tripped ∨ (tripGen c).gen.state = .lockedOut := by
  rw [tripGen_gen]
  exact c.gen.tripSt_cases

/-- The enable output of a tripped generator is released (08 R131). -/
theorem tripGen_enable : (tripGen c).genEnable = false := by
  rw [Chip.genEnable]
  rcases tripGen_state c with h | h <;> rw [h] <;> rfl

/-- No idle stop timer runs after a trip. -/
theorem tripGen_settled (c0 : Chip) : (settle c0 (tripGen c)).gen = c.gen.tripped := by
  have hst : (tripGen c).gen.state ≠ .running := by rcases tripGen_state c with h | h <;> rw [h] <;> nofun
  rw [settle_gen_of_not_running hst, tripGen_gen]
  rfl

section
variable {c} (h : AllocLaw c)
include h

theorem AllocLaw.tripped_holds : c.tripped.Holds c.rsc.allocs.reverse := by
  obtain ⟨hnodup, halloc, hapart⟩ := h.holds
  exact ⟨hnodup, fun x hx => by rw [Chip.tripped_alloc]; exact halloc x hx, fun x y => by
    rw [Chip.tripped_slotRef, Chip.tripped_slotRef]; exact hapart x y⟩

/-- Each allocated line waits again (07 R122). -/
theorem AllocLaw.tripGen_waits {x : LineNo} (hx : x ∈ c.rsc.allocs) :
    ((tripGen c).line x).st = .ringWait ∧ ((tripGen c).line x).slot = (c.line x).slot ∧
      ((tripGen c).line x).selector = none ∧ (tripGen c).ctx x = (c.ctx x).map Ctx.shed := by
  obtain ⟨hst, hsel, hctx⟩ := h.tripped_holds.shedAll_waits (List.mem_reverse.2 hx) .trip
  rw [tripGen_eq]
  exact ⟨hst, (Chip.shedAll_slotRef ..).trans (c.tripped_slotRef x), hsel, by rw [hctx, Chip.tripped_ctx]⟩

theorem AllocLaw.tripGen_queue :
    (tripGen c).rsc.queue = c.rsc.allocs.reverse.foldl (fun q x => queueHead q (c.waitsAgain x)) c.rsc.queue := by
  rw [tripGen_eq, h.tripped_holds.shedAll_queue]
  simp

/-- The table of the allocations is empty after a trip (06 R88). -/
theorem AllocLaw.tripGen_plt (hp : c.rsc.plt = c.loads) : (tripGen c).rsc.plt = List.replicate c.shc.hdr.n 0 := by
  have hunload : c.tripped.unloadedBy = c.unloadedBy := by
    funext plt x
    exact Chip.unloadedBy_congr (c.tripped_ctx x) c.tripped_hdr c.tripped_ctb
  rw [tripGen_eq, h.tripped_holds.shedAll_plt, hunload, Chip.tripped_rsc, hp, Chip.loads_eq]
  exact Chip.unloaded_loaded (by simp) _

/-- With room for all, GEN_STATE, FAULT and the SHED of each line are queued in this order. -/
theorem AllocLaw.tripGen_writes (hr : c.Room (c.rsc.allocs.length + 2)) (hx : ∀ x ∈ c.rsc.allocs, c.jwr.summaries[x] = none) :
    c.Writes (tripGen c) (c.tripRecs ++ c.rsc.allocs.reverse.map (c.shedRec .trip)) := by
  have htrip := c.tripped_writes hr
  have hshed := h.tripped_holds.shedAll_writes (htrip.room hr (by simp [Chip.tripRecs, Nat.add_comm]))
    (fun x hx' => by rw [htrip.jwr]; exact hx x (List.mem_reverse.1 hx')) .trip
  have hrec : c.tripped.shedRec .trip = c.shedRec .trip := by
    funext x
    simp only [Chip.shedRec, Chip.tripped_ctx, Chip.tripped_waitsAgain, htrip.ms]
  rw [tripGen_eq, ← hrec]
  exact htrip.trans hshed

end

end

/-! ### The overload input -/

/-- The level of the overload input noted (log 10). -/
def Chip.overloadNoted (c : Chip) (standing : Bool) : Chip := c.modGen fun g => { g with overload := standing }

theorem exec_overloadAsserted_ignored {s : State} (h1 : s.chip.gen.state ≠ .starting) (h2 : s.chip.gen.state ≠ .running)
    (standing : Bool) : exec (.overloadAsserted standing) s = finish s (s.chip.overloadNoted standing) := by
  simp only [exec, execOverloadAsserted]
  split
  · exact absurd ‹_› h1
  · exact absurd ‹_› h2
  all_goals rfl

theorem exec_overloadAsserted_trips {s : State} (h : s.chip.gen.state = .starting ∨ s.chip.gen.state = .running)
    (standing : Bool) : exec (.overloadAsserted standing) s = finish s (tripGen (s.chip.overloadNoted standing)) := by
  rcases h with h | h <;> simp only [exec, execOverloadAsserted, Chip.overloadNoted, Chip.modGen_gen, h]

end Sys2Proof.Machine
end

section
open Sys2Proof Sys2Proof.Machine

/-- Settles O13: the generator as it trips, and every allocation shed newest first, each shed by its own laws. -/
theorem overloadTripsTheGenerator : Obligations.OverloadTripsTheGenerator := by
  unfold Obligations.OverloadTripsTheGenerator
  refine ⟨fun q ps os e hp ho => ⟨fun he => queueHead_of_priority he q, queueHead_sorted hp ho⟩, fun s standing => ⟨fun h1 h2 => ?_,
    fun hst => ?_⟩⟩
  · refine ⟨_, (exec_overloadAsserted_ignored h1 h2 standing).trans (finish_eq _ _), ?_, ?_⟩
    · rw [settle_gen_idle]
      rfl
    · exact OnlyChanges.of_chip (m := s.ram) (fun _ => rfl) (fun _ => rfl) (fun _ => rfl) (fun _ => rfl) (fun _ => rfl) (by simp)
        (fun _ => rfl) (fun _ => rfl) (fun _ => rfl) (fun _ => rfl) (fun _ => rfl)
  · intro recent st
    let c := s.chip.overloadNoted standing
    have hgen := tripGen_settled c s.chip
    refine ⟨_, (exec_overloadAsserted_trips hst standing).trans (finish_eq _ _), (settle_genEnable ..).trans (tripGen_enable _),
      congrArg Gen.startTimer hgen,
      congrArg Gen.idleTimer hgen, congrArg Gen.overload hgen, fun x => ?_, ?_, ?_, fun h => ?_, fun h => ?_,
      ((Quiet.refl s.chip).modGen _).tripGen.callOnly, fun hlaw => ?_⟩
    · rw [settle_line, tripGen_relay]
    · rw [settle_rsc, tripGen_allocs]
    · rw [settle_shc, tripGen_flags]
    · obtain ⟨hstate, hhistory, hfault⟩ := c.gen.tripped_of_third h
      rw [hgen, settle_shc, tripGen_offered, ← hfault]
      exact ⟨hstate, hhistory, rfl⟩
    · obtain ⟨hstate, hhistory, hhold, hfault⟩ := c.gen.tripped_of_first h
      rw [hgen, settle_shc, tripGen_offered, ← hfault]
      exact ⟨hstate, hhistory, hhold, rfl⟩
    · have hc : AllocLaw c := hlaw
      refine ⟨fun x hx => ?_, ?_, fun hplt => ?_, fun hq hheld hroom => ?_⟩
      · obtain ⟨hstate, hslot, hsel, hctx⟩ := hc.tripGen_waits hx
        rw [settle_line]
        exact ⟨hstate, hslot, hsel, (Chip.ctx_congr (congrArg Line.slot (settle_line ..)) (settle_slot _ _)).trans hctx⟩
      · rw [settle_rsc]
        exact hc.tripGen_queue
      · rw [settle_rsc]
        exact hc.tripGen_plt hplt
      · have hr : c.Room (c.rsc.allocs.length + 2) :=
          (Chip.Room.of_counted hq ((Nat.add_assoc ..).symm.trans_le hroom)).congr rfl rfl
        rw [settle_jwr, (hc.tripGen_writes hr hheld).jwr, Chip.tripRecs, Gen.tripFault_eq, ← List.append_assoc]
        rfl

end

section
/-! SUPPORT. The generator comes to OFF and is started (08 R128 to R130, R133, R134): the records of each, a start into a standing overload,
and what else the walk that follows a start leaves of the generator. -/

namespace Sys2Proof.Machine

/-! ### A walk leaves the generator as it is while it runs -/

theorem modCtx_gen (x : LineNo) (f : Ctx → Ctx) (c : Chip) : (modCtx x f c).gen = c.gen := by
  unfold modCtx
  split <;> rfl

theorem tryAdmit_gen {e : RingWait} {c d : Chip} (h : tryAdmit e c = some d) : d.gen = c.gen := by
  unfold tryAdmit at h
  split at h
  · split at h
    · obtain ⟨k, -, rfl⟩ := Option.map_eq_some_iff.1 h
      rw [admitRing, emit_gen]
      exact modCtx_gen ..
    · cases h
  · cases h

theorem walkFrom_gen (l : List RingWait) (c : Chip) : (walkFrom l c).gen = c.gen := by
  induction l generalizing c with
  | nil => rfl
  | cons e l ih =>
    unfold walkFrom
    split
    · split
      · exact (ih _).trans (tryAdmit_gen ‹_›)
      · split
        · rfl
        · exact ih c
    · exact ih c

/-! ### OFF (08 R130, R133, R134) -/

/-- GEN_STATE of a change that is no trip, as it is queued (08 R135). -/
def Chip.genRec (c : Chip) (new old : GenSt) (w : GenCause) : Rec := ⟨none, c.shc.ms, .genState new old w 0⟩

/-- The generator OFF, with GEN_STATE formed. -/
def Chip.genOff (c : Chip) (w : GenCause) : Chip := setGen .off w 0 c

/-- The generator OFF, and STARTING at once if demand exists (08 R133, R134). -/
def Chip.offAgain (c : Chip) (w : GenCause) : Chip := if (c.genOff w).demand then startRequest (c.genOff w) else c.genOff w

section
variable (c : Chip) (w : GenCause)

theorem Chip.genOff_eq :
    c.genOff w = emit none (.genState .off c.gen.state w 0) (c.modGen fun g => { g with state := .off }) := rfl

theorem Chip.genOff_gen : (c.genOff w).gen = { c.gen with state := .off } := by simp [genOff_eq]

theorem Chip.genStarts_gen : c.genStarts.gen = { c.gen with startTimer := some ⟨0, c.gen.startTime⟩, state := .starting } := by
  simp [genStarts]

/-- What makes demand is the queue, the plans and the order in hand (06 R97). -/
theorem demand_congr {d : Chip} (hr : d.rsc = c.rsc) (hc : d.ctb = c.ctb) (ho : d.ord = c.ord) : d.demand = c.demand := by
  have hready : d.ready = c.ready := by
    funext e
    simp only [Chip.ready, Chip.planSt, Chip.reloading, hc, ho]
  simp only [Chip.demand, hready, hr]

theorem Chip.genOff_demand : (c.genOff w).demand = c.demand :=
  demand_congr c (by simp [genOff_eq]) (by simp [genOff_eq]) (by simp [genOff_eq])

theorem Chip.genOff_writes {m : Nat} (h : c.Room (m + 1)) :
    c.Writes (c.genOff w) [c.genRec .off c.gen.state w] := setGen_writes .off w 0 c h

/-- A start request in OFF: STARTING, and a trip at once if the overload stands (08 R128). -/
theorem startRequest_of_off (h : c.gen.state = .off) :
    startRequest c = if c.gen.overload then tripGen c.genStarts else c.genStarts := by
  have hstarts : setGen .starting .startRequest 0 (c.modGen fun g => { g with startTimer := some (Timer.start g.startTime) }) =
      c.genStarts := rfl
  have hover : c.genStarts.gen.overload = c.gen.overload := by simp [Chip.genStarts]
  simp only [startRequest, h, if_true, hstarts, hover]

end

section
variable {c : Chip} (w : GenCause)

theorem Chip.offAgain_of_no_demand (h : c.demand = false) : c.offAgain w = c.genOff w := by
  rw [offAgain, genOff_demand, h]
  rfl

theorem Chip.offAgain_of_demand (h : c.demand = true) :
    c.offAgain w = if c.gen.overload then tripGen (c.genOff w).genStarts else (c.genOff w).genStarts := by
  have hoff : (c.genOff w).gen.state = .off := by rw [genOff_gen]
  rw [offAgain, genOff_demand, h, if_pos rfl, startRequest_of_off _ hoff, genOff_gen]

/-- The generator as it is left OFF, or STARTING on demand. -/
def Gen.offAgain (g : Gen) (demand : Bool) : Gen :=
  if demand then { g with state := .starting, startTimer := some ⟨0, g.startTime⟩ } else { g with state := .off }

@[simp] theorem Gen.offAgain_holdTimer (g : Gen) (demand : Bool) : (g.offAgain demand).holdTimer = g.holdTimer := by
  cases demand <;> rfl

/-- Without a trip nothing is changed but the generator, the journal and the attention flags. -/
theorem Chip.offAgain_eq (h : c.gen.overload = false ∨ c.demand = false) :
    c.offAgain w =
      { c with
        gen := c.gen.offAgain c.demand
        jwr := (c.offAgain w).jwr
        shc := { c.shc with attention := (c.offAgain w).shc.attention } } := by
  cases hd : c.demand with
  | false =>
    rw [offAgain_of_no_demand w hd, genOff_eq, emit_eq]
    rfl
  | true =>
    have ho : c.gen.overload = false := h.resolve_right (by simp [hd])
    rw [offAgain_of_demand w hd, ho, if_neg Bool.false_ne_true, genStarts, emit_eq, genOff_eq, emit_eq]
    rfl

/-- Without demand the generator is OFF; with it, STARTING with the start timer running and the enable output given. -/
theorem Chip.offAgain_gen (h : c.gen.overload = false ∨ c.demand = false) :
    (c.demand = false → (c.offAgain w).gen.state = .off) ∧
      (c.demand = true → (c.offAgain w).gen.state = .starting ∧ (c.offAgain w).gen.startTimer = some ⟨0, c.gen.startTime⟩ ∧
        (c.offAgain w).genEnable = true) := by
  rw [offAgain_eq w h]
  refine ⟨fun hd => ?_, fun hd => ?_⟩
  · simp [hd, Gen.offAgain]
  · simp [hd, Gen.offAgain, Chip.genEnable]

/-- GEN_STATE of the change to OFF is written ahead of what follows. -/
theorem Chip.offAgain_queue (h : c.Room 1) :
    ∃ more, (c.offAgain w).jwr.queue = c.jwr.queue ++ c.genRec .off c.gen.state w :: more := by
  have happ : (c.genOff w).Appends (c.offAgain w) := by
    unfold offAgain
    split
    · exact (Chip.Appends.refl _).startRequest
    · exact Chip.Appends.refl _
  obtain ⟨more, hmore⟩ := happ
  refine ⟨more, ?_⟩
  rw [← hmore, (c.genOff_writes (m := 0) w h).jwr]
  simp

/-- GEN_STATE of the change to OFF, and of the start on demand. -/
theorem Chip.genStarts_writes {m : Nat} (h : c.Room (m + 2)) :
    c.Writes (c.genOff w).genStarts [c.genRec .off c.gen.state w, c.genRec .starting .off .startRequest] := by
  have hoff := c.genOff_writes w (m := m + 1) h
  have hroom : ((c.genOff w).modGen fun g => { g with startTimer := some ⟨0, g.startTime⟩ }).Room (m + 1) :=
    (hoff.room h (Nat.add_comm ..).le).congr rfl rfl
  have hstart := setGen_writes .starting .startRequest 0 _ hroom
  rw [Chip.modGen_gen, genOff_gen, Chip.modGen_shc, hoff.ms] at hstart
  exact hoff.trans (hstart.of_congr rfl rfl rfl)

theorem Quiet.offAgain {d : Chip} (h : Quiet c d) : Quiet c (d.offAgain w) := by
  unfold Chip.offAgain
  split
  · exact (h.setGen _ _ _).startRequest
  · exact h.setGen _ _ _

/-- A start into a standing overload: TRIPPED or LOCKED_OUT, the enable output released and every allocation shed (08 R128, R131). -/
theorem Chip.offAgain_trips (h : c.demand = true) (ho : c.gen.overload = true) : c.offAgain w = tripGen (c.genOff w).genStarts := by
  rw [offAgain_of_demand w h, ho, if_pos rfl]

theorem Chip.offAgain_tripped (h : c.demand = true) (ho : c.gen.overload = true) :
    (c.offAgain w).genEnable = false ∧ (c.offAgain w).gen.startTimer = none ∧ (c.offAgain w).gen.state = c.gen.tripSt := by
  have hgen : (c.genOff w).genStarts.gen.tripped.state = c.gen.tripSt := by
    rw [Chip.genStarts_gen, Chip.genOff_gen]
    rfl
  rw [offAgain_trips w h ho]
  exact ⟨tripGen_enable _, congrArg Gen.startTimer (tripGen_gen _), (congrArg Gen.state (tripGen_gen _)).trans hgen⟩

end

/-! ### The events (08 R129, R130, R133) -/

section
variable {s : State}

/-- The chip with the hold timer stopped. -/
def Chip.unheld (c : Chip) : Chip := c.modGen fun g => { g with holdTimer := none }

theorem exec_idleStop (hi : s.chip.genIdle = true) (hd : timerDue s.chip.gen.idleTimer = true) :
    exec .idleStop s = finish s ((s.chip.modGen fun g => { g with idleTimer := none }).genOff .idleStop) :=
  if_pos ⟨hi, hd⟩

theorem exec_holdEnd (hst : s.chip.gen.state = .tripped) (hd : timerDue s.chip.gen.holdTimer = true) :
    exec .holdEnd s = finish s (s.chip.unheld.offAgain .holdEnd) :=
  if_pos ⟨hst, hd⟩

/-- The start is done: RUNNING, whatever the walk admits. -/
theorem genStartDone_runs (hst : s.chip.gen.state = .starting) (hd : timerDue s.chip.gen.startTimer = true) :
    ∃ t, exec .genStartDone s = .next t ∧ t.chip.gen.state = .running ∧ t.chip.gen.startTimer = none ∧
      t.chip.gen.history = s.chip.gen.history ∧ CallOnly s t ∧
      (QueuesShelf s → ∃ more,
        t.chip.jwr.queue = s.chip.jwr.queue ++ s.chip.genRec .running .starting .startDone :: more) := by
  refine ⟨_, (exec_genStartDone hst hd).trans (finish_eq _ _), ?_, ?_, ?_,
    ((((Quiet.refl s.chip).modGen _).setGen _ _ _).walkFrom _).callOnly, fun hq => ?_⟩
  · rw [settle_gen_state, walkFrom_gen, Chip.genRuns_gen]
  · rw [settle_gen_startTimer, walkFrom_gen, Chip.genRuns_gen]
  · rw [settle_gen_history, walkFrom_gen, Chip.genRuns_gen]
  · obtain ⟨more, hmore⟩ := (Chip.Appends.refl s.chip.genRuns).walkFrom s.chip.rsc.queue
    refine ⟨more, ?_⟩
    rw [settle_jwr, ← hmore, (State.genRuns_queued hst hq).1, State.startQueued, List.append_assoc]
    rfl

/-- The idle stop timer of an idle generator has run out: OFF. -/
theorem idleStop_rests (hi : s.chip.genIdle = true) (hd : timerDue s.chip.gen.idleTimer = true) :
    ∃ t, exec .idleStop s = .next t ∧ t.chip.gen = { s.chip.gen with state := .off, idleTimer := none } ∧
      t.chip.genEnable = false ∧ CallOnly s t ∧ OnlyChanges [.generator, .journal, .shelf] s t ∧
      (QueuesShelf s →
        t.chip.jwr = { s.chip.jwr with queue := s.chip.jwr.queue ++ [s.chip.genRec .off .running .idleStop] }) := by
  have hrun : s.chip.gen.state = .running := by
    simp only [Chip.genIdle, Bool.and_eq_true, beq_iff_eq] at hi
    exact hi.1.1
  refine ⟨_, (exec_idleStop hi hd).trans (finish_eq _ _), ?_, ?_, (((Quiet.refl s.chip).modGen _).setGen _ _ _).callOnly, ?_,
    fun hq => ?_⟩
  · have hgen := Chip.genOff_gen (s.chip.modGen fun g => { g with idleTimer := none }) .idleStop
    rw [settle_gen_of_not_running (by rw [hgen]; nofun), hgen]
    rfl
  · simp [Chip.genEnable, Chip.genOff_gen]
  · apply OnlyChanges.of_chip (m := s.ram) <;> simp [Chip.genOff_eq]
  · have hroom := (Chip.Room.of_queuesShelf hq).congr (d := s.chip.modGen fun g => { g with idleTimer := none }) rfl rfl
    rw [settle_jwr, (Chip.genOff_writes _ (m := 0) .idleStop hroom).jwr, ← hrun]
    rfl

/-- The hold ends and no overload makes a start a trip: OFF, or STARTING on demand. -/
theorem holdEnd_rests (hst : s.chip.gen.state = .tripped) (hd : timerDue s.chip.gen.holdTimer = true)
    (ho : s.chip.gen.overload = false ∨ s.chip.demand = false) :
    ∃ t, exec .holdEnd s = .next t ∧ t.chip.gen.holdTimer = none ∧ CallOnly s t ∧
      (s.chip.demand = false → t.chip.gen.state = .off ∧
        (QueuesShelf s →
          t.chip.jwr = { s.chip.jwr with queue := s.chip.jwr.queue ++ [s.chip.genRec .off .tripped .holdEnd] })) ∧
      (s.chip.demand = true → t.chip.gen.state = .starting ∧
        t.chip.gen.startTimer = some ⟨0, s.chip.gen.startTime⟩ ∧ t.chip.genEnable = true ∧
        (QueuesShelf s → s.chip.jwr.counted + 2 ≤ 32 →
          t.chip.jwr =
            { s.chip.jwr with
              queue := s.chip.jwr.queue ++
                [s.chip.genRec .off .tripped .holdEnd, s.chip.genRec .starting .off .startRequest] })) ∧
      OnlyChanges [.generator, .journal, .shelf] s t := by
  have heq := Chip.offAgain_eq (c := s.chip.unheld) .holdEnd ho
  obtain ⟨hoff, hstarts⟩ := Chip.offAgain_gen (c := s.chip.unheld) .holdEnd ho
  refine ⟨_, (exec_holdEnd hst hd).trans (finish_eq _ _), ?_, (((Quiet.refl s.chip).modGen _).offAgain _).callOnly,
    fun hdem => ⟨?_, fun hq => ?_⟩, fun hdem => ?_, ?_⟩
  · rw [settle_gen_holdTimer, heq, Gen.offAgain_holdTimer]
    rfl
  · rw [settle_gen_state]
    exact hoff hdem
  · have hroom := (Chip.Room.of_queuesShelf hq).congr (d := s.chip.unheld) rfl rfl
    rw [settle_jwr, Chip.offAgain_of_no_demand (c := s.chip.unheld) .holdEnd hdem, (Chip.genOff_writes _ (m := 0) .holdEnd hroom).jwr,
      ← hst]
    rfl
  · obtain ⟨hstate, htimer, henable⟩ := hstarts hdem
    refine ⟨(settle_gen_state ..).trans hstate, (settle_gen_startTimer ..).trans htimer, (settle_genEnable ..).trans henable,
      fun hq hcount => ?_⟩
    have hroom := (Chip.Room.of_counted hq hcount).congr (d := s.chip.unheld) rfl rfl
    have hover : s.chip.unheld.gen.overload = false := ho.resolve_right (by simp [hdem])
    rw [settle_jwr, Chip.offAgain_of_demand (c := s.chip.unheld) .holdEnd hdem, hover, if_neg Bool.false_ne_true,
      (Chip.genStarts_writes (m := 0) .holdEnd hroom).jwr, ← hst]
    rfl
  · rw [heq]
    exact OnlyChanges.of_chip (m := s.ram) (fun _ => rfl) (fun _ => rfl) (fun _ => rfl) (fun _ => rfl) (fun _ => rfl) (by simp)
      (fun _ => rfl) (by simp) (fun _ => rfl) (by simp) (fun _ => rfl)

/-- The hold ends with demand while the overload stands: the start is a trip. -/
theorem holdEnd_trips (hst : s.chip.gen.state = .tripped) (hd : timerDue s.chip.gen.holdTimer = true)
    (hdem : s.chip.demand = true) (ho : s.chip.gen.overload = true) :
    ∃ t, exec .holdEnd s = .next t ∧ t.chip.genEnable = false ∧ t.chip.gen.startTimer = none ∧
      t.chip.gen.state = s.chip.gen.tripSt ∧ t.chip.rsc.allocs = [] ∧
      t.chip.shc.attention &&& (attnGen ||| attnFault) = attnGen ||| attnFault ∧ CallOnly s t ∧
      (QueuesShelf s → s.chip.jwr.counted + 2 ≤ 32 → ∃ more,
        t.chip.jwr.queue =
          s.chip.jwr.queue ++ s.chip.genRec .off .tripped .holdEnd :: s.chip.genRec .starting .off .startRequest :: more) := by
  have htrips := Chip.offAgain_trips (c := s.chip.unheld) .holdEnd hdem ho
  obtain ⟨henable, htimer, hstate⟩ := Chip.offAgain_tripped (c := s.chip.unheld) .holdEnd hdem ho
  refine ⟨_, (exec_holdEnd hst hd).trans (finish_eq _ _), (settle_genEnable ..).trans henable,
    (settle_gen_startTimer ..).trans htimer, (settle_gen_state ..).trans hstate, ?_, ?_,
    (((Quiet.refl s.chip).modGen _).offAgain _).callOnly, fun hq hcount => ?_⟩
  · rw [settle_rsc, htrips, tripGen_allocs]
  · rw [settle_shc, htrips, tripGen_flags]
  · have hroom := (Chip.Room.of_counted hq hcount).congr (d := s.chip.unheld) rfl rfl
    obtain ⟨more, hmore⟩ := (Chip.Appends.refl (s.chip.unheld.genOff .holdEnd).genStarts).tripGen
    refine ⟨more, ?_⟩
    rw [settle_jwr, htrips, ← hmore, (Chip.genStarts_writes (m := 0) .holdEnd hroom).jwr, ← hst, List.append_assoc]
    rfl

end

/-! ### GEN_RESET (08 R134) -/

/-- GEN_RESET, as it is taken by its own command (log 3). -/
def genResetOrder : OrderCopy := ⟨17, 0, 0, 0, 0, 0⟩

theorem takeOrder_genReset (c : Chip) :
    takeOrder genResetOrder c = withResult (orderGenReset (copyOrder genResetOrder c)) := rfl

/-- GEN_RESET in LOCKED_OUT. -/
theorem takeOrder_genReset_of_lockedOut {c : Chip} (h : c.gen.state = .lockedOut) :
    takeOrder genResetOrder c = setResult .ok ((copyOrder genResetOrder c).offAgain .reset) := by
  have hst : (copyOrder genResetOrder c).gen.state = .lockedOut := h
  rw [takeOrder_genReset, orderGenReset, if_pos hst]
  rfl

/-- GEN_RESET in any other state. -/
theorem takeOrder_genReset_of_other {c : Chip} (h : c.gen.state ≠ .lockedOut) :
    takeOrder genResetOrder c = setResult .lineBusy (copyOrder genResetOrder c) := by
  have hst : (copyOrder genResetOrder c).gen.state ≠ .lockedOut := h
  rw [takeOrder_genReset, orderGenReset, if_neg hst]
  rfl

section
variable {s : State} (hr : Ready s) (hst : s.chip.gen.state = .lockedOut)
include hr hst

/-- The lockout is reset and no overload makes a start a trip: OFF, or STARTING on demand. -/
theorem genReset_rests (ho : s.chip.gen.overload = false ∨ s.chip.demand = false) :
    ∃ t, exec .genReset s = .next t ∧ Answered genResetOrder .ok s t ∧ (s.chip.demand = false → t.chip.gen.state = .off) ∧
      (s.chip.demand = true → t.chip.gen.state = .starting ∧
        t.chip.gen.startTimer = some ⟨0, s.chip.gen.startTime⟩ ∧ t.chip.genEnable = true) ∧
      (QueuesShelf s → ∃ more, t.chip.jwr.queue = s.chip.jwr.queue ++ s.chip.genRec .off .lockedOut .reset :: more) ∧
      t.chip.shc.fault = s.chip.shc.fault ∧ OnlyChanges [.generator, .orders, .journal, .shelf] s t := by
  let c := copyOrder genResetOrder s.chip
  have heq := Chip.offAgain_eq (c := c) .reset ho
  obtain ⟨hoff, hstarts⟩ := Chip.offAgain_gen (c := c) .reset ho
  refine ⟨_, exec_of_takeOrder hr rfl (takeOrder_genReset_of_lockedOut hst), ?_, fun hdem => ?_, fun hdem => ?_, fun hq => ?_, ?_,
    ?_⟩
  · exact (settle_ord ..).trans (congrArg (fun d => { d.ord with result := some Result.ok }) heq)
  · rw [settle_gen_state]
    exact hoff hdem
  · rw [settle_gen_state, settle_gen_startTimer, settle_genEnable]
    exact hstarts hdem
  · rw [settle_jwr, ← hst]
    exact c.offAgain_queue .reset ((Chip.Room.of_queuesShelf hq).congr rfl rfl)
  · rw [settle_shc]
    exact congrArg (·.shc.fault) heq
  · rw [heq]
    exact OnlyChanges.of_chip (m := s.ram) (fun _ => rfl) (fun _ => rfl) (fun _ => rfl) (fun _ => rfl) (fun _ => rfl) (by simp)
      (by simp) (by simp) (fun _ => rfl) (by simp) (fun _ => rfl)

/-- The lockout is reset with demand while the overload stands: the start is a trip. -/
theorem genReset_trips (ho : s.chip.gen.overload = true) (hdem : s.chip.demand = true) :
    ∃ t, exec .genReset s = .next t ∧ Answered genResetOrder .ok s t ∧ OrderOnly s t ∧ t.chip.genEnable = false ∧
      (t.chip.gen.state = .tripped ∨ t.chip.gen.state = .lockedOut) := by
  obtain ⟨henable, -, hstate⟩ := Chip.offAgain_tripped (c := copyOrder genResetOrder s.chip) .reset hdem ho
  obtain ⟨t, ht, hchip, hans, honly⟩ :=
    next_order (i := .genReset) hr rfl (takeOrder_genReset_of_lockedOut hst) ((Quiet.refl _).offAgain _)
  refine ⟨t, ht, hans, honly, ?_, ?_⟩
  · rw [hchip, settle_genEnable]
    exact henable
  · rw [hchip, settle_gen_state]
    exact hstate ▸ Gen.tripSt_cases _

end

end Sys2Proof.Machine
end

section
open Sys2Proof Sys2Proof.Machine

/-- Settles O14: each event by the state that it enters, and OFF with demand by the start that follows, which a standing overload makes a
trip. -/
theorem generatorChangesState : Obligations.GeneratorChangesState := by
  unfold Obligations.GeneratorChangesState
  intro s
  exact ⟨genStartDone_runs, idleStop_rests, holdEnd_rests, holdEnd_trips, genReset_rests, genReset_trips,
    fun hr hst => answersOnly_of_takeOrder hr rfl (takeOrder_genReset_of_other hst)⟩

end

section
/-! SUPPORT. CLEAR taken (09 R146, 10 R150): the tone of a line removed, its slot given up, and RELEASE_GUARD or PARKED entered. -/

namespace Sys2Proof.Machine

/-! ### The tone removed and the slot given up -/

/-- The chip with the tone of line x removed and its slot, or its request for one, given up (09 R144, R146). -/
def Chip.hungUp (c : Chip) (x : LineNo) : Chip := releaseSlot x (setTone x .none c)

section
variable {c : Chip} {x : LineNo}

theorem Chip.hungUp_quiet (c : Chip) (x : LineNo) : Quiet c (c.hungUp x) := ((Quiet.refl c).setTone x .none).releaseSlot x

theorem Chip.hungUp_timing (c : Chip) (x : LineNo) : (c.hungUp x).timing x = c.timing x :=
  (releaseSlot_timing x x _).trans (c.timing_modLine x x (fun l => l.toned .none) rfl)

/-- The hook state is kept whatever the slot brings to others (02 R18). -/
theorem Chip.hungUp_hook (c : Chip) (x : LineNo) : ((c.hungUp x).line x).hook = (c.line x).hook := by
  have hfixed := releaseSlot_fixed x x (setTone x .none c)
  rw [setTone_eq, Chip.line_modLine_self] at hfixed
  exact congrArg (fun p => p.2.1) hfixed

/-- Line x has hung up from `c` in `d`, and nothing has come of it to others: no other line, no hook item and no queued record is
touched (04 R63, R66). -/
structure Chip.HangsUp (c d : Chip) (x : LineNo) : Prop where
  others : ∀ y, y ≠ x → d.line y = c.line y
  slot : (d.line x).slot = none
  threshold : (d.line x).threshold = (c.line x).threshold
  jwr : c.taking = true → d.jwr = c.jwr
  shc : d.shc = c.shc

/-- So it is where no line waits for a slot. -/
theorem Chip.hungUp_of_nil (hw : c.sst.waitList = []) (x : LineNo) : c.HangsUp (c.hungUp x) x := by
  rw [hungUp, releaseSlot_of_nil (c := setTone x .none c) x hw]
  refine ⟨fun y hy => ?_, dropSlot_slot x _, ?_, dropSlot_jwr_of_taking (c := setTone x .none c) x, dropSlot_shc x _⟩
  · exact (dropSlot_line_ne hy _).trans (Chip.line_modLine_ne _ _ hy)
  · rw [Line.congr_of_unserved (dropSlot_unserved x _) Line.threshold fun _ => rfl, setTone_eq, Chip.line_modLine_self]
    rfl

/-- The line parked from what its slot leaves of it, with PARK formed (03 R51). -/
theorem Chip.HangsUp.parks {d : Chip} (h : c.HangsUp d x) (hq : c.Queueing x) (r : ParkReason) :
    (enterParked x (some r) d).jwr = { c.jwr with queue := c.jwr.queue ++ [⟨some x, c.shc.ms, .park r⟩] } := by
  have htaking : c.taking = true := by
    obtain ⟨hrun, hstall, -⟩ := hq
    simp [Chip.taking_of_running hrun, hstall]
  rw [enterParked_some, enterParked_none]
  exact emit_jwr_of_queueing (d := d.modLine x _) hq h.shc (h.jwr htaking) _

/-! ### The order taken -/

theorem takeOrder_clear (he : x.val < c.shc.hdr.equipped) (hu : (c.line x).st ≠ .unequipped) :
    takeOrder ⟨7, word x.val, 0, 0, 0, 0⟩ c = withResult (orderClear x (copyOrder ⟨7, word x.val, 0, 0, 0, 0⟩ c)) := by
  rw [takeOrder_of_names (k := .clear) rfl (by simp [argsInRange, lineInRange_word]) (by simp [orderLine]) (lineOf_word x) he]
  simp [hu, handOver]

/-- The line is in a call that CLEAR ends whichever way its hook stands (09 R146). -/
def LineSt.inCall (st : LineSt) : Prop := st ∈ [LineSt.dialTone, .dialling, .routing, .talk, .recall]

/-- A call on-hook is guarded. -/
theorem orderClear_of_onHook (hst : (c.line x).st.inCall) (hk : (c.line x).hook = .on) :
    orderClear x c = (enterReleaseGuard x (c.hungUp x), .ok) := by
  simp only [LineSt.inCall, List.mem_cons, List.not_mem_nil, or_false] at hst
  rcases hst with h | h | h | h | h <;> simp only [orderClear, h, hk, Chip.hungUp]

/-- A call off-hook is parked, and a line that waits for its dial tone either way. -/
theorem orderClear_of_offHook (hst : (c.line x).st.inCall ∧ (c.line x).hook = .off ∨ (c.line x).st = .seizeWait) :
    orderClear x c = (enterParked x (some .cleared) (c.hungUp x), .ok) := by
  simp only [LineSt.inCall, List.mem_cons, List.not_mem_nil, or_false] at hst
  rcases hst with ⟨hcall, hk⟩ | h
  · rcases hcall with h | h | h | h | h <;> simp only [orderClear, h, hk, Chip.hungUp]
  · simp only [orderClear, h, Chip.hungUp]

/-- A line that is in no call needs nothing. -/
theorem orderClear_of_idle (h : (c.line x).st ∈ [LineSt.idle, .releaseGuard, .parked, .blocked]) :
    orderClear x c = (c, .ok) := by
  simp only [List.mem_cons, List.not_mem_nil, or_false] at h
  rcases h with h | h | h | h <;> simp only [orderClear, h]

/-- A line that rings or waits to ring is not cleared. -/
theorem orderClear_of_ring (h : (c.line x).st = .ringWait ∨ (c.line x).st = .ringing) : orderClear x c = (c, .lineBusy) := by
  rcases h with h | h <;> simp only [orderClear, h]

end

/-! ### The order on the machine -/

section
variable {s : State} {x : LineNo}

/-- An order whose block leaves the chip `d`, said of the lines and the journal. -/
theorem next_order_reads {i : Instr} {o : OrderCopy} {d : Chip} (hr : Ready s) (ho : orderOf i = some o)
    (ht : takeOrder o s.chip = setResult .ok d) (hq : Quiet (copyOrder o s.chip) d) :
    ∃ t, exec i s = .next t ∧ Answered o .ok s t ∧ OrderOnly s t ∧ (∀ y, t.chip.line y = d.line y) ∧ t.chip.jwr = d.jwr := by
  obtain ⟨t, ht, hchip, hans, honly⟩ := next_order hr ho ht hq
  refine ⟨t, ht, hans, honly, fun y => ?_, ?_⟩
  · rw [hchip, settle_line]
    rfl
  · rw [hchip, settle_jwr]
    rfl

/-- CLEAR of a call on-hook (09 R146). -/
theorem clear_guards (hr : Ready s) (hv : Supervised x s) (hst : (s.chip.line x).st.inCall) (hk : (s.chip.line x).hook = .on)
    (hg : (s.chip.timing x).releaseGuard ≠ 0) :
    ∃ t, exec (.clear (word x.val)) s = .next t ∧ Answered ⟨7, word x.val, 0, 0, 0, 0⟩ .ok s t ∧ OrderOnly s t ∧
      (t.chip.line x).st = .releaseGuard ∧ (t.chip.line x).guard = some ⟨0, (s.chip.timing x).releaseGuard⟩ ∧
      (t.chip.line x).tone = .none ∧ (t.chip.line x).answered = false ∧ (t.chip.line x).threshold = .none ∧
      (s.chip.sst.waitList = [] → (t.chip.line x).slot = none ∧ OthersKept x s t ∧
        (s.chip.jwr.stall = .none → t.chip.jwr = s.chip.jwr)) := by
  obtain ⟨he, hu⟩ := hv
  generalize ho : (⟨7, word x.val, 0, 0, 0, 0⟩ : OrderCopy) = o
  have htake : takeOrder o s.chip = setResult .ok (enterReleaseGuard x ((copyOrder o s.chip).hungUp x)) := by
    rw [← ho, takeOrder_clear he hu, ho, orderClear_of_onHook (c := copyOrder o s.chip) hst hk]
    rfl
  obtain ⟨t, ht, hans, honly, hline, hjwr⟩ := next_order_reads hr (i := .clear (word x.val)) (by rw [← ho]; rfl) htake
    (((copyOrder o s.chip).hungUp_quiet x).enterReleaseGuard x)
  have htiming := (copyOrder o s.chip).hungUp_timing x
  rw [copyOrder_timing] at htiming
  rw [enterReleaseGuard_eq (by rw [htiming]; exact hg), htiming] at hline hjwr
  have hself := hline x
  rw [Chip.line_modLine_self] at hself
  refine ⟨t, ht, hans, honly, by rw [hself]; rfl, by rw [hself]; rfl, by rw [hself]; rfl, by rw [hself]; exact Bool.and_false _,
    by rw [hself]; rfl, fun hw => ?_⟩
  have h := Chip.hungUp_of_nil (c := copyOrder o s.chip) hw x
  refine ⟨by rw [hself]; exact h.slot, fun y hy => ?_, fun hstall => ?_⟩
  · rw [hline, Chip.line_modLine_ne _ _ hy]
    exact h.others y hy
  · rw [hjwr]
    exact h.jwr (by simp [Chip.taking_of_running (c := copyOrder o s.chip) hr.1, hstall])

/-- CLEAR of a call off-hook, and of a line that waits for its dial tone (09 R146, 03 R51). -/
theorem clear_parks (hr : Ready s) (hv : Supervised x s)
    (hst : (s.chip.line x).st.inCall ∧ (s.chip.line x).hook = .off ∨ (s.chip.line x).st = .seizeWait) :
    ∃ t, exec (.clear (word x.val)) s = .next t ∧ Answered ⟨7, word x.val, 0, 0, 0, 0⟩ .ok s t ∧ OrderOnly s t ∧
      (t.chip.line x).st = .parked ∧
      (t.chip.line x).park =
        (if (s.chip.timing x).parkDelay = 0 then none else some ⟨0, 1000 * (s.chip.timing x).parkDelay⟩) ∧
      (t.chip.line x).tone = .none ∧ (t.chip.line x).answered = false ∧ (t.chip.line x).dialTone = none ∧
      (t.chip.line x).dialling = none ∧
      (s.chip.sst.waitList = [] → (t.chip.line x).slot = none ∧ OthersKept x s t ∧
        (Queues x s → t.chip.jwr =
          { s.chip.jwr with queue := s.chip.jwr.queue ++ [⟨some x, s.chip.shc.ms, .park .cleared⟩] })) := by
  obtain ⟨he, hu⟩ := hv
  generalize ho : (⟨7, word x.val, 0, 0, 0, 0⟩ : OrderCopy) = o
  have htake : takeOrder o s.chip = setResult .ok (enterParked x (some .cleared) ((copyOrder o s.chip).hungUp x)) := by
    rw [← ho, takeOrder_clear he hu, ho, orderClear_of_offHook (c := copyOrder o s.chip) hst]
    rfl
  obtain ⟨t, ht, hans, honly, hline, hjwr⟩ := next_order_reads hr (i := .clear (word x.val)) (by rw [← ho]; rfl) htake
    (((copyOrder o s.chip).hungUp_quiet x).enterParked x _)
  have htiming := (copyOrder o s.chip).hungUp_timing x
  rw [copyOrder_timing] at htiming
  have hself := hline x
  rw [enterParked_some, emit_line, enterParked_none, Chip.line_modLine_self, htiming] at hself
  refine ⟨t, ht, hans, honly, by rw [hself]; rfl, by rw [hself]; simp [Line.parked], by rw [hself]; rfl,
    by rw [hself]; exact Bool.and_false _, by rw [hself]; rfl, by rw [hself]; rfl, fun hw => ?_⟩
  have h := Chip.hungUp_of_nil (c := copyOrder o s.chip) hw x
  refine ⟨by rw [hself]; exact h.slot, fun y hy => ?_, fun hq => ?_⟩
  · rw [hline, enterParked_some, emit_line, enterParked_none, Chip.line_modLine_ne _ _ hy]
    exact h.others y hy
  · rw [hjwr]
    exact h.parks (Chip.Queueing.congr ((queues_iff x s).1 hq) rfl rfl) _

end

end Sys2Proof.Machine
end

section
open Sys2Proof Sys2Proof.Machine

/-- Settles O42: CLEAR by the state of its line and, in a call, by its hook. -/
theorem clearOrderEndsACall : Obligations.ClearOrderEndsACall := by
  unfold Obligations.ClearOrderEndsACall
  intro s x hr hv l T i o call
  obtain ⟨he, hu⟩ := hv
  have answers {r : Result} (h : orderClear x (copyOrder o s.chip) = (copyOrder o s.chip, r)) : AnswersOnly i o r s := by
    refine answersOnly_of_takeOrder hr rfl ?_
    rw [takeOrder_clear he hu, h]
    rfl
  exact ⟨clear_guards hr ⟨he, hu⟩, clear_parks hr ⟨he, hu⟩,
    fun h => answers (orderClear_of_idle (c := copyOrder o s.chip) h),
    fun h => answers (orderClear_of_ring (c := copyOrder o s.chip) h)⟩

end

section
/-! SUPPORT. CONNECT taken (09 R144, 10 R150): the digits that a line holds flushed with FINAL, its slot given up, and TALK. -/

namespace Sys2Proof.Machine

/-- The chip with the digits of line x flushed as CONNECT flushes them: in ROUTING where any are held, in RECALL where the record is
accepted (09 R144). -/
def Chip.digitsEnded (c : Chip) (x : LineNo) : Chip :=
  match (c.line x).st with
  | .routing => if c.holdsDigits x then terminalFlush x .final c else c
  | .recall => if c.accepted x then terminalFlush x .final (stopDialling x (dropPulses x c)) else c
  | _ => c

/-- The line as CONNECT brings it into TALK, not answered (09 R137, R144). -/
def Line.connected (l : Line) (clearAt : Nat) : Line := { (l.enter clearAt .talk).toned .none with answered := false }

/-- CONNECT flushes the digits of a line with the call context `k` in slot k (09 R144). -/
def Slot.Flushes (k : Slot) (st : LineSt) : Prop :=
  st = .routing ∧ (k.ctx.buffer ≠ [] ∨ k.ctx.mark.isSome = true) ∨ st = .recall ∧ k.phase = .valid

section
variable {c d : Chip} {x : LineNo} {k : SlotNo}

theorem enterTalk_connected (x : LineNo) (c : Chip) :
    enterTalk x false c = c.modLine x fun l => l.connected (c.timing x).clearAt := by
  simp [enterTalk, Line.connected]

/-- A CLEAR threshold armed in a break stays armed as the line enters TALK (02 R29). -/
theorem Line.connected_threshold {l : Line} {n : Nat} (hk : l.hook = .on) (ht : l.threshold = .clear n) (clearAt : Nat) :
    (l.connected clearAt).threshold = .clear n := by
  simp [Line.connected, Line.toned, entryThreshold, LineSt.judging, hk, ht]

/-! ### The digits flushed -/

theorem Chip.holdsDigits_of_none (hs : (c.line x).slot = none) : c.holdsDigits x = false := by
  simp [Chip.holdsDigits, Chip.ctx, hs]

theorem Chip.holdsDigits_of_slot (hs : (c.line x).slot = some k) :
    c.holdsDigits x = true ↔ (c.slot k).ctx.buffer ≠ [] ∨ (c.slot k).ctx.mark.isSome = true := by
  simp [Chip.holdsDigits, Chip.ctx_of_slot hs]

theorem digitsEnded_of_none (hs : (c.line x).slot = none) : c.digitsEnded x = c := by
  unfold Chip.digitsEnded
  split
  · rw [if_neg (by simp [Chip.holdsDigits_of_none hs])]
  · rw [if_neg (by simp [Chip.accepted_of_none hs])]
  · rfl

theorem digitsEnded_of_not_flushes (hs : (c.line x).slot = some k) (h : ¬(c.slot k).Flushes (c.line x).st) :
    c.digitsEnded x = c := by
  unfold Chip.digitsEnded
  split
  · next hst => rw [if_neg fun e => h (.inl ⟨hst, (Chip.holdsDigits_of_slot hs).1 e⟩)]
  · next hst => rw [if_neg fun e => h (.inr ⟨hst, by simpa [Chip.accepted_of_slot hs] using e⟩)]
  · rfl

/-- A flush of CONNECT is a flush of line x; in RECALL the digit in progress is first discarded and the dialling timer stopped. -/
theorem digitsEnded_of_flushes (hs : (c.line x).slot = some k) (h : (c.slot k).Flushes (c.line x).st) :
    ∃ (f : Line → Line) (g : Ctx → Ctx), c.Holding x k f ∧ (f (c.line x)).dialStopped = (c.line x).dialStopped ∧
      (g (c.slot k).ctx).buffer = (c.slot k).ctx.buffer ∧ (g (c.slot k).ctx).overflow = (c.slot k).ctx.overflow ∧
      c.digitsEnded x = c.flushCall x k .final f g := by
  rcases h with ⟨hst, hheld⟩ | ⟨hst, hv⟩
  · refine ⟨id, id, ⟨hs, rfl⟩, rfl, rfl, rfl, ?_⟩
    have hsame : c.modCall x k id id = c := (Chip.modSlot_id _ k).trans (Chip.modLine_id c x)
    simp only [Chip.digitsEnded, hst, if_pos ((Chip.holdsDigits_of_slot hs).2 hheld), Chip.flushCall, hsame]
  · refine ⟨Line.dialStopped, Ctx.undigit, Chip.holding_dialStopped hs, rfl, rfl, rfl, ?_⟩
    have ha : c.accepted x = true := by simp [Chip.accepted_of_slot hs, hv]
    simp only [Chip.digitsEnded, hst, if_pos ha]
    rw [dropPulses, modCtx_of_slot hs]
    rfl

/-- Of the lines and the Slot Wait List, the flush touches the dialling timer of line x at most. -/
structure Chip.KeepsCalls (c d : Chip) (x : LineNo) : Prop where
  line : (d.line x).dialStopped = (c.line x).dialStopped
  others : ∀ y, y ≠ x → d.line y = c.line y
  waitList : d.sst.waitList = c.sst.waitList

theorem digitsEnded_keepsCalls (c : Chip) (x : LineNo) : c.KeepsCalls (c.digitsEnded x) x := by
  cases hs : (c.line x).slot with
  | none =>
    rw [digitsEnded_of_none hs]
    exact ⟨rfl, fun _ _ => rfl, rfl⟩
  | some k =>
    by_cases h : (c.slot k).Flushes (c.line x).st
    · obtain ⟨f, g, hold, hline, -, -, heq⟩ := digitsEnded_of_flushes hs h
      have hd := flushCall_digitsOnly (h := g) hold .final
      rw [heq]
      refine ⟨?_, fun y hy => ?_, ?_⟩
      · rw [hd.line, Chip.modCall_line, hline]
      · rw [hd.line, Chip.modCall_line_ne hy]
      · rw [hd.parts]
        rfl
    · rw [digitsEnded_of_not_flushes hs h]
      exact ⟨rfl, fun _ _ => rfl, rfl⟩

/-- Digits that do not exceed a block are queued in one record, which empties the buffer (03 R44). -/
theorem digitsEnded_jwr (hs : (c.line x).slot = some k) (h : (c.slot k).Flushes (c.line x).st) (ht : c.taking = true)
    (hf : c.jwr.full = false)
    (hb : (c.slot k).ctx.buffer.length ≤ field (c.slot k).copy[1] 0 4 ∨ field (c.slot k).copy[1] 0 4 = 0) :
    (c.digitsEnded x).jwr =
      { c.jwr with
        queue := c.jwr.queue ++ [⟨some x, c.stamp, .digits (c.slot k).ctx.buffer (some .final) (c.slot k).ctx.overflow⟩] } := by
  obtain ⟨f, g, hold, -, hbuffer, hover, heq⟩ := digitsEnded_of_flushes hs h
  have hw := (flushCall_writes (h := g) hold .final ht hf (by rwa [hbuffer])).2
  rw [heq, hw, hbuffer, hover]

theorem Chip.KeepsCalls.hook (h : c.KeepsCalls d x) : (d.line x).hook = (c.line x).hook := (congrArg Line.hook h.line :)

theorem Chip.KeepsCalls.threshold (h : c.KeepsCalls d x) : (d.line x).threshold = (c.line x).threshold :=
  (congrArg Line.threshold h.line :)

theorem Quiet.digitsEnded (h : Quiet c d) (x : LineNo) : Quiet c (d.digitsEnded x) := by
  unfold Chip.digitsEnded
  split
  · split
    · exact h.terminalFlush x _
    · exact h
  · split
    · exact ((h.dropPulses x).stopDialling x).terminalFlush x _
    · exact h
  · exact h

/-! ### The slot given up after it -/

/-- The chip as it stands when CONNECT brings line x into TALK: its digits flushed, then its tone removed and its slot given up. -/
def Chip.callOver (c : Chip) (x : LineNo) : Chip := (c.digitsEnded x).hungUp x

theorem Chip.callOver_quiet (c : Chip) (x : LineNo) : Quiet c (c.callOver x) :=
  ((Quiet.refl c).digitsEnded x).trans (Chip.hungUp_quiet _ x)

theorem Chip.callOver_hook (c : Chip) (x : LineNo) : ((c.callOver x).line x).hook = (c.line x).hook :=
  (Chip.hungUp_hook _ x).trans (digitsEnded_keepsCalls c x).hook

section
variable (hw : c.sst.waitList = [])
include hw

theorem digitsEnded_hangsUp (x : LineNo) : (c.digitsEnded x).HangsUp (c.callOver x) x :=
  Chip.hungUp_of_nil ((digitsEnded_keepsCalls c x).waitList.trans hw) x

theorem Chip.callOver_line_ne {y : LineNo} (hy : y ≠ x) : (c.callOver x).line y = c.line y :=
  ((digitsEnded_hangsUp hw x).others y hy).trans ((digitsEnded_keepsCalls c x).others y hy)

theorem Chip.callOver_threshold (x : LineNo) : ((c.callOver x).line x).threshold = (c.line x).threshold :=
  (digitsEnded_hangsUp hw x).threshold.trans (digitsEnded_keepsCalls c x).threshold

variable (hrun : c.shc.run = .running)
include hrun

/-- The journal is as the flush has left it, unless that stalled it. -/
theorem Chip.callOver_jwr (h : (c.digitsEnded x).jwr.stall = .none) : (c.callOver x).jwr = (c.digitsEnded x).jwr := by
  have hrun' : (c.digitsEnded x).shc.run = .running := ((Quiet.refl c).digitsEnded x).shc.run.trans hrun
  exact (digitsEnded_hangsUp hw x).jwr (by rw [Chip.taking_of_running hrun', h]; rfl)

variable (hstall : c.jwr.stall = .none)
include hstall

/-- No record is written where no digits are flushed. -/
theorem Chip.callOver_jwr_of_same (h : c.digitsEnded x = c) : (c.callOver x).jwr = c.jwr := by
  have hjwr := Chip.callOver_jwr (x := x) hw hrun
  rw [h] at hjwr
  exact hjwr hstall

/-- Digits that do not exceed a block are flushed in one record. -/
theorem Chip.callOver_jwr_of_flushes (hs : (c.line x).slot = some k) (h : (c.slot k).Flushes (c.line x).st)
    (hf : c.jwr.full = false)
    (hb : (c.slot k).ctx.buffer.length ≤ field (c.slot k).copy[1] 0 4 ∨ field (c.slot k).copy[1] 0 4 = 0) :
    (c.callOver x).jwr =
      { c.jwr with
        queue := c.jwr.queue ++ [⟨some x, c.shc.ms, .digits (c.slot k).ctx.buffer (some .final) (c.slot k).ctx.overflow⟩] } := by
  have hjwr := digitsEnded_jwr hs h (by simp [Chip.taking_of_running hrun, hstall]) hf hb
  rw [Chip.stamp_of_running hrun] at hjwr
  exact (Chip.callOver_jwr hw hrun (by rw [hjwr]; exact hstall)).trans hjwr

end

/-! ### The order taken -/

theorem takeOrder_connect (he : x.val < c.shc.hdr.equipped) (hu : (c.line x).st ≠ .unequipped) :
    takeOrder ⟨5, word x.val, 0, 0, 0, 0⟩ c = withResult (orderConnect x (copyOrder ⟨5, word x.val, 0, 0, 0, 0⟩ c)) := by
  rw [takeOrder_of_names (k := .connect) rfl (by simp [argsInRange, lineInRange_word]) (by simp [orderLine]) (lineOf_word x) he]
  simp [hu, handOver]

theorem orderConnect_of_call (hst : (c.line x).st = .routing ∨ (c.line x).st = .recall) :
    orderConnect x c = (enterTalk x false (c.callOver x), .ok) := by
  rcases hst with hst | hst <;> simp only [orderConnect, Chip.callOver, Chip.digitsEnded, Chip.hungUp, hst]

theorem orderConnect_of_other (h1 : (c.line x).st ≠ .routing) (h2 : (c.line x).st ≠ .recall) :
    orderConnect x c = (c, .lineBusy) := by
  unfold orderConnect
  split
  · exact absurd ‹_› h1
  · exact absurd ‹_› h2
  · rfl

end

/-! ### The order on the machine -/

section
variable {s : State} {x : LineNo} {k : SlotNo}

/-- CONNECT in ROUTING and RECALL, said of the lines and the journal (09 R144). -/
theorem next_connect (hr : Ready s) (hv : Supervised x s)
    (hst : (s.chip.line x).st = .routing ∨ (s.chip.line x).st = .recall) :
    let o : OrderCopy := ⟨5, word x.val, 0, 0, 0, 0⟩
    let e := (copyOrder o s.chip).callOver x
    ∃ t, exec (.connect (word x.val)) s = .next t ∧ Answered o .ok s t ∧ OrderOnly s t ∧
      t.chip.line x = (e.line x).connected (e.timing x).clearAt ∧ (∀ y, y ≠ x → t.chip.line y = e.line y) ∧
      t.chip.jwr = e.jwr := by
  intro o e
  obtain ⟨he, hu⟩ := hv
  have htake : takeOrder o s.chip = setResult .ok (enterTalk x false e) := by
    rw [takeOrder_connect he hu, orderConnect_of_call (c := copyOrder o s.chip) hst]
    rfl
  obtain ⟨t, ht, hans, honly, hline, hjwr⟩ :=
    next_order_reads hr (i := .connect (word x.val)) rfl htake (((copyOrder o s.chip).callOver_quiet x).enterTalk x false)
  rw [enterTalk_connected] at hline hjwr
  exact ⟨t, ht, hans, honly, (hline x).trans (Chip.line_modLine_self _ _ _),
    fun y hy => (hline y).trans (Chip.line_modLine_ne _ _ hy), hjwr⟩

/-- CONNECT in ROUTING and RECALL: TALK, and the digits flushed (09 R144). -/
theorem connect_talks (hr : Ready s) (hv : Supervised x s)
    (hst : (s.chip.line x).st = .routing ∨ (s.chip.line x).st = .recall) :
    ∃ t, exec (.connect (word x.val)) s = .next t ∧ Answered ⟨5, word x.val, 0, 0, 0, 0⟩ .ok s t ∧ OrderOnly s t ∧
      (t.chip.line x).st = .talk ∧ (t.chip.line x).tone = .none ∧ (t.chip.line x).answered = false ∧
      (s.chip.sst.waitList = [] → (t.chip.line x).slot = none ∧ (t.chip.line x).hook = (s.chip.line x).hook ∧
        OthersKept x s t ∧
        (∀ n, (s.chip.line x).hook = .on → (s.chip.line x).threshold = .clear n → (t.chip.line x).threshold = .clear n) ∧
        (s.chip.jwr.stall = .none →
          ((s.chip.line x).slot = none → t.chip.jwr = s.chip.jwr) ∧
          ∀ k, (s.chip.line x).slot = some k →
            let K := (s.chip.slot k).ctx
            let size := field (s.chip.slot k).copy[1] 0 4
            let flushes := (s.chip.slot k).Flushes (s.chip.line x).st
            (¬flushes → t.chip.jwr = s.chip.jwr) ∧
            (flushes → s.chip.jwr.full = false → K.buffer.length ≤ size ∨ size = 0 →
              t.chip.jwr = { s.chip.jwr with queue := s.chip.jwr.queue ++
                [⟨some x, s.chip.shc.ms, .digits K.buffer (some .final) K.overflow⟩] }))) := by
  obtain ⟨t, ht, hans, honly, hline, hothers, hjwr⟩ := next_connect hr hv hst
  generalize (⟨5, word x.val, 0, 0, 0, 0⟩ : OrderCopy) = o at *
  refine ⟨t, ht, hans, honly, by rw [hline]; rfl, by rw [hline]; rfl, by rw [hline]; rfl, fun hw => ?_⟩
  have hw' : (copyOrder o s.chip).sst.waitList = [] := hw
  refine ⟨by rw [hline]; exact (digitsEnded_hangsUp hw' x).slot, by rw [hline]; exact Chip.callOver_hook (copyOrder o s.chip) x,
    fun y hy => (hothers y hy).trans (Chip.callOver_line_ne hw' hy), fun n hk hn => ?_,
    fun hstall => ⟨fun hs => ?_, fun k hs => ⟨fun hno => ?_, fun hyes hfull hb => ?_⟩⟩⟩
  · rw [hline]
    exact Line.connected_threshold ((Chip.callOver_hook (copyOrder o s.chip) x).trans hk)
      ((Chip.callOver_threshold hw' x).trans hn) _
  · exact hjwr.trans (Chip.callOver_jwr_of_same hw' hr.1 hstall (digitsEnded_of_none hs))
  · exact hjwr.trans (Chip.callOver_jwr_of_same hw' hr.1 hstall (digitsEnded_of_not_flushes hs hno))
  · exact hjwr.trans (Chip.callOver_jwr_of_flushes hw' hr.1 hstall hs hyes hfull hb)

end

end Sys2Proof.Machine
end

section
open Sys2Proof Sys2Proof.Machine

/-- Settles O40: CONNECT by the state of its line. -/
theorem connectEntersTalk : Obligations.ConnectEntersTalk := by
  unfold Obligations.ConnectEntersTalk
  intro s x hr hv l i o
  refine ⟨connect_talks hr hv, fun h1 h2 => answersOnly_of_takeOrder hr rfl ?_⟩
  obtain ⟨he, hu⟩ := hv
  rw [takeOrder_connect he hu, orderConnect_of_other (c := copyOrder o s.chip) h1 h2]
  rfl

end

section
/-! SUPPORT. A flash that opens a recall, in TALK and in RECALL without a request (09 R138, R139, R141), and what its slot request
finds (04 R58, R59, R61, R65). -/

namespace Sys2Proof.Machine

/-! ### The line that asks -/

/-- Line x is in TALK, or in RECALL without a slot and without a request for one (09 R138, R141). -/
def State.OpensRecall (s : State) (x : LineNo) : Prop :=
  (s.chip.line x).st = .talk ∨
    (s.chip.line x).st = .recall ∧ (s.chip.line x).slot = none ∧ s.chip.listed x = false ∧ (s.chip.line x).asking = false

/-- The line as a flash leaves it that opens a recall, its slot request still to be made: off-hook, and from TALK in RECALL. -/
def Line.flashed (l : Line) (clearAt : Nat) : Line := if l.st = .talk then (l.turned .off).enter clearAt .recall else l.turned .off

section
variable (l : Line) (n : Nat)

@[simp] theorem Line.flashed_tone : (l.flashed n).tone = l.tone := by unfold Line.flashed; split <;> rfl
@[simp] theorem Line.flashed_tset : (l.flashed n).tset = l.tset := by unfold Line.flashed; split <;> rfl

@[simp] theorem Line.flashed_answered : (l.flashed n).answered = if l.st = .talk then false else l.answered := by
  unfold Line.flashed
  split
  · exact Bool.and_false _
  · rfl

end

theorem State.OpensRecall.flashed_st {s : State} {x : LineNo} (h : s.OpensRecall x) (n : Nat) :
    ((s.chip.line x).flashed n).st = .recall := by
  unfold Line.flashed
  rcases h with h | ⟨h, -⟩
  · rw [if_pos h]
    rfl
  · rw [if_neg (by simp [h])]
    exact h

/-- The chip with FLASH of line x queued, with the state and no digits. -/
def State.flashQueued (s : State) (x : LineNo) : Chip :=
  s.chip.modJwr fun j => { j with queue := j.queue ++ [⟨some x, s.chip.shc.ms, .flash (s.chip.line x).st 0⟩] }

/-- The same with line x in RECALL, its slot request still to be made (09 R138). -/
def State.flashing (s : State) (x : LineNo) : Chip :=
  (s.flashQueued x).modLine x fun l => l.flashed (s.chip.timing x).clearAt

/-- The same with the class of the request noted, before a slot is bound (04 R62). -/
def State.recalling (s : State) (x : LineNo) : Chip := (s.flashing x).asked x (s.chip.line x).cls

section
variable (s : State) (x : LineNo)

@[simp] theorem State.recalling_line :
    (s.recalling x).line x =
      { (s.chip.line x).flashed (s.chip.timing x).clearAt with askClass := (s.chip.line x).cls } := by
  rw [recalling, Chip.asked, Chip.line_modLine_self, flashing, Chip.line_modLine_self]
  rfl
theorem State.recalling_line_ne {y : LineNo} (h : y ≠ x) : (s.recalling x).line y = s.chip.line y := by
  simp [recalling, flashing, flashQueued, Chip.asked, Chip.line_modLine_ne _ _ h]
theorem State.recalling_timing : (s.recalling x).timing x = s.chip.timing x := by simp [Chip.timing]; rfl
@[simp] theorem State.recalling_slot (j : SlotNo) : (s.recalling x).slot j = s.chip.slot j := rfl
@[simp] theorem State.recalling_sst : (s.recalling x).sst = s.chip.sst := rfl
@[simp] theorem State.recalling_sets : (s.recalling x).sets = s.chip.sets := rfl
@[simp] theorem State.recalling_ctb : (s.recalling x).ctb = s.chip.ctb := rfl
@[simp] theorem State.recalling_rsc : (s.recalling x).rsc = s.chip.rsc := rfl
@[simp] theorem State.recalling_gen : (s.recalling x).gen = s.chip.gen := rfl
@[simp] theorem State.recalling_ord : (s.recalling x).ord = s.chip.ord := rfl
@[simp] theorem State.recalling_mpt : (s.recalling x).mpt = s.chip.mpt := rfl
@[simp] theorem State.recalling_shc : (s.recalling x).shc = s.chip.shc := rfl
@[simp] theorem State.recalling_jwr : (s.recalling x).jwr =
    { s.chip.jwr with queue := s.chip.jwr.queue ++ [⟨some x, s.chip.shc.ms, .flash (s.chip.line x).st 0⟩] } := rfl
@[simp] theorem State.recalling_planPresent : (s.recalling x).planPresent = s.chip.planPresent := rfl

end

/-! ### The flash judged -/

section
variable {s : State} {x : LineNo} {k : SlotNo} {trip : Bool}

theorem judgeBreak_talkFlash {c : Chip} {d : Nat} (hst : (c.line x).st = .talk) (hw : (c.timing x).InFlash d) :
    judgeBreak x d c = talkFlash x c := by
  simp [judgeBreak, hst, (TimingSet.window_eq_flash_iff _ _).2 hw]

/-- A flash in TALK whose record is queued (09 R138). -/
theorem talkFlash_of_queueing {c : Chip} (h : c.Queueing x) :
    talkFlash x c =
      requestSlot x .recall (c.line x).cls
        ((c.modJwr fun j => { j with queue := j.queue ++ [⟨some x, c.shc.ms, .flash .talk 0⟩] }).modLine x fun l =>
          l.enter (c.timing x).clearAt .recall) := by
  simp only [talkFlash, emit_of_queueing h, setSt_eq, Chip.line_modLine_self]
  rfl

/-- The flash makes the slot request of line x in RECALL (09 R138, R141). -/
theorem State.OpensRecall.exec_request (ho : s.OpensRecall x) (h : s.AboutToTurn x true) (hq : Queues x s) (hf : s.Flash x)
    (trip : Bool) :
    exec (.hookTransition x true trip) s = finish s (requestSlot x .recall (s.chip.line x).cls (s.flashing x)) := by
  have hq' : (s.chip.turned x .off).Queueing x := Chip.Queueing.congr ((queues_iff x s).1 hq) rfl rfl
  rcases ho with hst | ⟨hst, hs, hl, hk⟩
  · rw [h.exec_judge (by rw [hst]; rfl) trip, judgeBreak_talkFlash (by simpa using hst) (by simpa [State.Flash] using hf),
      talkFlash_of_queueing hq', Chip.turned_line, Chip.turned_timing, ← hst]
    exact congrArg (fun c => finish s (requestSlot x .recall _ c))
      ((Chip.modLine_modLine (s.flashQueued x) x (fun l => l.turned .off) _).trans
        (Chip.modLine_congr (c := s.flashQueued x) (if_pos hst).symm))
  · rw [hookTransition_recall h hst hf trip, secondFlash_asks (by simpa using hs) (by simpa using hl) (by simpa using hk),
      emit_of_queueing hq', Chip.turned_line, ← hst]
    exact congrArg (fun c => finish s (requestSlot x .recall _ c))
      (Chip.modLine_congr (c := s.flashQueued x) (x := x) (f := fun l => l.turned .off)
        (if_neg (show (s.chip.line x).st ≠ .talk by simp [hst])).symm)

/-! ### What the request finds -/

/-- Line x is in RECALL after a flash, the answered mark of TALK cleared, and no other line is touched (09 R138). -/
def State.Recalled (s t : State) (x : LineNo) : Prop :=
  (t.chip.line x).st = .recall ∧
    (t.chip.line x).answered = (if (s.chip.line x).st = .talk then false else (s.chip.line x).answered) ∧ OthersKept x s t

variable (ho : s.OpensRecall x) (hq : Queues x s)
  (hexec : exec (.hookTransition x true trip) s = finish s (requestSlot x .recall (s.chip.line x).cls (s.flashing x)))

include hq in
theorem flashing_run : (s.flashing x).shc.run ≠ .starting := by simp [State.flashing, State.flashQueued, hq.1]

include ho hq hexec

/-- No slot is to be had: the line joins the Slot Wait List (04 R65). -/
theorem flash_waits (hc : s.chip.chooseSlot x = none) :
    ∃ t, exec (.hookTransition x true trip) s = .next t ∧ s.Recalled t x ∧ (t.chip.line x).tone = (s.chip.line x).tone ∧
      t.chip.sst = { s.chip.sst with waitList := waitTail s.chip.sst.waitList ⟨x, .recall, (s.chip.line x).cls⟩ } ∧
      t.chip.jwr = (s.recalling x).jwr ∧ OnlyChanges [.lines, .slots, .journal] s t := by
  rw [requestSlot_waits (flashing_run hq) ((chooseSlot_congr (by rfl) x).trans hc)] at hexec
  change exec _ s = finish s ((s.recalling x).setWaitList (waitTail s.chip.sst.waitList _)) at hexec
  refine ⟨_, hexec, ⟨by simp [ho.flashed_st], by simp, fun y hy => by simp [State.recalling_line_ne _ _ hy]⟩, by simp,
    by simp [Chip.setWaitList], by simp, ?_⟩
  apply OnlyChanges.of_chip (m := s.ram) <;> simp

variable (hn : s.chip.entry x = none) (hc : s.chip.chooseSlot x = some k)
include hn hc

/-- The slot chosen holds no copy of the line's record: it is bound and a fetch requested (04 R59, R60). -/
theorem flash_fetches (hm : (s.chip.slot k).Misses x) :
    ∃ t, exec (.hookTransition x true trip) s = .next t ∧ s.Recalled t x ∧ (t.chip.line x).tone = (s.chip.line x).tone ∧
      (t.chip.line x).slot = some k ∧ (t.chip.slot k).status = .bound ∧ (t.chip.slot k).phase = .fetching ∧
      (t.chip.slot k).holder = some x ∧ (t.chip.slot k).recLine = some x ∧ (t.chip.slot k).ctx = Ctx.fresh ∧
      t.chip.mpt.reqs = s.chip.mpt.reqs ++ [.fetch k] ∧ OtherSlotsKept k s t ∧ t.chip.jwr = (s.recalling x).jwr ∧
      OnlyChanges [.lines, .slots, .journal, .port] s t := by
  rw [requestSlot_fetches (flashing_run hq) ((chooseSlot_congr (by rfl) x).trans hc) hm hn] at hexec
  change exec _ s = finish s (addRequest (.fetch k) ((s.recalling x).boundTo x k .miss)) at hexec
  refine ⟨_, hexec, ⟨by simp [Line.slotted, ho.flashed_st], by simp [Line.slotted],
    fun y hy => by simp [Chip.boundTo_line_ne _ hy, State.recalling_line_ne _ _ hy]⟩, by simp [Line.slotted],
    by simp [Line.slotted], by simp [Slot.bind], by simp [Slot.bind], by simp [Slot.bind], by simp [Slot.bind],
    by simp [Slot.bind], by simp, fun j hj => by simp [Chip.boundTo_slot_ne _ hj], by simp, ?_⟩
  apply OnlyChanges.of_chip (m := s.ram) <;> simp

/-- The slot chosen has a fetch of the line's record in progress, without a holder: the fetch goes on (04 R61). -/
theorem flash_joins (hb : (s.chip.slot k).status = .bound) :
    ∃ t, exec (.hookTransition x true trip) s = .next t ∧ s.Recalled t x ∧ (t.chip.line x).tone = (s.chip.line x).tone ∧
      (t.chip.line x).slot = some k ∧
      t.chip.slot k =
        { s.chip.slot k with phase := .fetching, holder := some x, recLine := some x, failed := false, ctx := Ctx.fresh } ∧
      OtherSlotsKept k s t ∧ t.chip.jwr = (s.recalling x).jwr ∧ OnlyChanges [.lines, .slots, .journal] s t := by
  rw [requestSlot_joins (flashing_run hq) ((chooseSlot_congr (by rfl) x).trans hc) hb hn] at hexec
  change exec _ s = finish s ((s.recalling x).boundTo x k .running) at hexec
  refine ⟨_, hexec, ⟨by simp [Line.slotted, ho.flashed_st], by simp [Line.slotted],
    fun y hy => by simp [Chip.boundTo_line_ne _ hy, State.recalling_line_ne _ _ hy]⟩, by simp [Line.slotted],
    by simp [Line.slotted], by simp [Slot.bind, hb], fun j hj => by simp [Chip.boundTo_slot_ne _ hj], by simp, ?_⟩
  apply OnlyChanges.of_chip (m := s.ram) <;> simp

/-- The slot chosen is WARM with the line's record, which is taken at once (04 R59, 09 R139). -/
theorem exec_flash_warm (hw : (s.chip.slot k).status = .warm) (hrec : (s.chip.slot k).recLine = some x) :
    exec (.hookTransition x true trip) s = finish s (grantFreed
      (if recordValid s.chip.planPresent (s.chip.slot k).copy then
        (acceptRecall x (s.chip.slot k).copy ((s.recalling x).boundTo x k .hit), none)
      else refuseRecall x ((s.recalling x).boundTo x k .hit))) := by
  rw [hexec, requestSlot_hits (flashing_run hq) ((chooseSlot_congr (by rfl) x).trans hc) hw hrec hn]
  change finish s (grantFreed (takeRecord x ((s.recalling x).boundTo x k .hit))) = _
  rw [takeRecord_of_recall (i := k) (by simp [Line.slotted]) (by simp [Line.slotted, ho.flashed_st])]
  simp [Slot.bind]

/-- The record is valid: it is accepted (09 R139). -/
theorem flash_accepted (hw : (s.chip.slot k).status = .warm) (hrec : (s.chip.slot k).recLine = some x)
    (hv : recordValid s.chip.planPresent (s.chip.slot k).copy = true) :
    ∃ t, exec (.hookTransition x true trip) s = .next t ∧ s.Recalled t x ∧
      (t.chip.line x).tone = (if flag (s.chip.slot k).copy[0] 0 then .dial else (s.chip.line x).tone) ∧
      (t.chip.line x).dialling = some ⟨0, 1000 * (s.chip.timing x).dialling⟩ ∧ (t.chip.line x).slot = some k ∧
      (t.chip.slot k).status = .bound ∧ (t.chip.slot k).phase = .valid ∧ (t.chip.slot k).holder = some x ∧
      (t.chip.slot k).ctx = Ctx.fresh ∧ OtherSlotsKept k s t ∧ t.chip.jwr = (s.recalling x).jwr ∧
      OnlyChanges [.lines, .slots, .journal] s t := by
  replace hexec := exec_flash_warm ho hq hexec hn hc hw hrec
  rw [if_pos hv, grantFreed_of_none, acceptRecall_eq, Chip.boundTo_timing, State.recalling_timing] at hexec
  have hline (l : Line) (tone : Bool) (ms : Nat) : (l.recalled tone ms).answered = l.answered := by cases tone <;> rfl
  refine ⟨_, hexec, ⟨?_, ?_, fun y hy => ?_⟩, ?_, ?_, ?_, by simp [Slot.bind], by simp [Slot.bind], by simp [Slot.bind],
    by simp [Slot.bind], fun j hj => by simp [Chip.boundTo_slot_ne _ hj], by simp, ?_⟩
  · simp [Line.recalled_st, Line.slotted, ho.flashed_st]
  · simp [hline, Line.slotted]
  · simp [Chip.line_modLine_ne _ _ hy, Chip.boundTo_line_ne _ hy, State.recalling_line_ne _ _ hy]
  · simp [Line.recalled_tone, Line.slotted, recRecallTone]
  · simp [Line.recalled]
  · simp [Line.recalled_slot, Line.slotted]
  · apply OnlyChanges.of_chip (m := s.ram) <;> simp

/-- The record is not valid, and nobody waits for the slot that it leaves: the line stays in RECALL without one (09 R139). -/
theorem flash_refused (hsp : s.chip.Spoilt k x) (hw : s.chip.sst.waitList = []) :
    ∃ t, exec (.hookTransition x true trip) s = .next t ∧ s.Recalled t x ∧ (t.chip.line x).tone = (s.chip.line x).tone ∧
      (t.chip.line x).slot = none ∧ Discarded k x s t ∧
      (s.chip.jwr.counted + 2 ≤ 32 → t.chip.jwr = { s.chip.jwr with queue := s.chip.jwr.queue ++
        [⟨some x, s.chip.shc.ms, .flash (s.chip.line x).st 0⟩, ⟨some x, s.chip.shc.ms, .fault .recordInvalid 0⟩] }) ∧
      OnlyChanges [.lines, .slots, .journal, .shelf] s t := by
  obtain ⟨hwarm, hrec, hinvalid⟩ := hsp
  replace hexec := exec_flash_warm ho hq hexec hn hc hwarm hrec
  generalize hB : (s.recalling x).boundTo x k .hit = B at hexec
  have hslot : B.slot k = (s.chip.slot k).bind x .hit := by simp [← hB]
  have hline : B.line x = ((s.recalling x).line x).slotted (some k) := by simp [← hB]
  have hjwr : (dropValid x k (B.recordFault x k)).jwr = (B.recordFault x k).jwr :=
    dropValid_jwr_of_kept (by simp [hslot, Slot.bind, Ctx.fresh])
  rw [if_neg (by simp [hinvalid]), refuseRecall_eq (i := k) (by simp [hline, Line.slotted]) (by simp [hslot, Slot.bind]),
    grantFreed_of_nil (by simp [← hB, hw])] at hexec
  refine ⟨_, hexec, ⟨by simp [hline, Line.slotted, ho.flashed_st], by simp [hline, Line.slotted], fun y hy => ?_⟩,
    by simp [hline, Line.slotted], by simp [Line.slotted], ⟨?_, fun j hj => ?_, by simp [← hB], by simp [← hB], ?_, ?_⟩,
    fun hroom => ?_, ?_⟩
  · simp [← hB, dropValid_line_ne _ _ _ hy, Chip.boundTo_line_ne _ hy, State.recalling_line_ne _ _ hy]
  · simp [hslot, Slot.released, Slot.emptied, Slot.bind]
  · simp [← hB, dropValid_slot_ne _ _ _ hj, Chip.recordFault_slot_ne _ _ _ hj, Chip.boundTo_slot_ne _ hj]
  · simpa [← hB, Chip.stamp] using B.recordFault_offered x k
  · simpa using B.recordFault_attention x k
  · have hB' : B.Queueing x :=
      (Chip.Queueing.append ((queues_iff x s).1 hq) hroom ⟨some x, s.chip.shc.ms, .flash (s.chip.line x).st 0⟩).congr
        (by rw [← hB]; rfl) (by rw [← hB]; rfl)
    rw [settle_jwr, hjwr, hB'.recordFault_jwr, ← hB]
    simp
  · apply OnlyChanges.of_chip (m := s.ram) <;> simp [← hB, Chip.recordFault]

end

end Sys2Proof.Machine
end

section
open Sys2Proof Sys2Proof.Machine

/-- Settles O19: the flash leaves the line in RECALL with its slot request made, and each outcome of that request is one case. -/
theorem talkFlashOpensARecall : Obligations.TalkFlashOpensARecall := by
  unfold Obligations.TalkFlashOpensARecall
  intro s x trip h l ho hq hf i flashRec flashed recalled
  have hexec := State.OpensRecall.exec_request ho h hq hf trip
  exact ⟨flash_waits ho hq hexec, fun hn k hc => ⟨flash_fetches ho hq hexec hn hc, flash_joins ho hq hexec hn hc,
    flash_accepted ho hq hexec hn hc, flash_refused ho hq hexec hn hc⟩⟩

end


section
/-! SUPPORT. What the operations of the lines, the slots, the ringing and the journal can do to the Memory Port: they request and
withdraw record fetches (04 R60, R61), and nothing else. -/

namespace Sys2Proof.Machine

/-- The Memory Port `n` is `m` but for record fetches requested and withdrawn. -/
structure Mpt.Fetches (m n : Mpt) : Prop where
  port : { n with reqs := [] } = { m with reqs := [] }
  reqs : ∀ a ∈ n.reqs, a ∈ m.reqs ∨ ∃ i, a = .fetch i

/-- The Memory Port of `d` is that of `c` but for record fetches requested and withdrawn. -/
def Chip.Fetches (c d : Chip) : Prop := c.mpt.Fetches d.mpt

namespace Chip.Fetches
variable {c d e : Chip} {x : LineNo} {i : SlotNo}

theorem refl (c : Chip) : Fetches c c := ⟨rfl, fun _ => .inl⟩

theorem trans (h : Fetches c d) (k : Fetches d e) : Fetches c e := by
  obtain ⟨hport, hreqs⟩ := h
  obtain ⟨kport, kreqs⟩ := k
  exact ⟨kport.trans hport, fun a ha => (kreqs a ha).elim (hreqs a) .inr⟩

/-- What leaves the port as it is. -/
theorem mpt (h : Fetches c d) (he : e.mpt = d.mpt) : Fetches c e := by
  rw [Fetches, he]
  exact h

/-- Operations one after another. -/
theorem foldl {α : Type} {f : Chip → α → Chip} (hf : ∀ {d : Chip} {a : α}, Fetches c d → Fetches c (f d a)) (l : List α)
    (h : Fetches c d) : Fetches c (l.foldl f d) := by
  induction l generalizing d with
  | nil => exact h
  | cons a l ih => exact ih (hf h)

/-! ### The updates -/

theorem requestFetch (h : Fetches c d) : Fetches c (addRequest (.fetch i) d) := by
  obtain ⟨hport, hreqs⟩ := h
  exact ⟨hport, fun a ha => (List.mem_append.1 ha).elim (hreqs a) fun ha => .inr ⟨i, List.mem_singleton.1 ha⟩⟩

theorem dropRequest {a : Access} (h : Fetches c d) : Fetches c (dropRequest a d) := by
  obtain ⟨hport, hreqs⟩ := h
  exact ⟨hport, fun b hb => hreqs b (List.mem_filter.1 hb).1⟩

theorem modLine {f : Line → Line} (h : Fetches c d) : Fetches c (d.modLine x f) := h
theorem modSlot {f : Slot → Slot} (h : Fetches c d) : Fetches c (d.modSlot i f) := h
theorem modRsc {f : Rsc → Rsc} (h : Fetches c d) : Fetches c (d.modRsc f) := h
theorem modGen {f : Gen → Gen} (h : Fetches c d) : Fetches c (d.modGen f) := h
theorem modJwr {f : Jwr → Jwr} (h : Fetches c d) : Fetches c (d.modJwr f) := h
theorem setLru {l : List SlotNo} (h : Fetches c d) : Fetches c (d.setLru l) := h
theorem setWaitList {l : List SlotWait} (h : Fetches c d) : Fetches c (d.setWaitList l) := h
theorem setSt {st : LineSt} (h : Fetches c d) : Fetches c (setSt x st d) := h
theorem setTone {t : Tone} (h : Fetches c d) : Fetches c (setTone x t d) := h
theorem setAttention {f : BitVec 5} (h : Fetches c d) : Fetches c (setAttention f d) := h
theorem offerFault {k : FaultKind} {o : Option LineNo} {n : Nat} (h : Fetches c d) : Fetches c (offerFault k o n d) := h
theorem emit {o : Option LineNo} {b : Body} (h : Fetches c d) : Fetches c (emit o b d) := h.mpt (emit_mpt ..)

theorem raiseFault {k : FaultKind} {o : Option LineNo} {n : Nat} (h : Fetches c d) : Fetches c (raiseFault k o n d) :=
  h.mpt (raiseFault_mpt ..)

theorem modCtx {f : Ctx → Ctx} (h : Fetches c d) : Fetches c (modCtx x f d) := by
  unfold Machine.modCtx
  split
  · exact h.modSlot
  · exact h

/-! ### Entries to states -/

theorem enterIdle (h : Fetches c d) : Fetches c (enterIdle x d) := h.mpt (by rw [enterIdle_eq]; rfl)

theorem enterGuard {ms : Nat} (h : Fetches c d) : Fetches c (enterGuard x ms d) := by
  unfold Machine.enterGuard
  split
  · exact h.enterIdle
  · exact h

theorem enterReleaseGuard (h : Fetches c d) : Fetches c (enterReleaseGuard x d) := h.enterGuard

theorem enterParked {r : Option ParkReason} (h : Fetches c d) : Fetches c (enterParked x r d) := by
  cases r with
  | none => exact enterParked_none x d ▸ h.modLine
  | some r => exact enterParked_some x r d ▸ (enterParked_none x d ▸ h.modLine).emit

theorem enterTalk {b : Bool} (h : Fetches c d) : Fetches c (enterTalk x b d) := h

/-! ### Ringing and the generator -/

theorem dropAlloc {a : Alloc} (h : Fetches c d) : Fetches c (dropAlloc x a d) := (modCtx h.modRsc).modLine.modLine

theorem shedLine {why : ShedReason} (h : Fetches c d) : Fetches c (shedLine why x d) := by
  unfold Machine.shedLine
  split
  · exact h.modRsc
  · exact emit (setSt (modCtx (modRsc h.dropAlloc)))

theorem setGen {st : GenSt} {w : GenCause} {n : Nat} (h : Fetches c d) : Fetches c (setGen st w n d) := by
  unfold Machine.setGen
  split
  · exact setAttention (emit h.modGen)
  · exact emit h.modGen

theorem tripGen (h : Fetches c d) : Fetches c (tripGen d) := by
  unfold Machine.tripGen
  refine foldl (fun h => h.shedLine) _ ?_
  split
  · exact raiseFault (setGen h)
  · exact raiseFault (setGen h)

theorem startRequest (h : Fetches c d) : Fetches c (startRequest d) := by
  unfold Machine.startRequest
  split
  · dsimp only
    split
    · exact tripGen (setGen h.modGen)
    · exact setGen h.modGen
  · exact h

theorem tryAdmit {q : RingWait} (h : Fetches c d) (he : tryAdmit q d = some e) : Fetches c e := by
  unfold Machine.tryAdmit at he
  split at he
  · split at he
    · obtain ⟨k, -, rfl⟩ := Option.map_eq_some_iff.1 he
      exact emit (setSt (modLine (modRsc h.modCtx)))
    · cases he
  · cases he

theorem walkFrom (l : List RingWait) (h : Fetches c d) : Fetches c (walkFrom l d) := by
  induction l generalizing d with
  | nil => exact h
  | cons q l ih =>
    unfold Machine.walkFrom
    split
    · split
      · exact ih (h.tryAdmit ‹_›)
      · split
        · exact h
        · exact ih h
    · exact ih h

theorem walk (h : Fetches c d) : Fetches c (walk d) := by
  unfold Machine.walk
  split
  · exact h.walkFrom _
  · split
    · exact h.startRequest
    · exact h
  all_goals exact h

theorem removeAlloc (h : Fetches c d) : Fetches c (removeAlloc x d) := by
  unfold Machine.removeAlloc
  split
  · exact h.dropAlloc.walk
  · exact h

/-! ### Slots -/

theorem dropFetching (h : Fetches c d) : Fetches c (dropFetching x i d) := by
  unfold Machine.dropFetching
  dsimp only
  split
  · exact h
  · exact dropRequest h

theorem dropSlot (h : Fetches c d) : Fetches c (dropSlot x d).1 := by
  unfold Machine.dropSlot
  split
  · split
    · exact h.mpt (dropValid_mpt ..)
    · exact h.dropFetching
  · exact h

theorem bindSlot (h : Fetches c d) : Fetches c (bindSlot i x d) := by
  unfold Machine.bindSlot
  dsimp only
  split
  · exact requestFetch h
  · exact h
  · exact h

theorem markFailed (h : Fetches c d) : Fetches c (markFailed x d) := by
  unfold Machine.markFailed
  split
  · exact h
  · exact h

theorem acceptRing {copy : Vector Word 8} (h : Fetches c d) : Fetches c (acceptRing x copy d) := walk h.modRsc

theorem refuseRing {why : RingFail} {p : Nat} (h : Fetches c d) : Fetches c (refuseRing x why p d).1 := by
  have hmark : Fetches c (if why = .record then Machine.markFailed x d else d) := by
    split
    · exact h.markFailed
    · exact h
  exact enterIdle (dropSlot (modRsc hmark.raiseFault.emit))

theorem acceptRecall {copy : Vector Word 8} (h : Fetches c d) : Fetches c (acceptRecall x copy d) :=
  h.mpt (by rw [acceptRecall_eq]; rfl)

theorem takeRecord (h : Fetches c d) : Fetches c (takeRecord x d).1 := by
  unfold Machine.takeRecord
  split
  · exact h
  · dsimp only
    split
    · split
      · exact emit h
      · exact enterParked (dropSlot h.markFailed.raiseFault)
    · split
      · exact h
      · split
        · exact h.refuseRing
        · split
          · exact h.refuseRing
          · exact h.acceptRing
    · split
      · exact h.acceptRecall
      · exact dropSlot h.markFailed.raiseFault
    · exact h

theorem takeGrant (h : Fetches c d) : Fetches c (takeGrant i x d).1 := by
  unfold Machine.takeGrant
  dsimp only
  split
  · exact h
  · exact takeRecord h.modRsc

theorem settleFreed (n : Nat) (h : Fetches c d) : Fetches c (settleFreed n i d) := by
  induction n generalizing i d with
  | zero => exact h
  | succ n ih =>
    unfold Machine.settleFreed
    split
    · exact h
    · split
      · dsimp only
        split
        · exact ih (takeGrant (bindSlot h.setWaitList))
        · exact takeGrant (bindSlot h.setWaitList)
      · exact h

theorem grantFreed {r : Chip × Option SlotNo} (h : Fetches c r.1) : Fetches c (grantFreed r) := by
  unfold Machine.grantFreed
  split
  · exact h.settleFreed _
  · exact h

theorem releaseSlot (h : Fetches c d) : Fetches c (releaseSlot x d) := grantFreed h.dropSlot

theorem requestSlot {p : Purpose} {k : LineClass} (h : Fetches c d) : Fetches c (requestSlot x p k d) := by
  unfold Machine.requestSlot
  dsimp only
  split
  · exact h
  · split
    · exact grantFreed (takeGrant (bindSlot h.modLine))
    · exact h

theorem seize (h : Fetches c d) : Fetches c (seize x d) := by
  have hrecord : Fetches c (if d.shc.run = .starting then d else Machine.emit (some x) .seize d) := by
    split
    · exact h
    · exact h.emit
  exact requestSlot (modLine (setTone (setSt hrecord)))

/-! ### Digits -/

theorem writeDigits {ds : List Digit} {f : Option EndFlag} (h : Fetches c d) : Fetches c (writeDigits x ds f d).1 := by
  unfold Machine.writeDigits
  split
  · exact h
  · split
    · exact h
    · exact modCtx h.modJwr

theorem flushRecords (f : EndFlag) (b n : Nat) (ds : List Digit) (h : Fetches c d) :
    Fetches c (flushRecords x f b n ds d).1 := by
  induction n generalizing ds d with
  | zero => exact h
  | succ n ih =>
    unfold Machine.flushRecords
    split
    · dsimp only
      split
      · exact ih _ h.writeDigits
      · exact h.writeDigits
    · exact h.writeDigits

theorem flushUpTo {f : EndFlag} {n : Nat} (h : Fetches c d) : Fetches c (flushUpTo x f n d) := by
  unfold Machine.flushUpTo
  split
  · exact h
  · next k _ =>
    have hrecords := h.flushRecords (x := x) f (d.blockSize x) (Config.bufferLimit + 1) (k.buffer.take n)
    dsimp only
    split
    · next he => exact modCtx (by rw [he] at hrecords; exact hrecords)
    · next he => exact modCtx (by rw [he] at hrecords; exact hrecords)

theorem terminalFlush {f : EndFlag} (h : Fetches c d) : Fetches c (terminalFlush x f d) := h.flushUpTo

theorem completeDigit (h : Fetches c d) : Fetches c (completeDigit x d) := by
  have hdue {e : Chip} (h : Fetches c e) : Fetches c (writeDueBlock x e) := by
    unfold writeDueBlock
    split
    · exact h
    · split
      · dsimp only
        split
        · exact modCtx h.writeDigits
        · exact h.writeDigits
      · exact h
  unfold Machine.completeDigit
  split
  · exact h
  · dsimp only
    split
    · split
      · exact setTone (setSt (terminalFlush (modLine h.modCtx)))
      · exact terminalFlush (modLine h.modCtx)
    · exact modLine (hdue h.modCtx)

theorem writeHeldBlocks (n : Nat) (h : Fetches c d) : Fetches c (writeHeldBlocks x n d) := by
  induction n generalizing d with
  | zero => exact h
  | succ n ih =>
    unfold Machine.writeHeldBlocks
    split
    · exact h
    · dsimp only
      split
      · split
        · exact ih (modCtx h.writeDigits)
        · exact h.writeDigits
      · exact h

theorem resumeDigits (h : Fetches c d) : Fetches c (resumeDigits x d) := by
  unfold Machine.resumeDigits
  split
  · exact h
  · next k _ =>
    have hmarked : Fetches c (match k.mark with | some (f, pos) => Machine.flushUpTo x f pos d | none => d) := by
      split
      · exact h.flushUpTo
      · exact h
    dsimp only
    split
    · split
      · exact hmarked.writeHeldBlocks _
      · exact hmarked
    · exact hmarked

theorem resume (h : Fetches c d) : Fetches c (resume d) := by
  refine foldl (fun {e y} h => ?_) _ h.modJwr
  split
  · exact h.resumeDigits
  · exact h

/-! ### The samples of a line -/

theorem answer {m : AnswerMeans} (h : Fetches c d) : Fetches c (answer x m d) := enterTalk (releaseSlot h.emit.removeAlloc)

theorem earlyAnswer (h : Fetches c d) : Fetches c (earlyAnswer x d) := enterTalk (releaseSlot (modRsc h.emit))

theorem armDigit (h : Fetches c d) : Fetches c (armDigit x d) := h

theorem countPulse (h : Fetches c d) : Fetches c (countPulse x d) := armDigit h.modCtx

theorem hit (h : Fetches c d) : Fetches c (hit x d) := by
  unfold Machine.hit
  split
  · exact h
  · exact h

theorem recallPulse (h : Fetches c d) : Fetches c (recallPulse x d) := by
  refine countPulse ?_
  split
  · exact h
  · exact h

theorem emptyBuffer (h : Fetches c d) : Fetches c (emptyBuffer x d) := h.modCtx

theorem dialRestart (h : Fetches c d) : Fetches c (dialRestart x d) := modLine (setTone (setSt (emit (modLine h.emptyBuffer))))

theorem secondFlash (h : Fetches c d) : Fetches c (secondFlash x d) := by
  unfold Machine.secondFlash
  split
  · exact modLine (setTone (emit h.modCtx))
  · dsimp only
    split
    · exact h.emit
    · exact requestSlot h.emit

theorem judgeBreak {n : Nat} (h : Fetches c d) : Fetches c (judgeBreak x n d) := by
  unfold Machine.judgeBreak
  dsimp only
  split
  · split
    · exact countPulse (modLine (setTone h.setSt))
    · exact h.hit
  · split
    · exact h.countPulse
    · exact h.hit
  · exact h.dialRestart
  · exact h.emit
  · exact requestSlot (setSt h.emit)
  · split
    · exact h.recallPulse
    · exact h.hit
  · exact h.secondFlash
  · exact h.hit

theorem offHook {n : Nat} (h : Fetches c d) : Fetches c (offHook x n d) := by
  unfold Machine.offHook
  cases (d.line x).st with
  | idle => exact h.seize
  | ringWait => exact h.earlyAnswer
  | ringing => exact h.answer
  | unequipped | blocked | releaseGuard => exact h
  | _ => exact h.judgeBreak

theorem onHook (h : Fetches c d) : Fetches c (onHook x d) := by
  unfold Machine.onHook
  split
  · exact h
  · exact h

theorem abandon (h : Fetches c d) : Fetches c (abandon x d) := by
  unfold Machine.abandon
  dsimp only
  refine enterReleaseGuard (releaseSlot ?_)
  split
  · exact h.setTone
  · exact emit h.setTone

theorem subscriberClear (h : Fetches c d) : Fetches c (subscriberClear x d) :=
  enterReleaseGuard (releaseSlot (emit h.setTone))

theorem clearExpired (h : Fetches c d) : Fetches c (clearExpired x d) := by
  unfold Machine.clearExpired
  cases (d.line x).st with
  | seizeWait | dialTone | dialling | routing => exact h.abandon
  | parked => exact h.enterReleaseGuard
  | unequipped | idle | blocked | ringWait | ringing | releaseGuard => exact h
  | _ => exact h.subscriberClear

theorem digitExpired (h : Fetches c d) : Fetches c (digitExpired x d) := by
  unfold Machine.digitExpired
  split
  · exact h.completeDigit
  · exact h

theorem deliverExpiry (h : Fetches c d) : Fetches c (deliverExpiry x d) := by
  unfold Machine.deliverExpiry
  dsimp only
  split
  · split
    · exact clearExpired h.modLine
    · exact digitExpired h.modLine
    · exact h.modLine
  · exact h

theorem tripSense {trip : Bool} (h : Fetches c d) : Fetches c (tripSense x trip d) := by
  have hconfirm : Fetches c (confirmTrip x d) := by
    unfold confirmTrip
    dsimp only
    split
    · exact answer h.modLine
    · exact h
  have hdiscard : Fetches c (discardTrip x d) := by
    unfold discardTrip
    dsimp only
    split
    · exact raiseFault (modCtx h.modLine)
    · exact modCtx h.modLine
  unfold Machine.tripSense
  dsimp only
  split
  · split
    · exact hconfirm
    · exact h
  · split
    · exact hdiscard
    · exact h

theorem loopSense {loop : Bool} (h : Fetches c d) : Fetches c (loopSense x loop d) := by
  have hturn (k : Hook) : Fetches c (recognise x k d) := by
    unfold recognise
    cases k with
    | off => exact offHook h.modLine
    | on => exact onHook h.modLine
  unfold Machine.loopSense
  dsimp only
  split
  · exact h
  · split
    · exact hturn _
    · exact h

theorem firstSense {loop : Bool} (h : Fetches c d) : Fetches c (firstSense x loop d) := by
  have hfound (k : Hook) : Fetches c (firstState x k d) := by
    unfold firstState
    dsimp only
    split
    · cases k with
      | on => exact enterIdle h.modLine
      | off => exact enterParked h.modLine
    · exact h
  unfold Machine.firstSense
  dsimp only
  split
  · exact hfound _
  · exact h

theorem sample {loop trip : Bool} (h : Fetches c d) : Fetches c (sample x loop trip d) := by
  have hsense {e : Chip} (h : Fetches c e) : Fetches c (senseLine x loop trip e) := by
    unfold senseLine
    dsimp only
    split
    · exact h
    · split
      · exact h.tripSense
      · split
        · exact h
        · exact h.loopSense
  unfold Machine.sample
  split
  · exact h
  · exact h.firstSense
  · exact hsense (deliverExpiry h.modLine)

/-! ### The step boundary -/

theorem ringExpired (h : Fetches c d) : Fetches c (ringExpired x d) := by
  unfold Machine.ringExpired
  split
  · exact h
  · exact enterGuard (releaseSlot h.emit.removeAlloc)

theorem shedOver (n : Nat) (h : Fetches c d) : Fetches c (shedOver n d) := by
  induction n generalizing d with
  | zero => exact h
  | succ n ih =>
    unfold Machine.shedOver
    split
    · split
      · exact ih h.shedLine
      · exact h
    · exact h

theorem boundaryLine (h : Fetches c d) : Fetches c (boundaryLine x d) := by
  unfold Machine.boundaryLine
  split
  · dsimp only
    split
    · split
      · split
        · exact ringExpired h.modCtx
        · exact modLine h.modCtx
      · exact h.modLine
    · split
      · exact modLine h.modCtx
      · exact h
  · exact h

theorem beginStep (h : Fetches c d) : Fetches c (beginStep d).1 := by
  unfold Machine.beginStep
  dsimp only
  split
  · exact walk (modRsc (shedOver _ h))
  · exact h

theorem boundary (h : Fetches c d) : Fetches c (boundary d) := foldl (fun h => h.boundaryLine) _ h.beginStep

/-! ### The expiries -/

theorem dropPulses (h : Fetches c d) : Fetches c (dropPulses x d) := h.modCtx

theorem dialToneExpired (h : Fetches c d) : Fetches c (dialToneExpired x d) := enterParked (releaseSlot h.setTone)

theorem dropDigit (h : Fetches c d) : Fetches c (dropDigit x d) := by
  unfold Machine.dropDigit
  split
  all_goals exact h

theorem diallingExpired (h : Fetches c d) : Fetches c (diallingExpired x d) :=
  setTone (setSt (terminalFlush (dropDigit (modLine h.dropPulses))))

theorem recallExpired (h : Fetches c d) : Fetches c (recallExpired x d) := by
  have hflush : Fetches c (Machine.terminalFlush x .timeout (Machine.dropDigit x (stopDialling x (Machine.dropPulses x d)))) :=
    terminalFlush (dropDigit (modLine h.dropPulses))
  unfold Machine.recallExpired
  dsimp only
  split
  · exact hflush.setTone
  · exact hflush

theorem guardEnds (h : Fetches c d) : Fetches c (guardEnds x d) := by
  unfold Machine.guardEnds
  dsimp only
  split
  · exact h
  · split
    · exact h.enterIdle
    · exact h.seize

theorem waitExpired {q : RingWait} (h : Fetches c d) : Fetches c (waitExpired x q d) := enterIdle (releaseSlot (modRsc h.emit))

theorem notBeforeOver (h : Fetches c d) : Fetches c (notBeforeOver x d) := walk h.modRsc

theorem genStarted (h : Fetches c d) : Fetches c (genStarted d) := walk (setGen h.modGen)

theorem genRests (h : Fetches c d) : Fetches c (genRests d) := setGen h.modGen

theorem holdOver (h : Fetches c d) : Fetches c (holdOver d) := by
  have hoff : Fetches c (Machine.setGen .off .holdEnd 0 (d.modGen fun g => { g with holdTimer := none })) := setGen h.modGen
  unfold Machine.holdOver
  dsimp only
  split
  · exact hoff.startRequest
  · exact hoff

/-! ### The orders -/

theorem orderRing {party cycles : Nat} {plan : Option PlanNo} {priority : Bool} (h : Fetches c d) :
    Fetches c (orderRing x party plan cycles priority d).1 := by
  have hstart (cls : LineClass) (notBefore : Option Nat) : Fetches c (startRing x party plan cycles cls notBefore d) :=
    requestSlot (setSt h.modRsc)
  unfold Machine.orderRing
  dsimp only
  split
  case h_1 => exact hstart _ _
  case h_2 =>
    split
    · exact h
    · split
      · exact h
      · exact hstart _ _
  all_goals exact h

theorem orderStopRing (h : Fetches c d) : Fetches c (orderStopRing x d).1 := by
  unfold Machine.orderStopRing
  split
  · exact enterGuard (releaseSlot h.removeAlloc)
  · exact enterIdle (releaseSlot h.modRsc)
  all_goals exact h

theorem orderDigitSeen (h : Fetches c d) : Fetches c (orderDigitSeen x d).1 := by
  unfold Machine.orderDigitSeen
  split
  · exact h
  · split
    · exact modLine (setTone h.setSt)
    · exact h

theorem orderEnddial (h : Fetches c d) : Fetches c (orderEnddial x d).1 := by
  unfold Machine.orderEnddial
  split
  case h_3 => exact h
  all_goals exact setTone (setSt (terminalFlush (modLine h.dropPulses)))

theorem orderConnect (h : Fetches c d) : Fetches c (orderConnect x d).1 := by
  have hend {e : Chip} (h : Fetches c e) : Fetches c (Machine.enterTalk x false (Machine.releaseSlot x (Machine.setTone x .none e))) :=
    enterTalk (releaseSlot h.setTone)
  unfold Machine.orderConnect
  split
  · refine hend ?_
    split
    · exact h.terminalFlush
    · exact h
  · refine hend ?_
    split
    · exact terminalFlush (modLine h.dropPulses)
    · exact h
  · exact h

theorem orderTone {t : Tone} (h : Fetches c d) : Fetches c (orderTone x t d).1 := by
  unfold Machine.orderTone
  split
  all_goals exact h

theorem orderClear (h : Fetches c d) : Fetches c (orderClear x d).1 := by
  have hreleased : Fetches c (Machine.releaseSlot x (Machine.setTone x .none d)) := releaseSlot h.setTone
  unfold Machine.orderClear
  cases (d.line x).st with
  | seizeWait => exact hreleased.enterParked
  | idle | releaseGuard | parked | blocked | ringWait | ringing | unequipped => exact h
  | _ =>
    dsimp only
    split
    · exact hreleased.enterReleaseGuard
    · exact hreleased.enterParked

theorem orderBlock (h : Fetches c d) : Fetches c (orderBlock x d).1 := by
  unfold Machine.orderBlock
  split
  all_goals exact h

theorem orderUnblock (h : Fetches c d) : Fetches c (orderUnblock x d).1 := by
  unfold Machine.orderUnblock
  dsimp only
  split
  · split
    · exact h
    · split
      · exact h.enterIdle
      · exact h.enterParked
  all_goals exact h

theorem orderLockSlot (h : Fetches c d) : Fetches c (orderLockSlot x d).1 := by
  unfold Machine.orderLockSlot
  split
  · exact h
  · split
    · exact h
    · split
      · exact h
      · split
        all_goals exact h

theorem orderUnlockSlot (h : Fetches c d) : Fetches c (orderUnlockSlot x d).1 := by
  unfold Machine.orderUnlockSlot
  split
  · exact grantFreed (r := (_, some _)) h
  · exact h

theorem orderFreeLocks (h : Fetches c d) : Fetches c (orderFreeLocks d).1 :=
  foldl (fun h => grantFreed (r := (_, some _)) h) _ h

theorem orderGenReset (h : Fetches c d) : Fetches c (orderGenReset d).1 := by
  unfold Machine.orderGenReset
  split
  · dsimp only
    split
    · exact startRequest (setGen h)
    · exact setGen h
  · exact h

/-! ### Records and core fields -/

theorem coreEffect {w : Word} (h : Fetches c d) : Fetches c (coreEffect x w d) := by
  unfold Machine.coreEffect
  dsimp only
  split
  · split
    · exact h
    · exact h
  · exact h
  · split
    · exact h
    · exact h
  · exact h

theorem readFetchWord {k : Fin 8} {m : Memory} (h : Fetches c d) : Fetches c (readFetchWord i x k m d) := dropRequest h.modSlot

theorem fetchDone (h : Fetches c d) : Fetches c (fetchDone i d) := by
  unfold Machine.fetchDone
  split
  · exact grantFreed (takeRecord h.modSlot)
  · unfold abandonedFetch
    refine grantFreed (r := (_, some i)) ?_
    dsimp only
    split
    · exact h
    · exact h

theorem failFetch (h : Fetches c d) : Fetches c (failFetch i d) := by
  have hempty : Fetches c (Machine.dropRequest (.fetch i) (toLru i (d.modSlot i Slot.emptied))) := dropRequest h
  unfold Machine.failFetch
  dsimp only
  split
  · exact requestSlot hempty
  · exact grantFreed (r := (_, some i)) hempty

/-! ### Restarts -/

theorem warmLine (h : Fetches c d) : Fetches c (warmLine x d) := by
  unfold Machine.warmLine
  dsimp only
  cases (d.line x).st with
  | ringWait | ringing => exact h.enterGuard
  | unequipped | idle | blocked | talk | parked | releaseGuard => exact h
  | _ =>
    dsimp only
    split
    · exact h.enterReleaseGuard
    · exact h

theorem runLine (h : Fetches c d) : Fetches c (runLine x d) := by
  unfold Machine.runLine
  dsimp only
  split
  · exact h
  · split
    · exact h
    · exact h

theorem seizeAtRun (h : Fetches c d) : Fetches c (seizeAtRun x d) := by
  unfold Machine.seizeAtRun
  split
  · exact modLine h.emit
  · exact h

theorem askAtRun (h : Fetches c d) : Fetches c (askAtRun x d) := by
  unfold Machine.askAtRun
  dsimp only
  split
  · exact requestSlot h.modLine
  · exact h

theorem planFaults (ps : List PlanNo) (h : Fetches c d) : Fetches c (planFaults ps d) := modJwr (foldl (fun h => h.offerFault) ps h)

end Chip.Fetches

end Sys2Proof.Machine
end


section
/-! SUPPORT. Where the Memory Port may go (00 §0.5, 10 R160, 11 R167 step 2), said of a chip whose access in progress is not yet
settled; and that an access served lies in the RAM. -/

namespace Sys2Proof.Machine

/-- Every request of class 2 is one that the part makes (10 R160). -/
def Chip.Requested (c : Chip) : Prop := ∀ a ∈ c.mpt.reqs, accessRequested a = true

/-- What `Placed` says but for the access in progress, which is settled at the end of a command. -/
structure Chip.Sited (c : Chip) : Prop where
  areas : c.shc.run = .running ∨ c.shc.run = .starting ∧ c.shc.start ≠ .header → AreasFit c ∧ c.jwr.index < c.shc.hdr.pages
  first : c.shc.run = .starting → c.shc.start = .header → c.jwr.index = 0
  reqs : c.Requested

/-- The run state, the step of the start procedure, the areas and the page index are the same. -/
structure Chip.SameSite (c d : Chip) : Prop where
  run : d.shc.run = c.shc.run
  start : d.shc.start = c.shc.start
  areaBase : d.shc.areaBase = c.shc.areaBase
  hdr : d.shc.hdr = c.shc.hdr
  index : d.jwr.index = c.jwr.index

section
variable {c d e : Chip}

theorem Placed.sited (h : Placed c) : c.Sited := ⟨h.areas, h.first, h.reqs⟩

theorem Quiet.sameSite (q : Quiet c d) : c.SameSite d := ⟨q.shc.run, q.shc.start, q.shc.areaBase, q.shc.hdr, q.index⟩

theorem Chip.Fetches.requested (f : c.Fetches d) (h : c.Requested) : d.Requested := fun a ha => by
  obtain ha | ⟨i, rfl⟩ := Mpt.Fetches.reqs f a ha
  · exact h a ha
  · rfl

theorem Chip.Requested.filter (h : c.Requested) {p : Access → Bool} (hd : d.mpt.reqs = c.mpt.reqs.filter p) : d.Requested :=
  fun a ha => h a (List.mem_filter.1 (hd ▸ ha)).1

theorem Chip.Requested.addRequest {a : Access} (h : c.Requested) (ha : accessRequested a = true) : (addRequest a c).Requested :=
  fun b hb => (List.mem_append.1 hb).elim (h b) fun hb => List.mem_singleton.1 hb ▸ ha

theorem Chip.SameSite.areasFit (h : c.SameSite d) (hc : AreasFit c) : AreasFit d := by
  obtain ⟨-, -, hbase, hhdr, -⟩ := h
  unfold AreasFit Chip.base
  rw [hbase, hhdr]
  exact hc

/-- A command that leaves the site as it is. -/
theorem Chip.Sited.same (h : c.Sited) (hs : c.SameSite d) (hr : d.Requested) : d.Sited := by
  have hfit := hs.areasFit
  obtain ⟨hrun, hstart, hbase, hhdr, hindex⟩ := hs
  refine ⟨fun ha => ?_, fun h1 h2 => ?_, hr⟩
  · rw [hrun, hstart] at ha
    rw [hhdr, hindex]
    exact ⟨hfit (h.areas ha).1, (h.areas ha).2⟩
  · rw [hindex]
    exact h.first (hrun ▸ h1) (hstart ▸ h2)

/-- An operation of the lines, the slots, the ringing or the journal leaves the site as it is. -/
theorem Chip.Sited.quiet (h : c.Sited) (q : Quiet c d) (f : c.Fetches d) : d.Sited := h.same q.sameSite (f.requested h.reqs)

/-- A chip whose shelf neither runs nor starts has no site to keep. -/
theorem Chip.Sited.of_still (h1 : c.shc.run ≠ .running) (h2 : c.shc.run ≠ .starting) (hr : c.Requested) : c.Sited :=
  ⟨fun h => absurd h (by simp [h1, h2]), fun h => absurd h h2, hr⟩

/-- A start procedure begins with no header and at page 0. -/
theorem Chip.Sited.of_header (hrun : c.shc.run = .starting) (hstart : c.shc.start = .header) (hi : c.jwr.index = 0)
    (hr : c.Requested) : c.Sited :=
  ⟨fun h => absurd h (by simp [hrun, hstart]), fun _ _ => hi, hr⟩

/-- A header is in use. -/
theorem Chip.Sited.of_areas (ha : AreasFit c) (hi : c.jwr.index < c.shc.hdr.pages)
    (hn : c.shc.run = .starting → c.shc.start ≠ .header) (hr : c.Requested) : c.Sited :=
  ⟨fun _ => ⟨ha, hi⟩, fun h1 h2 => absurd h2 (hn h1), hr⟩

/-! ### The access in progress -/

/-- A read that is wanted is the start procedure's, or requested (10 R160). -/
theorem Chip.Requested.readWants (h : c.Requested) {a : Access} (ha : c.readWants = some a) :
    a = .start ∧ c.shc.run = .starting ∨ accessRequested a = true := by
  unfold Chip.readWants at ha
  split at ha
  · exact .inr (h a (List.mem_of_mem_head? ha))
  · exact .inl ⟨(Option.some.inj ha).symm, ‹_›⟩
  · exact .inl ⟨(Option.some.inj ha).symm, ‹_›⟩
  · exact .inl ⟨(Option.some.inj ha).symm, ‹_›⟩
  · split at ha
    · cases ha
    · cases ha
      exact .inr rfl
  · cases ha

/-- A read that is wanted wants itself. -/
theorem Chip.Requested.wants_of_readWants (h : c.Requested) {a : Access} (ha : c.readWants = some a) : c.wants a = true := by
  obtain ⟨rfl, -⟩ | hreq := h.readWants ha
  · simp [Chip.wants, ha]
  · cases a with
    | fetch i => simp [Chip.wants, ha]
    | core => simp [Chip.wants, ha]
    | reload => simp [Chip.wants, ha]
    | journal | start | order | mirror => cases hreq

/-- The access that the arbiter takes is one that is wanted (10 R160). -/
theorem Chip.Requested.wants_nextAccess (h : c.Requested) {a : Access} (ha : c.nextAccess = some a) : c.wants a = true := by
  unfold Chip.nextAccess at ha
  split at ha
  · cases ha
    assumption
  · split at ha
    · next b hb =>
      cases ha
      exact h.wants_of_readWants hb
    · split at ha
      · cases ha
        assumption
      · split at ha
        · cases ha
          assumption
        · cases ha

/-- What is wanted does not depend on what is in progress. -/
theorem wants_settle (c0 : Chip) (a : Access) : (settle c0 c).wants a = c.wants a := by
  rw [settle_eq]
  cases a <;> rfl

/-- A command that leaves a chip on its site leaves it placed, the access in progress settled (10 R160). -/
theorem Chip.Sited.placed (h : c.Sited) (c0 : Chip) : Placed (settle c0 c) := by
  have hsame : c.SameSite (settle c0 c) := by constructor <;> simp
  obtain ⟨hareas, hfirst, hreqs⟩ := h.same hsame fun a ha => h.reqs a (by simpa using ha)
  refine ⟨hareas, hfirst, hreqs, fun a ha => ?_⟩
  rw [wants_settle]
  rw [settle_busy] at ha
  split at ha
  · split at ha
    · cases ha
      assumption
    · exact h.reqs.wants_nextAccess ha
  · exact h.reqs.wants_nextAccess ha

/-- An access is wanted only on a shelf that runs, or starts and has its header, or is about to read it. -/
theorem run_of_wants {a : Access} (ha : c.wants a = true) :
    c.shc.run = .running ∨ c.shc.run = .starting ∧ (c.shc.start = .header → a = .start) := by
  have hread (b : Access) (hb : c.readWants = some b) :
      c.shc.run = .running ∨ c.shc.run = .starting ∧ (c.shc.start = .header → b = .start) := by
    unfold Chip.readWants at hb
    split at hb
    · exact .inl ‹_›
    · exact .inr ⟨‹_›, fun _ => (Option.some.inj hb).symm⟩
    · exact .inr ⟨‹_›, fun _ => (Option.some.inj hb).symm⟩
    · exact .inr ⟨‹_›, fun _ => (Option.some.inj hb).symm⟩
    · next hrun hstart => exact .inr ⟨hrun, fun e => by rw [hstart] at e; cases e⟩
    · cases hb
  cases a with
  | journal =>
    simp only [Chip.wants, Chip.journalWants, Chip.journalOpen, Bool.and_eq_true, Bool.or_eq_true, beq_iff_eq] at ha
    obtain ⟨hrun | ⟨hrun, hstart⟩, -⟩ := ha
    · exact .inl hrun
    · exact .inr ⟨hrun, fun e => by rw [e] at hstart; simp at hstart⟩
  | order =>
    simp only [Chip.wants, Chip.orderWants, Bool.and_eq_true, beq_iff_eq] at ha
    exact .inl ha.1
  | mirror =>
    simp only [Chip.wants, Chip.mirrorWants, Bool.and_eq_true, beq_iff_eq] at ha
    exact .inl ha.1
  | fetch i => exact hread _ (by simpa [Chip.wants] using ha)
  | core => exact hread _ (by simpa [Chip.wants] using ha)
  | reload => exact hread _ (by simpa [Chip.wants] using ha)
  | start => exact hread _ (by simpa [Chip.wants] using ha)

theorem Placed.wants (h : Placed c) {a : Access} (ha : c.serves a = true) : c.wants a = true := h.busy a (beq_iff_eq.1 ha)

/-- An access that is served, other than the read of the header, has its areas in the RAM. -/
theorem Placed.areas_of_serves (h : Placed c) {a : Access} (ha : c.serves a = true) (hn : a ≠ .start ∨ c.shc.start ≠ .header) :
    AreasFit c ∧ c.jwr.index < c.shc.hdr.pages := by
  refine h.areas ((run_of_wants (h.wants ha)).imp id fun ⟨hrun, hheader⟩ => ⟨hrun, fun e => ?_⟩)
  exact hn.elim (fun hne => hne (hheader e)) fun hne => hne e

/-- The start procedure's read is served while the shelf starts. -/
theorem Placed.starting_of_serves (h : Placed c) (ha : c.serves .start = true) : c.shc.run = .starting := by
  have hread : c.readWants = some .start := by simpa [Chip.wants] using h.wants ha
  obtain ⟨-, hrun⟩ | hreq := h.sited.reqs.readWants hread
  · exact hrun
  · cases hreq

/-! ### The areas -/

section
variable (h : AreasFit c)
include h

theorem AreasFit.timing : c.timingAddr 0 + 64 ≤ Config.ramWords := by
  have := h (c.base + c.shc.hdr.timing, 64) (by simp [headerAreas])
  simpa [Chip.timingAddr] using this

theorem AreasFit.plans : c.planAddr 0 + 80 ≤ Config.ramWords := by
  have := h (c.base + c.shc.hdr.plans, 80) (by simp [headerAreas])
  simpa [Chip.planAddr] using this

theorem AreasFit.plan (p : PlanNo) : c.planAddr p + 10 ≤ Config.ramWords := by
  have := h (c.base + c.shc.hdr.plans, 80) (by simp [headerAreas])
  simp only [Chip.planAddr] at this ⊢
  omega

theorem AreasFit.record (x : LineNo) : c.recordAddr x + 8 ≤ Config.ramWords := by
  have := h (c.base + c.shc.hdr.lines, 768) (by simp [headerAreas])
  simp only [Chip.recordAddr] at this ⊢
  omega

theorem AreasFit.status (x : LineNo) : c.statusAddr x + 1 ≤ Config.ramWords := by
  have := h (c.base + c.shc.hdr.status, 96) (by simp [headerAreas])
  simp only [Chip.statusAddr] at this ⊢
  omega

theorem AreasFit.cell (k : CellNo) : c.cellAddr k + 8 ≤ Config.ramWords := by
  have := h (c.base + c.shc.hdr.cells, 256) (by simp [headerAreas])
  simp only [Chip.cellAddr] at this ⊢
  omega

theorem AreasFit.page (hi : c.jwr.index < c.shc.hdr.pages) : c.pageAddr + 64 ≤ Config.ramWords := by
  have := h (c.base + c.shc.hdr.journal, 64 * c.shc.hdr.pages) (by simp [headerAreas])
  simp only [Chip.pageAddr] at this ⊢
  omega

end

end

end Sys2Proof.Machine
end


section
/-! SUPPORT. Records folded one after another (10 R157), and the write queue folded at a page stall or as the shelf becomes ISOLATED
(10 R156, R161). -/

namespace Sys2Proof.Machine

section
variable (j : Jwr) (x : LineNo)

theorem Jwr.fold_eq (r : Rec) :
    j.fold r =
      match r.line with
      | some x => { j with summaries := j.summaries.set x (summaryAfter j.summaries[x] r) }
      | none => { j with shelf := summaryAfter j.shelf r } := by
  simp only [summaryAfter_eq_add]
  rfl

/-- A fold changes the summaries alone. -/
theorem Jwr.fold_parts (r : Rec) : j.fold r = { j with summaries := (j.fold r).summaries, shelf := (j.fold r).shelf } := by
  rw [Jwr.fold_eq]
  split <;> rfl

theorem Jwr.fold_shelf (r : Rec) : (j.fold r).shelf = if r.line = none then summaryAfter j.shelf r else j.shelf := by
  rw [Jwr.fold_eq]
  split
  · next h => simp [h]
  · next h => simp [h]

theorem Jwr.fold_summaries (r : Rec) :
    (j.fold r).summaries[x] = if r.line = some x then summaryAfter j.summaries[x] r else j.summaries[x] := by
  rw [Jwr.fold_eq]
  split
  · next y h =>
    by_cases hx : y = x
    · simp [h, hx]
    · have hne : (y : ℕ) ≠ x := fun e => hx (Fin.ext e)
      simp [h, hx, Vector.getElem_set_ne _ _ hne]
  · next h => simp [h]

variable (rs : List Rec)

theorem Jwr.foldl_fold_parts :
    rs.foldl Jwr.fold j = { j with summaries := (rs.foldl Jwr.fold j).summaries, shelf := (rs.foldl Jwr.fold j).shelf } := by
  induction rs generalizing j with
  | nil => rfl
  | cons r rs ih =>
    rw [List.foldl_cons, ih, Jwr.fold_parts]

/-- The summary of a line takes in the records of the line, in their order. -/
theorem Jwr.foldl_fold_summaries :
    (rs.foldl Jwr.fold j).summaries[x] = (rs.filter (·.line == some x)).foldl summaryAfter j.summaries[x] := by
  induction rs generalizing j with
  | nil => rfl
  | cons r rs ih =>
    rw [List.foldl_cons, ih, Jwr.fold_summaries]
    by_cases h : r.line = some x
    · simp [h]
    · simp [h]

/-- The shelf summary takes in the records of the shelf, in their order. -/
theorem Jwr.foldl_fold_shelf : (rs.foldl Jwr.fold j).shelf = (rs.filter (·.line == none)).foldl summaryAfter j.shelf := by
  induction rs generalizing j with
  | nil => rfl
  | cons r rs ih =>
    rw [List.foldl_cons, ih, Jwr.fold_shelf]
    by_cases h : r.line = none
    · simp [h]
    · simp [h]

/-! ### The write queue folded (10 R156, log 15) -/

/-- DIGITS records by their kind number (10 Table 10-12). -/
theorem Body.isDigits_eq (b : Body) : b.isDigits = (b.kind == 3) := by cases b <;> rfl

/-- The records that are folded are all but DIGITS, HELD_SUMMARY and JOURNAL_RESUMED. -/
theorem Body.folded_eq (b : Body) : (!b.isDigits && !b.isResume) = !decide (b.kind ∈ [3, 16, 17]) := by cases b <;> rfl

/-- The records of a queue that a page stall folds into the summary of a line, or of the shelf. -/
def toldOf (q : List Rec) (line : Option LineNo) : List Rec := q.filter fun r => r.line == line && !(r.body.kind ∈ [3, 16, 17])

theorem Jwr.foldQueue_parts :
    j.foldQueue =
      { j with
        queue := j.queue.filter fun r => r.body.kind == 3
        summaries := j.foldQueue.summaries
        shelf := j.foldQueue.shelf } := by
  simp only [Jwr.foldQueue, Body.isDigits_eq]
  rw [Jwr.foldl_fold_parts]

theorem Jwr.foldQueue_summaries : j.foldQueue.summaries[x] = (toldOf j.queue (some x)).foldl summaryAfter j.summaries[x] := by
  simp only [Jwr.foldQueue, Jwr.foldl_fold_summaries, List.filter_filter, Body.folded_eq, toldOf]

theorem Jwr.foldQueue_shelf : j.foldQueue.shelf = (toldOf j.queue none).foldl summaryAfter j.shelf := by
  simp only [Jwr.foldQueue, Jwr.foldl_fold_shelf, List.filter_filter, Body.folded_eq, toldOf]

end

/-- A page stall begins: the STALL flag is set, and of the journal the stall, the retry count, the queue and the summaries change. -/
theorem beginPageStall_eq (c : Chip) :
    beginPageStall c =
      { c with
        jwr :=
          { c.jwr with
            stall := .page
            retry := 0
            queue := c.jwr.queue.filter fun r => r.body.kind == 3
            summaries := (beginPageStall c).jwr.summaries
            shelf := (beginPageStall c).jwr.shelf }
        shc := { c.shc with attention := c.shc.attention ||| attnStall } } := by
  have hparts := Jwr.foldQueue_parts { c.jwr with stall := .page }
  have hjwr : (beginPageStall c).jwr = { Jwr.foldQueue { c.jwr with stall := .page } with retry := 0 } := rfl
  rw [hjwr, hparts]
  refine (congrArg (fun j => { c with jwr := j, shc := { c.shc with attention := c.shc.attention ||| attnStall } }) hjwr).trans ?_
  rw [hparts]

end Sys2Proof.Machine
end


section
/-! SUPPORT. The commands over the site of the Memory Port (10 R160, 11 R167): what each changes of run state, start step, header,
page index and requests keeps it. -/

namespace Sys2Proof.Machine

section
variable {c d : Chip} {m : Memory}

/-- A part that is no matter of the site. -/
theorem Chip.SameSite.of_parts (hshc : d.shc = c.shc) (hi : d.jwr.index = c.jwr.index) : c.SameSite d :=
  ⟨by rw [hshc], by rw [hshc], by rw [hshc], by rw [hshc], hi⟩

theorem Chip.Sited.modJwr (h : c.Sited) {f : Jwr → Jwr} (hf : (f c.jwr).index = c.jwr.index) : (c.modJwr f).Sited :=
  h.same (.of_parts rfl hf) h.reqs

/-! ### The orders (10 R150) -/

theorem handOver_requested (h : c.Requested) (k : OrderKind) (o : OrderCopy) : (handOver k o c).Requested := by
  have f := Chip.Fetches.refl c
  unfold handOver
  cases k with
  | ring => exact f.orderRing.requested h
  | stopRing => exact f.orderStopRing.requested h
  | digitSeen => exact f.orderDigitSeen.requested h
  | enddial => exact f.orderEnddial.requested h
  | connect => exact f.orderConnect.requested h
  | tone => exact f.orderTone.requested h
  | clear => exact f.orderClear.requested h
  | block => exact f.orderBlock.requested h
  | unblock => exact f.orderUnblock.requested h
  | lockSlot => exact f.orderLockSlot.requested h
  | unlockSlot => exact f.orderUnlockSlot.requested h
  | freeLocks => exact f.orderFreeLocks.requested h
  | invalidate =>
    dsimp only
    split
    · exact Chip.Requested.addRequest (c := { invalidateSlots _ c with mpt := _, ord := _ }) h rfl
    · exact Chip.Requested.addRequest (c := { invalidateSlots _ c with mpt := _, ord := _ }) h rfl
  | reloadPlan =>
    dsimp only [orderReloadPlan]
    by_cases hp : c.planInUse (Fin.ofNat 8 o.a1.toNat) = true
    · rw [if_pos hp]
      exact h
    · rw [if_neg hp]
      exact Chip.Requested.addRequest (c := { c with ord := _ }) h rfl
  | setCapacity => exact h
  | powerMode => exact h
  | genReset => exact f.orderGenReset.requested h

theorem takeOrder_sited (h : c.Sited) (o : OrderCopy) : (takeOrder o c).Sited := by
  have hsite := (takeOrder_handsOver o c).quiet.sameSite
  refine h.same ⟨hsite.run, hsite.start, hsite.areaBase, hsite.hdr, hsite.index⟩ ?_
  unfold takeOrder
  dsimp only
  split
  · exact h.reqs
  · exact handOver_requested (c := copyOrder o c) h.reqs _ _

theorem resultWritten_sited (h : c.Sited) : (resultWritten c).Sited := by
  rw [resultWritten_eq]
  exact h.same (.of_parts rfl rfl) h.reqs

theorem reloadDone_sited (h : c.Sited) (p : PlanNo) (ws : List Word) : (reloadDone p ws c).Sited := by
  rw [reloadDone_parts]
  exact h.same (.of_parts rfl rfl) (h.reqs.filter rfl)

/-! ### The pages of the journal (10 R153 to R156) -/

theorem resume_sited (h : c.Sited) : (resume c).Sited := h.quiet (Quiet.refl c).resume (Chip.Fetches.refl c).resume

theorem Jwr.wrote_index (j : Jwr) (r : Rec) : (j.wrote r).index = j.index := by
  unfold Jwr.wrote Jwr.dropSummary
  split <;> rfl

theorem recordAccess_sited (h : c.Sited) (r : Rec) : (recordAccess r c m).1.Sited := by
  have hwrote : (c.modJwr (·.wrote r)).Sited := h.modJwr (c.jwr.wrote_index r)
  unfold recordAccess
  dsimp only
  split
  · dsimp only
    exact h.modJwr rfl
  · unfold endQueueStall
    dsimp only
    split
    · exact resume_sited hwrote
    · exact hwrote

/-- The page index goes round below the page count (10 R155). -/
theorem endClose_sited (h : c.Sited) (hh : AreasFit c ∧ c.jwr.index < c.shc.hdr.pages)
    (hn : c.shc.run = .starting → c.shc.start ≠ .header) : (endClose c m).1.Sited := by
  obtain ⟨ha, hi⟩ := hh
  refine .of_areas ha ?_ hn h.reqs
  change (if c.shc.hdr.pages ≤ c.jwr.index + 1 then 0 else c.jwr.index + 1) < c.shc.hdr.pages
  split <;> omega

theorem pageAccess_sited (h : c.Sited) (hh : AreasFit c ∧ c.jwr.index < c.shc.hdr.pages)
    (hn : c.shc.run = .starting → c.shc.start ≠ .header) : (pageAccess c m).1.Sited := by
  have hbegin : (beginClose c m).1.Sited := h.same (.of_parts rfl rfl) h.reqs
  have hhead (r : Rec) : (if c.jwr.fits r then recordAccess r c m else beginClose c m).1.Sited := by
    split
    · exact recordAccess_sited h r
    · exact hbegin
  unfold pageAccess
  split
  · exact endClose_sited h hh hn
  · exact hbegin
  · exact hhead _
  · exact hhead _
  · exact h
  · exact h

theorem beginPageStall_sited (h : c.Sited) : (beginPageStall c).Sited := by
  rw [beginPageStall_eq]
  exact h.same ⟨rfl, rfl, rfl, rfl, rfl⟩ h.reqs

theorem openAccess_sited (h : c.Sited) : (openAccess c m).1.Sited := by
  have hindex := h.same (d := (openPage c m).1) (.of_parts rfl rfl) h.reqs
  unfold openAccess
  split
  · split
    · exact h.same (d := foundEmpty c) (.of_parts rfl rfl) h.reqs
    · exact beginPageStall_sited h
  · exact h.same (d := (beginPage c m).1) (.of_parts rfl rfl) h.reqs
  · exact hindex

theorem retryAccess_sited (h : c.Sited) : (retryAccess c m).1.Sited := by
  unfold retryAccess
  split
  · split
    · exact h.same (d := foundEmpty c) (.of_parts rfl rfl) h.reqs
    · dsimp only
      exact h.modJwr rfl
  · exact h.same (d := (beginPage c m).1) (.of_parts rfl rfl) h.reqs
  · have hopened : (openPage c m).1.Sited := h.same (.of_parts rfl rfl) h.reqs
    dsimp only
    exact resume_sited hopened

/-- The start procedure goes on from one step with a header to another. -/
theorem Chip.Sited.next (h : c.Sited) (hc : c.shc.start ≠ .header) (hd : d.shc.start ≠ .header) (hrun : d.shc.run = c.shc.run)
    (hbase : d.shc.areaBase = c.shc.areaBase) (hhdr : d.shc.hdr = c.shc.hdr) (hindex : d.jwr.index = c.jwr.index)
    (hr : d.Requested) : d.Sited := by
  refine ⟨fun ha => ?_, fun _ e => absurd e hd, hr⟩
  have hsame : Chip.SameSite { c with shc := { c.shc with start := d.shc.start } } d := ⟨hrun, rfl, hbase, hhdr, hindex⟩
  obtain ⟨hfit, hi⟩ := h.areas (ha.imp (hrun ▸ ·) fun ⟨hs, _⟩ => ⟨hrun ▸ hs, hc⟩)
  rw [hhdr, hindex]
  exact ⟨hsame.areasFit hfit, hi⟩

theorem afterPage_sited (h : c.Sited) (hc : c.shc.start ≠ .header) : (afterPage c).Sited := by
  unfold afterPage
  dsimp only
  split
  · exact h.next (d := Chip.modRsc _ _) hc (by simp) rfl rfl rfl rfl h.reqs
  · exact h.next (d := beginReadings _) hc (by simp [beginReadings]) rfl rfl rfl rfl h.reqs

theorem firstAccess_sited (h : c.Sited) (hc : c.shc.start = .page) : (firstAccess c m).1.Sited := by
  have htaken : (takeStartRecs c).Sited := h.same (.of_parts rfl rfl) h.reqs
  have hnot : c.shc.start ≠ .header := by simp [hc]
  unfold firstAccess
  split
  · split
    · exact h.same (d := foundEmpty c) (.of_parts rfl rfl) h.reqs
    · exact afterPage_sited (beginPageStall_sited htaken) hnot
  · exact h.same (d := (beginPage c m).1) (.of_parts rfl rfl) h.reqs
  · exact afterPage_sited (htaken.same (d := (openPage _ m).1) (.of_parts rfl rfl) htaken.reqs) hnot

/-! ### Core fields (01 R3, 11 R167) -/

theorem nextCoreRead_sited (h : c.Sited) (hn : c.shc.run = .starting → c.shc.start ≠ .header) (rest : List LineNo) :
    (nextCoreRead rest c).Sited := by
  have hdropped : (dropRequest .core (c.modMpt fun m => { m with coreReads := rest })).Sited :=
    h.same (.of_parts rfl rfl) (h.reqs.filter rfl)
  unfold nextCoreRead
  dsimp only
  split
  · unfold coreReadsDone
    split
    · next hrun =>
      exact hdropped.next (d := (Chip.modShc _ _).modJwr _) (hn hrun) (by simp) rfl rfl rfl rfl hdropped.reqs
    · exact hdropped.same (.of_parts rfl rfl) hdropped.reqs
  · split
    · exact hdropped
    · exact hdropped.same (.of_parts rfl rfl) (hdropped.reqs.addRequest rfl)

/-! ### An access that fails (10 R161, 11 R168) -/

theorem failStart_sited (k : FaultKind) (c : Chip) : (failStart k c).Sited :=
  .of_still nofun nofun nofun

theorem isolate_sited (h : c.Requested) : (isolate c).Sited :=
  .of_still nofun nofun (h.filter rfl)

theorem afterTimeout_sited (h : c.Sited) (a : Access) : (afterTimeout a c).Sited := by
  unfold afterTimeout
  cases a with
  | fetch i => exact h.quiet ((Quiet.refl c).failFetch i) (Chip.Fetches.refl c).failFetch
  | mirror =>
    dsimp only
    split
    · exact h.same (.of_parts rfl rfl) h.reqs
    · exact h
  | journal | core | reload | start | order => exact h

/-! ### The start procedure (11 R167) -/

theorem headerDone_sited (h : c.Sited) (hrun : c.shc.run = .starting) (hstart : c.shc.start = .header) (ws : List Word) :
    (headerDone ws c).Sited := by
  unfold headerDone
  split
  · next hv =>
    simp only [headerValid, Bool.and_eq_true, List.all_eq_true, decide_eq_true_eq] at hv
    obtain ⟨⟨⟨-, hpages, -⟩, hareas⟩, -⟩ := hv
    refine .of_areas (c := takeHeader ws c) hareas ?_ (fun _ => nofun) h.reqs
    change c.jwr.index < (parseHeader ws).pages
    rw [h.first hrun hstart]
    omega
  · exact failStart_sited _ _

theorem takeTiming_sited (h : c.Sited) (hc : c.shc.start = .timing) (ws : List Word) : (takeTiming ws c).Sited :=
  h.next (by simp [hc]) nofun rfl rfl rfl rfl h.reqs

theorem takePlans_sited (h : c.Sited) (hc : c.shc.start = .plans) (ws : List Word) : (takePlans ws c).Sited := by
  have hkept : (keepPlansBelow 8 (planOf c.shc.hdr.n ws) c).Sited := h.same (.of_parts rfl rfl) h.reqs
  have hfaults := hkept.quiet ((Quiet.refl _).planFaults (badPlans 8 (planOf c.shc.hdr.n ws))) ((Chip.Fetches.refl _).planFaults _)
  have hstart : (planFaults (badPlans 8 (planOf c.shc.hdr.n ws)) (keepPlansBelow 8 (planOf c.shc.hdr.n ws) c)).shc.start ≠ .header := by
    rw [((Quiet.refl _).planFaults _).shc.start]
    change c.shc.start ≠ .header
    simp [hc]
  exact hfaults.next (d := takePlans ws c) hstart nofun rfl rfl rfl rfl hfaults.reqs

theorem beginRunning_sited (h : c.Sited) (hrun : c.shc.run = .starting) (hstart : c.shc.start = .readings) :
    (beginRunning c).Sited := by
  obtain ⟨hfit, hi⟩ := h.areas (.inr ⟨hrun, by simp [hstart]⟩)
  exact .of_areas hfit hi nofun h.reqs

theorem shelfRuns_sited (h : c.Sited) (hrun : c.shc.run = .starting) (hstart : c.shc.start = .readings) : (shelfRuns c).Sited := by
  have hq : Quiet c (allLines.foldl (fun c x => runLine x c) c) := Quiet.allLines runLine (fun x e => (Quiet.refl e).runLine x) (Quiet.refl c)
  have hlines := h.quiet hq (Chip.Fetches.foldl (fun h => h.runLine) _ (.refl c))
  have hbegun := beginRunning_sited hlines (hq.shc.run.trans hrun) (hq.shc.start.trans hstart)
  unfold shelfRuns
  refine hbegun.quiet ?_ ?_
  · exact Quiet.allLines askAtRun (fun x e => (Quiet.refl e).askAtRun x)
      (Quiet.allLines seizeAtRun (fun x e => (Quiet.refl e).seizeAtRun x) ((Quiet.refl _).emit _ _))
  · exact Chip.Fetches.foldl (fun h => h.askAtRun) _ (Chip.Fetches.foldl (fun h => h.seizeAtRun) _ (Chip.Fetches.refl _).emit)

/-! ### Restarts (11 R169, R170) -/

theorem startProcedure_sited (h : c.Requested) : (startProcedure c).Sited := .of_header rfl rfl rfl h

theorem stopAll_sited (c : Chip) : (stopAll c).Sited := .of_still nofun nofun nofun

theorem startCommand_sited (h : c.Sited) : (startCommand c).Sited := by
  unfold startCommand
  split
  · exact startProcedure_sited h.reqs
  all_goals exact h

theorem stopCommand_sited (h : c.Sited) : (stopCommand c).Sited := by
  unfold stopCommand
  split
  · exact h
  all_goals exact stopAll_sited c

theorem coldRestartCommand_sited (h : c.Sited) : (coldRestartCommand c).Sited := by
  unfold coldRestartCommand
  split
  · exact startProcedure_sited h.reqs
  · exact startProcedure_sited (stopAll_sited c).reqs
  · exact startProcedure_sited (stopAll_sited c).reqs
  · exact startProcedure_sited (stopAll_sited c).reqs
  · exact h

theorem warmRestartCommand_sited (h : c.Sited) : (warmRestartCommand c).Sited := by
  have hwarm : (warmRestart c).Sited := by
    unfold warmRestart
    refine Chip.Sited.quiet ?_ (Quiet.allLines warmLine (fun x e => (Quiet.refl e).warmLine x) (Quiet.refl _))
      (Chip.Fetches.foldl (fun h => h.warmLine) _ (.refl _))
    exact .of_header rfl rfl rfl nofun
  unfold warmRestartCommand
  split
  · exact hwarm
  · exact hwarm
  all_goals exact h

/-! ### The step boundary (05 R82, R87) -/

theorem boundary_sited (h : c.Sited) : (boundary c).Sited := by
  have hbegin : c.SameSite (beginStep c).1 := by
    unfold beginStep
    dsimp only
    split
    · have hq : Quiet (applyBudget (activatePlans (c.modCtb fun t => { t with step := c.nextStep, periods := 0 }))) (wrapWork _).1 :=
        ((Quiet.shedOver _ (Quiet.refl _)).modRsc _).walk
      exact ⟨hq.shc.run, hq.shc.start, hq.shc.areaBase, hq.shc.hdr, hq.index⟩
    · exact .of_parts rfl rfl
  have hlines := (Quiet.boundaryLines (allLines.filter (· ∈ (beginStep c).2)) (Quiet.refl (beginStep c).1)).sameSite
  refine h.same ⟨?_, ?_, ?_, ?_, ?_⟩ ((Chip.Fetches.refl c).boundary.requested h.reqs)
  · exact hlines.run.trans hbegin.run
  · exact hlines.start.trans hbegin.start
  · exact hlines.areaBase.trans hbegin.areaBase
  · exact hlines.hdr.trans hbegin.hdr
  · exact hlines.index.trans hbegin.index

end

end Sys2Proof.Machine
end


section
/-! SUPPORT. From a placed Memory Port every outcome goes on and is placed (00 §0.5, 10 R160). -/

namespace Sys2Proof.Machine

/-! ### Outcomes -/

/-- The machine goes on, with the Memory Port placed. -/
def GoesOn (o : Out) : Prop := ∃ t, o = .next t ∧ Placed t.chip

section
variable {s : State} {d : Chip}

theorem finish_goesOn (h : d.Sited) : GoesOn (finish s d) := ⟨_, rfl, h.placed s.chip⟩

theorem finishRam_goesOn {r : Chip × Memory} (h : r.1.Sited) : GoesOn (finishRam s r) := ⟨_, rfl, h.placed s.chip⟩

theorem stay_goesOn (h : Placed s.chip) : GoesOn (stay s) := ⟨s, rfl, h⟩

theorem inRam_goesOn {a n : Nat} {o : Out} (ha : a + n ≤ Config.ramWords) (h : GoesOn o) : GoesOn (inRam a n o) := by
  rw [inRam_of_le ha]
  exact h

/-- A command that is taken only when its occurrence is due (log 1). -/
theorem due_goesOn (h : Placed s.chip) {p : Prop} [Decidable p] {o : Out} (ho : p → GoesOn o) :
    GoesOn (if p then o else stay s) := by
  split
  · exact ho ‹p›
  · exact stay_goesOn h

/-- A row of accesses, each of which goes on (10 R160). -/
theorem accesses_goesOn {u : Chip → Bool} {one : State → Out} (h : Placed s.chip)
    (hone : ∀ s : State, Placed s.chip → GoesOn (one s)) (more : Nat) : GoesOn (accesses u one more s) :=
  accesses_next (P := fun s => Placed s.chip) hone more h

/-- A quiet command goes on. -/
theorem quiet_goesOn (h : Placed s.chip) (q : Quiet s.chip d) (f : s.chip.Fetches d) : GoesOn (finish s d) :=
  finish_goesOn (h.sited.quiet q f)

/-! ### The rows that go to the RAM (10 §10.6) -/

/-- The port released, its access complete, is on its site. -/
theorem Placed.release (h : Placed s.chip) : (release s.chip).Sited := h.sited.same (.of_parts rfl rfl) h.reqs

theorem visitAccess_goesOn (h : Placed s.chip) : GoesOn (visitAccess s) := by
  unfold visitAccess
  dsimp only
  split
  · refine due_goesOn h fun hs => ?_
    have hfit := (h.areas_of_serves hs (.inl nofun)).1
    exact inRam_goesOn (hfit.cell _) (finish_goesOn (h.release.same (.of_parts rfl rfl) h.reqs))
  · refine due_goesOn h fun ⟨hs, _⟩ => ?_
    have hfit := (h.areas_of_serves hs (.inl nofun)).1
    exact inRam_goesOn (hfit.cell _) (finishRam_goesOn (h.release.same (.of_parts rfl rfl) h.reqs))

theorem takenAccess_goesOn (h : Placed s.chip) : GoesOn (takenAccess s) := by
  unfold takenAccess
  dsimp only
  split
  · exact stay_goesOn h
  · refine due_goesOn h fun ⟨hs, _⟩ => ?_
    have hfit := (h.areas_of_serves hs (.inl nofun)).1
    refine inRam_goesOn (hfit.cell _) (finish_goesOn ?_)
    split
    · exact h.release.same (.of_parts rfl rfl) h.reqs
    · exact takeOrder_sited h.release _

theorem doneAccess_goesOn (h : Placed s.chip) : GoesOn (doneAccess s) := by
  unfold doneAccess
  dsimp only
  split
  · refine due_goesOn h fun ⟨hs, _⟩ => ?_
    have hfit := (h.areas_of_serves hs (.inl nofun)).1
    refine inRam_goesOn (hfit.cell _) (finishRam_goesOn ?_)
    split
    · exact h.release.same (d := setAttention _ _) ⟨rfl, rfl, rfl, rfl, rfl⟩ h.reqs
    · exact resultWritten_sited h.release
  · exact stay_goesOn h

theorem reloadAccess_goesOn (h : Placed s.chip) : GoesOn (reloadAccess s) := by
  unfold reloadAccess
  dsimp only
  split
  · next p _ =>
    refine due_goesOn h fun hs => ?_
    have hfit := (h.areas_of_serves hs (.inl nofun)).1
    refine inRam_goesOn (hfit.plan p) (finish_goesOn ?_)
    split
    · exact h.release.same (.of_parts rfl rfl) (Chip.Requested.addRequest (h.release.reqs.filter rfl) rfl)
    · exact reloadDone_sited h.release _ _
  · exact stay_goesOn h

/-- The journal is served only where a header is in use. -/
theorem Placed.journal (h : Placed s.chip) (hs : s.chip.serves .journal = true) :
    s.chip.pageAddr + 64 ≤ Config.ramWords ∧ (s.chip.shc.run = .starting → s.chip.shc.start ≠ .header) := by
  obtain ⟨hfit, hi⟩ := h.areas_of_serves hs (.inl nofun)
  refine ⟨hfit.page hi, fun hrun e => ?_⟩
  obtain hr | ⟨-, hheader⟩ := run_of_wants (h.wants hs)
  · rw [hr] at hrun
    cases hrun
  · cases hheader e

theorem journalAccess_goesOn (h : Placed s.chip) : GoesOn (journalAccess s) := by
  refine due_goesOn h fun ⟨hs, _⟩ => ?_
  obtain ⟨hram, hn⟩ := h.journal hs
  exact inRam_goesOn hram (finishRam_goesOn (pageAccess_sited h.release (h.areas_of_serves hs (.inl nofun)) hn))

theorem pageOpenAccess_goesOn (h : Placed s.chip) : GoesOn (pageOpenAccess s) := by
  refine due_goesOn h fun ⟨hs, _⟩ => inRam_goesOn (h.journal hs).1 (finishRam_goesOn ?_)
  split
  · next hfirst =>
    simp only [Chip.firstPage, Bool.and_eq_true, beq_iff_eq] at hfirst
    exact firstAccess_sited h.release hfirst.2
  · exact openAccess_sited h.release

theorem stallRetryAccess_goesOn (h : Placed s.chip) : GoesOn (stallRetryAccess s) :=
  due_goesOn h fun ⟨hs, _⟩ => inRam_goesOn (h.journal hs).1 (finishRam_goesOn (retryAccess_sited h.release))

/-- A read of the start procedure, whose words are taken on the site (11 R167). -/
theorem startAccess_goesOn {all : List Word → Chip → Chip} {st : StartStep}
    (hall : ∀ (ws : List Word) (c : Chip), c.Sited → c.shc.run = .starting → c.shc.start = st → (all ws c).Sited) (a n : Nat)
    (h : Placed s.chip) : GoesOn (startAccess st a n all s) := by
  refine due_goesOn h fun ⟨hs, hst⟩ => finish_goesOn ?_
  have hread (ws : List Word) : ((release s.chip).modMpt fun m => { m with read := ws }).Sited :=
    h.release.same (.of_parts rfl rfl) h.reqs
  split
  · exact hread _
  · exact hall _ _ (hread []) (h.starting_of_serves hs) hst

theorem areaAccess_goesOn {all : List Word → Chip → Chip} {st : StartStep}
    (hall : ∀ (ws : List Word) (c : Chip), c.Sited → c.shc.run = .starting → c.shc.start = st → (all ws c).Sited) (a n : Nat)
    (hst : st ≠ .header) (ha : AreasFit s.chip → a + n ≤ Config.ramWords) (h : Placed s.chip) :
    GoesOn (areaAccess st a n all s) :=
  due_goesOn h fun ⟨hs, he⟩ =>
    inRam_goesOn (ha (h.areas_of_serves hs (.inr (he ▸ hst))).1) (startAccess_goesOn hall a n h)

theorem askClose_sited {c : Chip} (h : c.Sited) : (askClose c).Sited := by
  unfold askClose
  split
  · exact h.modJwr (by rfl)
  · exact h

/-- The page is asked to be closed, and the close may begin at once (10 R155). -/
theorem closeOut_goesOn {c : Chip} (h : c.Sited) (more : Nat) : GoesOn (closeOut s c more) := by
  have hasked := (askClose_sited h).placed s.chip
  unfold closeOut
  cases more with
  | zero => exact ⟨_, rfl, hasked⟩
  | succ k =>
    dsimp only
    split
    · exact accesses_goesOn hasked (fun _ => journalAccess_goesOn) k
    · exact ⟨_, rfl, hasked⟩

theorem flushOut_goesOn {c : Chip} (h : c.Sited) (more : Nat) : GoesOn (flushOut s c more) := by
  unfold flushOut
  split
  · exact closeOut_goesOn h more
  · exact finish_goesOn h

/-! ### The commands of Shelf Control (11) -/

theorem Chip.Sited.storeControl {c : Chip} (h : c.Sited) (sel : Bool) (mask : BitVec 5) : (storeControl sel mask c).Sited :=
  h.same ⟨rfl, rfl, rfl, rfl, rfl⟩ h.reqs

theorem controlRegisterWrite_goesOn (h : Placed s.chip) (w : Word) (more : Nat) : GoesOn (execControlRegisterWrite w s more) := by
  have hstored := h.sited.storeControl (selectField w) (maskField w)
  unfold execControlRegisterWrite
  dsimp only
  split
  · exact finish_goesOn (startCommand_sited hstored)
  · exact finish_goesOn (stopCommand_sited hstored)
  · exact finish_goesOn (coldRestartCommand_sited hstored)
  · exact finish_goesOn (warmRestartCommand_sited hstored)
  · exact flushOut_goesOn hstored more
  · exact finish_goesOn (hstored.same ⟨rfl, rfl, rfl, rfl, rfl⟩ hstored.reqs)
  · exact finish_goesOn hstored

/-- The areas are placed anew only in HALTED, where nothing lies in them (11 R163). -/
theorem areaBaseWrite_goesOn (h : Placed s.chip) (w : Word) : GoesOn (execAreaBaseWrite w s) := by
  unfold execAreaBaseWrite
  split
  · next hrun => exact finish_goesOn (.of_still (by simp [hrun]) (by simp [hrun]) h.reqs)
  all_goals exact stay_goesOn h

theorem mainsFail_goesOn (h : Placed s.chip) (mains : Bool) {p : Prop} [Decidable p] (f : Rsc → Rsc) :
    GoesOn (finish s (if p then (s.chip.modShc fun r => { r with mains := mains }).modRsc f
      else s.chip.modShc fun r => { r with mains := mains })) := by
  have hmains : (s.chip.modShc fun r => { r with mains := mains }).Sited := h.sited.same ⟨rfl, rfl, rfl, rfl, rfl⟩ h.reqs
  refine finish_goesOn ?_
  split
  · exact hmains.same (.of_parts rfl rfl) hmains.reqs
  · exact hmains

theorem overloadAsserted_goesOn (h : Placed s.chip) (standing : Bool) : GoesOn (execOverloadAsserted standing s) := by
  have q := (Quiet.refl s.chip).modGen fun g => { g with overload := standing }
  have f : s.chip.Fetches (s.chip.modGen fun g => { g with overload := standing }) := (Chip.Fetches.refl s.chip).modGen
  unfold execOverloadAsserted
  dsimp only
  split
  · exact quiet_goesOn h q.tripGen f.tripGen
  · exact quiet_goesOn h q.tripGen f.tripGen
  all_goals exact quiet_goesOn h q f

theorem memoryTimeout_goesOn (h : Placed s.chip) (a : Access) : GoesOn (execMemoryTimeout a s) := by
  refine due_goesOn h fun _ => ?_
  split
  · exact finish_goesOn (failStart_sited _ _)
  · exact finish_goesOn (afterTimeout_sited (isolate_sited h.reqs) a)
  all_goals exact stay_goesOn h

/-! ### The other commands -/

theorem sampleIf_goesOn (h : Placed s.chip) (due : Bool) (x : LineNo) (loop trip : Bool) : GoesOn (sampleIf due x loop trip s) :=
  due_goesOn h fun _ => quiet_goesOn h ((Quiet.refl _).sample x loop trip) (Chip.Fetches.refl _).sample

theorem orderCommand_goesOn (h : Placed s.chip) (kind : Nat) (a1 a2 a3 a4 a5 : Word) :
    GoesOn (orderCommand kind a1 a2 a3 a4 a5 s) :=
  due_goesOn h fun _ => finish_goesOn (takeOrder_sited h.sited _)

theorem diallingTimeout_goesOn (h : Placed s.chip) (x : LineNo) : GoesOn (execDiallingTimeout x s) := by
  refine due_goesOn h fun _ => ?_
  split
  · exact quiet_goesOn h ((Quiet.refl _).diallingExpired x) (Chip.Fetches.refl _).diallingExpired
  · exact quiet_goesOn h ((Quiet.refl _).recallExpired x) (Chip.Fetches.refl _).recallExpired
  · exact stay_goesOn h

theorem waitExpiry_goesOn (h : Placed s.chip) (x : LineNo) : GoesOn (execWaitExpiry x s) := by
  unfold execWaitExpiry
  split
  · exact due_goesOn h fun _ => quiet_goesOn h ((Quiet.refl _).waitExpired x _) (Chip.Fetches.refl _).waitExpired
  · exact stay_goesOn h

theorem notBeforeExpiry_goesOn (h : Placed s.chip) (x : LineNo) : GoesOn (execNotBeforeExpiry x s) := by
  unfold execNotBeforeExpiry
  split
  · exact due_goesOn h fun _ => quiet_goesOn h ((Quiet.refl _).notBeforeOver x) (Chip.Fetches.refl _).notBeforeOver
  · exact stay_goesOn h

theorem fetchWordRead_goesOn (h : Placed s.chip) (i : SlotNo) : GoesOn (execFetchWordRead i s) := by
  unfold execFetchWordRead
  dsimp only
  split
  · exact stay_goesOn h
  · next x _ =>
    split
    · refine due_goesOn h fun ⟨hs, _⟩ => ?_
      have hfit := (h.areas_of_serves hs (.inl nofun)).1
      refine inRam_goesOn (hfit.record x) (finish_goesOn ?_)
      exact h.release.quiet (((Quiet.refl _).readFetchWord i x _ s.ram).addRequest _)
        (Chip.Fetches.requestFetch (Chip.Fetches.refl _).readFetchWord)
    · exact stay_goesOn h

theorem fetchComplete_goesOn (h : Placed s.chip) (i : SlotNo) : GoesOn (execFetchComplete i s) := by
  unfold execFetchComplete
  dsimp only
  split
  · exact stay_goesOn h
  · next x _ =>
    refine due_goesOn h fun ⟨hs, _⟩ => ?_
    have hfit := (h.areas_of_serves hs (.inl nofun)).1
    refine inRam_goesOn (hfit.record x) (finish_goesOn ?_)
    exact h.release.quiet (((Quiet.refl _).readFetchWord i x _ s.ram).fetchDone i)
      (Chip.Fetches.fetchDone (Chip.Fetches.refl _).readFetchWord)

theorem coreFieldReadComplete_goesOn (h : Placed s.chip) : GoesOn (execCoreFieldReadComplete s) := by
  unfold execCoreFieldReadComplete
  dsimp only
  split
  · exact stay_goesOn h
  · next x rest _ =>
    refine due_goesOn h fun hs => ?_
    have hfit := (h.areas_of_serves hs (.inl nofun)).1
    have hq := (Quiet.refl (release s.chip)).coreEffect x (readWord s.ram (s.chip.recordAddr x))
    refine inRam_goesOn (hfit.record x) (finish_goesOn (nextCoreRead_sited ?_ (fun hrun e => ?_) rest))
    · exact h.release.quiet hq (Chip.Fetches.refl _).coreEffect
    · obtain hr | ⟨-, hheader⟩ := run_of_wants (h.wants hs)
      · rw [hq.shc.run] at hrun
        exact absurd (hr.symm.trans hrun) nofun
      · cases hheader (hq.shc.start ▸ e)

theorem mirrorWrite_goesOn (h : Placed s.chip) : GoesOn (execMirrorWrite s) := by
  unfold execMirrorWrite
  dsimp only
  split
  · exact stay_goesOn h
  · next x _ =>
    refine due_goesOn h fun hs => ?_
    have hfit := (h.areas_of_serves hs (.inl nofun)).1
    exact inRam_goesOn (hfit.status x) (finishRam_goesOn (h.release.same (.of_parts rfl rfl) h.reqs))

/-! ### Every command -/

/-- Every command goes on. -/
theorem exec_goesOn (i : Instr) (h : Placed s.chip) : GoesOn (exec i s) := by
  have q := Quiet.refl s.chip
  have f := Chip.Fetches.refl s.chip
  have hsame (d : Chip) (hs : s.chip.SameSite d) (hm : d.mpt = s.chip.mpt) : GoesOn (finish s d) :=
    finish_goesOn (h.sited.same hs fun a ha => h.reqs a (hm ▸ ha))
  cases i with
  | powerOnReset => exact finish_goesOn (.of_still nofun nofun nofun)
  | resetInput => exact finish_goesOn (.of_still nofun nofun nofun)
  | start sel mask => exact finish_goesOn (startCommand_sited (h.sited.storeControl sel mask))
  | stop sel mask => exact finish_goesOn (stopCommand_sited (h.sited.storeControl sel mask))
  | coldRestart sel mask => exact finish_goesOn (coldRestartCommand_sited (h.sited.storeControl sel mask))
  | warmRestart sel mask => exact finish_goesOn (warmRestartCommand_sited (h.sited.storeControl sel mask))
  | flush sel mask more => exact flushOut_goesOn (h.sited.storeControl sel mask) more
  | faultClear sel mask => exact hsame _ ⟨rfl, rfl, rfl, rfl, rfl⟩ rfl
  | areaBaseWrite w => exact areaBaseWrite_goesOn h w
  | attentionWrite w => exact hsame _ ⟨rfl, rfl, rfl, rfl, rfl⟩ rfl
  | mainsFailAsserted => exact mainsFail_goesOn h true _
  | mainsFailReleased => exact mainsFail_goesOn h false _
  | overloadAsserted standing => exact overloadAsserted_goesOn h standing
  | lineSample x loop trip => exact quiet_goesOn h (q.sample x loop trip) f.sample
  | hookTransition x loop trip => exact sampleIf_goesOn h _ x loop trip
  | firstDebouncedState x loop trip => exact sampleIf_goesOn h _ x loop trip
  | tripConfirm x loop trip => exact sampleIf_goesOn h _ x loop trip
  | clearExpiry x loop trip => exact sampleIf_goesOn h _ x loop trip
  | digitExpiry x loop trip => exact sampleIf_goesOn h _ x loop trip
  | dialToneTimeout x => exact due_goesOn h fun _ => quiet_goesOn h (q.dialToneExpired x) f.dialToneExpired
  | diallingTimeout x => exact diallingTimeout_goesOn h x
  | guardExpiry x => exact due_goesOn h fun _ => quiet_goesOn h (q.guardEnds x) f.guardEnds
  | parkTimerExpiry x => exact due_goesOn h fun _ => quiet_goesOn h (q.parkExpired x) f
  | howlerTimerExpiry x => exact due_goesOn h fun _ => quiet_goesOn h (q.howlerExpired x) f
  | fetchComplete i => exact fetchComplete_goesOn h i
  | coreFieldReadComplete => exact coreFieldReadComplete_goesOn h
  | stepBoundary => exact due_goesOn h fun _ => finish_goesOn (boundary_sited h.sited)
  | ringExpiry x => exact due_goesOn h fun _ => finish_goesOn (boundary_sited h.sited)
  | waitExpiry x => exact waitExpiry_goesOn h x
  | notBeforeExpiry x => exact notBeforeExpiry_goesOn h x
  | genStartDone => exact due_goesOn h fun _ => quiet_goesOn h q.genStarted f.genStarted
  | idleStop => exact due_goesOn h fun _ => quiet_goesOn h q.genRests f.genRests
  | holdEnd => exact due_goesOn h fun _ => quiet_goesOn h q.holdOver f.holdOver
  | ring | stopRing | digitSeen | enddial | connect | tone | clear | block | unblock | lockSlot | unlockSlot | freeLocks
  | invalidate | invalidateAll | reloadPlan | setCapacity | powerMode | genReset =>
    exact orderCommand_goesOn h _ _ _ _ _ _
  | reloadPlanReadComplete more => exact accesses_goesOn h (fun _ => reloadAccess_goesOn) more
  | orderPass => exact due_goesOn h fun _ => hsame _ (.of_parts rfl rfl) rfl
  | orderCellVisit more => exact accesses_goesOn h (fun _ => visitAccess_goesOn) more
  | orderTaken more => exact accesses_goesOn h (fun _ => takenAccess_goesOn) more
  | orderDone more => exact accesses_goesOn h (fun _ => doneAccess_goesOn) more
  | journalWrite more => exact accesses_goesOn h (fun _ => journalAccess_goesOn) more
  | pageCloseTimerExpiry more => exact due_goesOn h fun _ => closeOut_goesOn h.sited more
  | pageOpen more => exact accesses_goesOn h (fun _ => pageOpenAccess_goesOn) more
  | pageStallRetry more => exact accesses_goesOn h (fun _ => stallRetryAccess_goesOn) more
  | mirrorWrite => exact mirrorWrite_goesOn h
  | memoryTimeout a => exact memoryTimeout_goesOn h a
  | headerReadComplete more =>
    exact accesses_goesOn h (fun _ => startAccess_goesOn (fun ws _ hc hrun hst => headerDone_sited hc hrun hst ws) _ _) more
  | timingSetReadComplete more =>
    exact accesses_goesOn h
      (fun _ => areaAccess_goesOn (fun ws _ hc _ hst => takeTiming_sited hc hst ws) _ _ nofun AreasFit.timing) more
  | planReadComplete more =>
    exact accesses_goesOn h
      (fun _ => areaAccess_goesOn (fun ws _ hc _ hst => takePlans_sited hc hst ws) _ _ nofun AreasFit.plans) more
  | shelfRunning =>
    exact due_goesOn h fun ⟨hrun, hstart, _⟩ => finish_goesOn (shelfRuns_sited h.sited hrun hstart)
  | controlRegisterWrite w more => exact controlRegisterWrite_goesOn h w more
  | fetchWordRead i => exact fetchWordRead_goesOn h i

end

end Sys2Proof.Machine

section
open Sys2Proof Sys2Proof.Machine

/-- Settles O57: a scan period leaves the site of the Memory Port as it is, and every command goes on from it. -/
theorem stepNeverStops : Obligations.StepNeverStops := by
  unfold Obligations.StepNeverStops
  intro s h
  unfold step
  split
  · exact finish_goesOn (h.sited.same ⟨rfl, rfl, rfl, rfl, rfl⟩ h.reqs)
  · next i rest _ => exact exec_goesOn (s := { s with pending := rest }) i h

end
end


section
/-! SUPPORT. The fields and flags of words that are put together from their fields (10 Tables 10-9, 10-10, 10-12). -/

namespace Sys2Proof.Machine

theorem toNat_append_add {m n : Nat} (x : BitVec m) (y : BitVec n) : (x ++ y).toNat = x.toNat * 2 ^ n + y.toNat := by
  rw [BitVec.toNat_append, ← Nat.shiftLeft_add_eq_or_of_lt y.isLt, Nat.shiftLeft_eq]

theorem field_eq_div (w : Word) (lo len : Nat) : field w lo len = w.toNat / 2 ^ lo % 2 ^ len := by
  rw [field, BitVec.extractLsb'_toNat, Nat.shiftRight_eq_div_pow]

theorem flag_eq_div (w : Word) (i : Nat) : flag w i = decide (w.toNat / 2 ^ i % 2 = 1) := by
  rw [flag, BitVec.getLsbD, Nat.testBit, Nat.shiftRight_eq_div_pow, Nat.one_and_eq_mod_two]
  rcases Nat.mod_two_eq_zero_or_one (w.toNat / 2 ^ i) with h | h <;> simp [h]

theorem LineSt.code_lt (st : LineSt) : st.code < 16 := by cases st <;> decide

theorem Tone.toCode_lt (t : Tone) : t.toCode < 8 := by cases t <;> decide

theorem slotCode_lt (k : Option SlotNo) : slotCode k < 32 := by
  cases k with
  | none => decide
  | some k => exact k.isLt.trans (by decide)

/-- The value of a status word, field by field (Table 10-10). -/
theorem Line.statusWord_toNat (l : Line) :
    l.statusWord.toNat = l.st.code * 4096 + (l.hook == .off && l.st != .unequipped).toNat * 2048 + l.tone.toCode * 256 +
      l.relay.toNat * 128 + ((Config.unlisted 0).extractLsb' 5 2).toNat * 32 + slotCode l.slot := by
  have hst := l.st.code_lt
  have ht := l.tone.toCode_lt
  have hk := slotCode_lt l.slot
  unfold Line.statusWord
  simp only [toNat_append_add, BitVec.toNat_ofNat, BitVec.toNat_ofBool]
  omega

/-- The fields of a status word, as they are read (01 R14, Table 10-10). -/
theorem Line.statusWord_fields (l : Line) :
    field l.statusWord 12 4 = l.st.code ∧ flag l.statusWord 11 = (l.hook == .off && l.st != .unequipped) ∧
      field l.statusWord 8 3 = l.tone.toCode ∧ flag l.statusWord 7 = l.relay ∧
      field l.statusWord 0 5 = slotCode l.slot := by
  have hst := l.st.code_lt
  have ht := l.tone.toCode_lt
  have hk := slotCode_lt l.slot
  have hu := ((Config.unlisted 0).extractLsb' 5 2).isLt
  have hh := Bool.toNat_lt (l.hook == .off && l.st != .unequipped)
  have hr := Bool.toNat_lt l.relay
  simp only [field_eq_div, flag_eq_div, l.statusWord_toNat]
  refine ⟨by omega, ?_, by omega, ?_, by omega⟩
  · generalize (l.hook == .off && l.st != .unequipped) = b at *
    cases b <;> simp <;> omega
  · generalize l.relay = b at *
    cases b <;> simp <;> omega

end Sys2Proof.Machine
end

section
/-! SUPPORT. The mirror's write: which line it serves, and what the write leaves (10 R159). -/

namespace Sys2Proof.Machine

/-- The first element of an ordered list with a property is the one below which none has it. -/
theorem find?_allLines {p : LineNo → Bool} {x : LineNo} (hx : p x = true) (h : ∀ y, y < x → p y = false) :
    allLines.find? p = some x := by
  rw [allLines, List.find?_eq_some_iff_getElem]
  exact ⟨hx, x.val, by simp, by simp, fun j hj => by simp [h ⟨j, by omega⟩ hj]⟩

section
variable {s : State} {x : LineNo}

/-- The next marked line: the first above the last served, else the first of all (10 R159). -/
theorem Chip.nextMarked_eq_some {c : Chip} (hx : (c.line x).mark = true)
    (h : c.mpt.last < x ∧ (∀ y, c.mpt.last < y → y < x → (c.line y).mark = false) ∨
      x ≤ c.mpt.last ∧ ∀ y, c.mpt.last < y ∨ y < x → (c.line y).mark = false) : c.nextMarked = some x := by
  unfold Chip.nextMarked
  rcases h with ⟨hlt, hnone⟩ | ⟨hle, hnone⟩
  · rw [find?_allLines (x := x) (by simp [hlt, hx])
      fun y hy => by by_cases hl : c.mpt.last < y <;> simp [hl, hnone y _ hy]]
  · rw [List.find?_eq_none.2 fun y _ => by by_cases hl : c.mpt.last < y <;> simp [hl, hnone y (.inl _)]]
    exact find?_allLines hx fun y hy => hnone y (.inr hy)

/-- The machine with the status word of line `x` written by the mirror (10 R159). -/
def State.mirrored (s : State) (x : LineNo) : State :=
  { s with
    chip := settle s.chip (serveMark x (release s.chip))
    ram := writeWord s.ram (s.chip.statusAddr x) (s.chip.line x).statusWord }

theorem execMirrorWrite_of_next (hx : s.chip.nextMarked = some x) (hs : s.chip.serves .mirror = true)
    (hfit : s.chip.statusAddr x + 1 ≤ Config.ramWords) : execMirrorWrite s = .next (s.mirrored x) := by
  simp only [execMirrorWrite, hx, hs, if_true, inRam_of_le hfit, finishRam_eq, State.mirrored]

theorem serveMark_line_self (c : Chip) : (serveMark x c).line x = { c.line x with mark := false } :=
  Chip.line_modLine_self c x fun l => { l with mark := false }

theorem serveMark_line_ne (c : Chip) {y : LineNo} (hy : y ≠ x) : (serveMark x c).line y = c.line y :=
  Chip.line_modLine_ne c (fun l => { l with mark := false }) hy

theorem State.mirrored_only : OnlyChanges [.lines, .port, .ram] s (s.mirrored x) := by
  apply OnlyChanges.of_chip (d := serveMark x (release s.chip)) <;> simp [serveMark, release]

end

end Sys2Proof.Machine
end

section
open Sys2Proof Sys2Proof.Machine

/-- Settles O49: the line served is the next marked one, and the RAM holds its status word. -/
theorem mirrorWritesTheStatusWord : Obligations.MirrorWritesTheStatusWord := by
  unfold Obligations.MirrorWritesTheStatusWord
  intro s x hwf hs hx hnext a hfit
  obtain ⟨hst, hhook, htone, hrelay, hslot⟩ := (s.chip.line x).statusWord_fields
  have hread : readWord (s.mirrored x).ram a = (s.chip.line x).statusWord := readWord_writeWord hwf _ _
  refine ⟨s.mirrored x, execMirrorWrite_of_next (Chip.nextMarked_eq_some hx hnext) hs hfit, by rw [hread, hst],
    by rw [hread, hhook], by rw [hread, htone], by rw [hread, hrelay], ?_, ramKeptOutside_writeWord hwf rfl, ?_, ?_, ?_, ?_, ?_,
    State.mirrored_only⟩
  · rw [hread, hslot]
    cases (s.chip.line x).slot <;> rfl
  · simp [State.mirrored, serveMark_line_self, release]
  · intro y hy
    simp [State.mirrored, serveMark_line_ne _ hy, release]
  · simp [State.mirrored, serveMark, release]
  · simp [State.mirrored, serveMark, release]
  · simp [State.mirrored, serveMark, release]

end


section
/-! SUPPORT. Common validation by the number of the kind (10 R151, Table 10-11), and a command that takes an order which is refused. -/

namespace Sys2Proof.Machine

/-- The number of an order kind (10 Table 10-11). -/
def OrderKind.number : OrderKind → Nat
  | .ring => 1
  | .stopRing => 2
  | .digitSeen => 3
  | .enddial => 4
  | .connect => 5
  | .tone => 6
  | .clear => 7
  | .block => 8
  | .unblock => 9
  | .lockSlot => 10
  | .unlockSlot => 11
  | .freeLocks => 12
  | .invalidate => 13
  | .reloadPlan => 14
  | .setCapacity => 15
  | .powerMode => 16
  | .genReset => 17

section
variable {w : Word} {k : OrderKind} {o : OrderCopy} {c : Chip} {n : Nat}

theorem OrderKind.number_range (k : OrderKind) : 1 ≤ k.number ∧ k.number ≤ 17 := by cases k <;> decide

theorem orderKind_number (h : orderKind w = some k) : w.toNat = k.number := by
  unfold orderKind at h
  split at h <;> cases h <;> assumption

theorem orderKind_word_isSome : ∀ n : Fin 18, n ≠ 0 → (orderKind (word n.val)).isSome = true := by decide

/-- A number from 1 to 17 names a kind, -/
theorem exists_orderKind (h1 : 1 ≤ w.toNat) (h17 : w.toNat ≤ 17) : ∃ k, orderKind w = some k := by
  have h := orderKind_word_isSome ⟨w.toNat, by omega⟩ (by simp [Fin.ext_iff]; omega)
  rwa [show word w.toNat = w from BitVec.ofNat_toNat .., Option.isSome_iff_exists] at h

/-- and no other number does. -/
theorem orderKind_eq_none (h : w.toNat = 0 ∨ 17 < w.toNat) : orderKind w = none := by
  refine Option.eq_none_iff_forall_ne_some.2 fun k hk => ?_
  have hnum := orderKind_number hk
  have hrange := k.number_range
  omega

/-- The range tests of a kind are those of Table 10-11. -/
theorem argsInRange_iff (hk : o.kind.toNat = k.number) : argsInRange k o = true ↔ o.ArgsOk := by
  rw [OrderCopy.ArgsOk, hk]
  cases k <;> simp [argsInRange, OrderKind.number, argTests, lineInRange, allLinesArg, and_assoc]

/-- An order names the line number that common validation looks at. -/
theorem orderLine_of_names (hk : o.kind.toNat = k.number) (hn : o.names n) : orderLine k o = some n := by
  obtain ⟨rfl, hkind⟩ := hn
  rw [hk] at hkind
  cases k <;> simp_all [orderLine, OrderKind.number, allLinesArg]

theorem takenUnequipped_iff (hk : o.kind.toNat = k.number) : takenUnequipped k = true ↔ o.exempt := by
  rw [OrderCopy.exempt, hk]
  cases k <;> simp [takenUnequipped, OrderKind.number]

/-- Test 1: the kind is unknown. -/
theorem validate_unknown (h : o.kind.toNat = 0 ∨ 17 < o.kind.toNat) : validate o c = .error .badOrder := by
  rw [validate, orderKind_eq_none h]

/-- Test 2: an argument is out of its range. -/
theorem validate_badArgs (h1 : 1 ≤ o.kind.toNat) (h17 : o.kind.toNat ≤ 17) (ha : ¬o.ArgsOk) :
    validate o c = .error .badOrder := by
  obtain ⟨k, hk⟩ := exists_orderKind h1 h17
  have hargs : argsInRange k o = false := by
    rwa [← Bool.not_eq_true, argsInRange_iff (orderKind_number hk)]
  simp only [validate, hk, hargs, Bool.not_false, if_true]

/-- Test 3: the line named is not below the equipped count. -/
theorem validate_noLine (h1 : 1 ≤ o.kind.toNat) (h17 : o.kind.toNat ≤ 17) (ha : o.ArgsOk) (hn : o.names n)
    (he : c.shc.hdr.equipped ≤ n) : validate o c = .error .noLine := by
  obtain ⟨k, hk⟩ := exists_orderKind h1 h17
  have hnum := orderKind_number hk
  simp [validate, hk, (argsInRange_iff hnum).2 ha, orderLine_of_names hnum hn, he]

/-- Test 4: the line named is UNEQUIPPED, and the kind is not taken for such a line. -/
theorem validate_unequipped (h1 : 1 ≤ o.kind.toNat) (h17 : o.kind.toNat ≤ 17) (ha : o.ArgsOk) (hn : o.names n)
    (he : n < c.shc.hdr.equipped) (hlt : n < 96) (hst : (c.line ⟨n, hlt⟩).st = .unequipped) (hx : ¬o.exempt) :
    validate o c = .error .noLine := by
  obtain ⟨k, hk⟩ := exists_orderKind h1 h17
  have hnum := orderKind_number hk
  have hline : lineOf o.a1 = ⟨n, hlt⟩ := by
    rw [lineOf, hn.1]
    exact Fin.ext (Nat.mod_eq_of_lt hlt)
  have htaken : takenUnequipped k = false := by rwa [← Bool.not_eq_true, takenUnequipped_iff hnum]
  rw [validate_of_names hk ((argsInRange_iff hnum).2 ha) (orderLine_of_names hnum hn) hline he, if_pos ⟨htaken, hst⟩]

end

section
variable {s : State} {i : Instr} {o : OrderCopy} {r : Result}

/-- A command that takes an order takes it where it stands; the word read last in a cell ends its access. -/
theorem Takes.exec_eq (h : Takes i o s) :
    ∃ c, (c = s.chip ∨ c = release s.chip) ∧ exec i s = finish s (takeOrder o c) := by
  obtain ⟨ho, hr⟩ | ⟨⟨more, rfl⟩, hlen, k, hk, rfl⟩ := h
  · exact ⟨s.chip, .inl rfl, exec_of_ready hr ho⟩
  · have hrow := execOrderTaken_last hk hlen.le (.inl hlen) (more := more) (by omega)
    rw [wordsTo_last _ (by omega), hlen] at hrow
    exact ⟨release s.chip, .inr rfl, hrow⟩

/-- An order refused by common validation changes nothing but the Order Reader, which holds its copy and the result. -/
theorem Takes.answersOnly (h : Takes i o s) (hv : validate o s.chip = .error r) : AnswersOnly i o r s := by
  obtain ⟨c, hc, hexec⟩ := h.exec_eq
  have hord : c.ord = s.chip.ord := by rcases hc with rfl | rfl <;> rfl
  have ht : takeOrder o c = setResult r (copyOrder o c) := by
    have hval : validate o (copyOrder o c) = .error r := by rcases hc with rfl | rfl <;> exact hv
    simp only [takeOrder, hval]
  refine ⟨_, hexec.trans (finish_eq _ _), ?_, ?_⟩
  · simp [Answered, ht, setResult, copyOrder, hord]
  · rw [ht]
    rcases hc with rfl | rfl
    all_goals
      exact OnlyChanges.of_chip (m := s.ram) (fun _ => rfl) (fun _ => rfl) (fun _ => rfl) (fun _ => rfl) (fun _ => rfl)
        (fun _ => rfl) (by simp) (fun _ => rfl) (fun _ => rfl) (fun _ => rfl) (fun _ => rfl)

end

end Sys2Proof.Machine
end

section
open Sys2Proof Sys2Proof.Machine

/-- Settles O36: one clause for each test of common validation that can fail. -/
theorem commonValidationRefuses : Obligations.CommonValidationRefuses := by
  unfold Obligations.CommonValidationRefuses
  intro i o s h kind
  refine ⟨fun hk => h.answersOnly (validate_unknown hk), fun h1 h17 ha => h.answersOnly (validate_badArgs h1 h17 ha),
    fun h1 h17 ha n hn => ⟨fun he => h.answersOnly (validate_noLine h1 h17 ha hn he), fun he hlt hst hx => ?_⟩⟩
  exact h.answersOnly (validate_unequipped h1 h17 ha hn he hlt hst hx)

end


section
/-! SUPPORT. An access that fails while RUNNING (10 R161, R162): the shelf ISOLATED, and what becomes of a record fetch (04 R62). -/

namespace Sys2Proof.Machine

/-- The request is a record fetch. -/
def isFetch (a : Access) : Bool := a matches .fetch _

section
variable (c : Chip)

theorem isolate_sst : (isolate c).sst = c.sst := rfl
theorem isolate_rsc : (isolate c).rsc = c.rsc := rfl
theorem isolate_gen : (isolate c).gen = c.gen := rfl
theorem isolate_line (x : LineNo) : (isolate c).line x = c.line x := rfl
theorem isolate_slot (i : SlotNo) : (isolate c).slot i = c.slot i := rfl
theorem isolate_ord : (isolate c).ord = { Ord.reset with period := c.ord.period } := rfl
theorem isolate_nextMarked : (isolate c).nextMarked = c.nextMarked := rfl

theorem isolate_mpt :
    (isolate c).mpt = { c.mpt with coreReads := [], reqs := c.mpt.reqs.filter isFetch, busy := none } := by
  have hheld : (fun a : Access => match a with | .fetch _ => true | _ => false) = isFetch := by
    funext a
    cases a <;> rfl
  simp only [← hheld]
  rfl

theorem isolate_shc :
    (isolate c).shc =
      { c.shc with
        run := .isolated
        attention := c.shc.attention ||| attnFault
        fault := (offered c.shc.fault c.shc.further ⟨.memoryTimeout, none, 0, c.stamp⟩).1
        further := (offered c.shc.fault c.shc.further ⟨.memoryTimeout, none, 0, c.stamp⟩).2 } := rfl

/-- Of the journal the queue, the summaries and the page access in progress change. -/
theorem isolate_jwr :
    (isolate c).jwr =
      { c.jwr with
        queue := c.jwr.queue.filter fun r => r.body.kind == 3
        summaries := (isolate c).jwr.summaries
        shelf := (isolate c).jwr.shelf
        written := 0
        closing := .no } := by
  have hjwr : (isolate c).jwr =
      { (foldFault .memoryTimeout (offerFault .memoryTimeout none 0 c)).jwr.foldQueue with written := 0, closing := .no } := rfl
  have hfold : (foldFault .memoryTimeout (offerFault .memoryTimeout none 0 c)).jwr =
      c.jwr.fold ⟨none, (offerFault .memoryTimeout none 0 c).stamp, .fault .memoryTimeout 0⟩ := rfl
  rw [hjwr, hfold, Jwr.foldQueue_parts, Jwr.fold_parts]

/-- MEMORY_TIMEOUT is MAJOR, so that the fault record holds a MAJOR fault after it (11 R165). -/
theorem isolate_fault_major : ∃ f, (isolate c).shc.fault = some f ∧ f.kind.major = true := by
  rw [isolate_shc]
  dsimp only
  generalize c.shc.fault = held
  cases held with
  | none => exact ⟨_, rfl, rfl⟩
  | some g =>
    cases hg : g.kind.major with
    | true => exact ⟨g, by simp [offered, hg], hg⟩
    | false => exact ⟨⟨.memoryTimeout, none, 0, c.stamp⟩, by rw [offered, hg]; rfl, rfl⟩

/-- No access is wanted of a shelf that is neither RUNNING nor STARTING (10 R160, R161). -/
theorem Chip.nextAccess_of_stopped {c : Chip} (hr : c.shc.run ≠ .running) (hs : c.shc.run ≠ .starting) :
    c.nextAccess = none := by
  have hread : c.readWants = none := by
    cases h : c.shc.run with
    | running => exact absurd h hr
    | starting => exact absurd h hs
    | halted | isolated | failed => simp only [Chip.readWants, h]
  simp [Chip.nextAccess, Chip.journalWants, Chip.journalOpen, Chip.orderWants, Chip.mirrorWants, hread, hr, hs]

end

section
variable {s : State} {a : Access} {c : Chip} {i : SlotNo} {x : LineNo}

theorem execMemoryTimeout_running (hs : s.chip.serves a = true) (hr : s.chip.shc.run = .running) :
    execMemoryTimeout a s = finish s (afterTimeout a (isolate s.chip)) := by
  simp only [execMemoryTimeout, hs, if_true, hr]

theorem execMemoryTimeout_starting (hs : s.chip.serves a = true) (hr : s.chip.shc.run = .starting) :
    execMemoryTimeout a s = finish s (failStart .memoryTimeout (plansBefore s.chip)) := by
  simp only [execMemoryTimeout, hs, if_true, hr]

/-! ### A failed mirror write -/

/-- What a failed access leaves of an ISOLATED shelf, unless it was a record fetch: the line of a mirror write was served last. -/
theorem afterTimeout_eq (ha : isFetch a = false) :
    afterTimeout a c = c.modMpt fun m => { m with last := if a = .mirror then c.nextMarked.getD m.last else m.last } := by
  cases a with
  | fetch => cases ha
  | mirror =>
    simp only [afterTimeout, if_true]
    split
    · next x h => rw [h]; rfl
    · next h => rw [h]; rfl
  | journal | core | reload | start | order => rfl

theorem nextMarked_mark (h : c.nextMarked = some x) : (c.line x).mark = true := by
  unfold Chip.nextMarked at h
  split at h
  · next y hy =>
    cases h
    have hfound := List.find?_some hy
    simp only [Bool.and_eq_true] at hfound
    exact hfound.2
  · exact (List.find?_eq_some_iff_append.1 h).1

/-! ### A failed record fetch (04 R62) -/

/-- The chip with the slot of a failed fetch emptied and the fetch withdrawn. -/
def Chip.fetchFailed (c : Chip) (i : SlotNo) : Chip := dropRequest (.fetch i) (toLru i (c.modSlot i Slot.emptied))

theorem failFetch_of_none (h : (c.slot i).holder = none) (hw : c.sst.waitList = []) : failFetch i c = c.fetchFailed i := by
  simp only [failFetch, h]
  exact grantFreed_of_nil hw

theorem failFetch_of_some (h : (c.slot i).holder = some x) : failFetch i c = askAgain x (c.fetchFailed i) := by
  simp only [failFetch, h]
  rfl

@[simp] theorem Chip.fetchFailed_slot : (c.fetchFailed i).slot i = (c.slot i).emptied := by simp [Chip.fetchFailed]
theorem Chip.fetchFailed_slot_ne {j : SlotNo} (h : j ≠ i) : (c.fetchFailed i).slot j = c.slot j := by
  simp [Chip.fetchFailed, Chip.slot_modSlot_ne _ _ h]
@[simp] theorem Chip.fetchFailed_line (y : LineNo) : (c.fetchFailed i).line y = c.line y := rfl
@[simp] theorem Chip.fetchFailed_lru : (c.fetchFailed i).sst.lru = i :: c.sst.lru.filter (· ≠ i) := by simp [Chip.fetchFailed]
@[simp] theorem Chip.fetchFailed_waitList : (c.fetchFailed i).sst.waitList = c.sst.waitList := by simp [Chip.fetchFailed]

/-- A line whose slot no other can replace is given the emptied slot again: it is its own, or the first free one from the LRU end
(04 R58). -/
theorem Chip.fetchFailed_chooseSlot (hl : (c.slot i).lock = none ∨ (c.slot i).lock = some x)
    (ho : ∀ j, j ≠ i → (c.slot j).lock ≠ some x ∧ (c.slot j).recLine ≠ some x) : (c.fetchFailed i).chooseSlot x = some i := by
  have hslot := c.fetchFailed_slot (i := i)
  have hown : ∀ j, (c.fetchFailed i).OwnSlot x j → j = i := fun j hj => by
    by_contra hne
    exact (ho j hne).1 (by simpa [Chip.fetchFailed_slot_ne hne] using hj.1)
  rcases hl with hl | hl
  · have hno : ∀ j, ¬(c.fetchFailed i).OwnSlot x j := fun j hj => by
      have hlock := hj.1
      rw [hown j hj, hslot] at hlock
      exact Option.some_ne_none _ (hlock.symm.trans hl)
    have hnc : ∀ j, ¬(c.fetchFailed i).CopySlot x j := fun j hj => by
      obtain ⟨-, hrec, hst, -⟩ := hj
      by_cases hne : j = i
      · exact hst (by rw [hne, hslot]; rfl)
      · exact (ho j hne).2 (by rwa [Chip.fetchFailed_slot_ne hne] at hrec)
    have hfree : ((c.fetchFailed i).slot i).free = true := by simp [hslot, Slot.free, Slot.emptied, hl]
    rw [chooseSlot_free hno hnc, Chip.fetchFailed_lru, List.find?_cons_of_pos (p := fun j => ((c.fetchFailed i).slot j).free) hfree]
  · obtain ⟨k, hk, hko⟩ := chooseSlot_own (c := c.fetchFailed i) (x := x) (i := i)
      ⟨by rw [hslot]; exact hl, .inl (by simp [hslot, Slot.emptied])⟩
    rw [hk, hown k hko]

/-- The chip as the holder of a failed fetch is to ask again: its line has no slot, its entry needs one (04 R62, 07 R112). -/
def Chip.unfetched (c : Chip) (i : SlotNo) (x : LineNo) : Chip :=
  modEntry x (fun e => { e with needsSlot := true, fetching := false }) (setSlotRef x none (c.fetchFailed i))

theorem Chip.unfetched_line : (c.unfetched i x).line x = (c.line x).slotted none := by simp [Chip.unfetched]
theorem Chip.unfetched_line_ne {y : LineNo} (h : y ≠ x) : (c.unfetched i x).line y = c.line y := by
  simp [Chip.unfetched, Chip.line_modLine_ne _ _ h]
theorem Chip.unfetched_slot (j : SlotNo) : (c.unfetched i x).slot j = (c.fetchFailed i).slot j := rfl
theorem Chip.unfetched_sst : (c.unfetched i x).sst = (c.fetchFailed i).sst := rfl
theorem Chip.unfetched_mpt : (c.unfetched i x).mpt = (c.fetchFailed i).mpt := rfl
theorem Chip.unfetched_shc : (c.unfetched i x).shc = c.shc := rfl

/-- The chip with the slot of a failed fetch bound to its holder again and the fetch requested again (04 R62). -/
def Chip.fetchedAgain (c : Chip) (i : SlotNo) (x : LineNo) : Chip :=
  modEntry x (fun e => { e with needsSlot := false, fetching := true })
    (bindSlot i x ((c.unfetched i x).asked x (c.line x).askClass))

theorem askAgain_fetchFailed (hr : c.shc.run ≠ .starting) (hc : (c.fetchFailed i).chooseSlot x = some i) :
    askAgain x (c.fetchFailed i) = c.fetchedAgain i x := by
  have hmiss : (((c.unfetched i x).asked x (c.line x).askClass).slot i).grantKind x = .miss :=
    Slot.grantKind_of_empty (by simp [Chip.asked, Chip.unfetched_slot, Slot.emptied]) x
  have hfound : (c.unfetched i x).chooseSlot x = some i := (chooseSlot_congr c.unfetched_sst x).trans hc
  have hask : askAgain x (c.fetchFailed i) =
      requestSlot x ((c.unfetched i x).line x).st.purpose ((c.unfetched i x).line x).askClass (c.unfetched i x) := rfl
  rw [hask, requestSlot_grants (by rwa [Chip.unfetched_shc]) hfound, Chip.unfetched_line, ← Chip.asked]
  exact (congrArg grantFreed (takeGrant_bindSlot_of_miss hmiss)).trans (grantFreed_of_none _)

end

section
variable (c : Chip) (i : SlotNo) (x : LineNo)

theorem Chip.fetchedAgain_eq :
    c.fetchedAgain i x =
      modEntry x (fun e => { e with needsSlot := false, fetching := true })
        (addRequest (.fetch i) (setSlotRef x (some i) (toMru i
          (((c.unfetched i x).asked x (c.line x).askClass).modSlot i fun s => s.bind x .miss)))) := by
  rw [Chip.fetchedAgain, bindSlot_of_miss (Slot.grantKind_of_empty (by simp [Chip.asked, Chip.unfetched_slot, Slot.emptied]) x)]

theorem Chip.fetchedAgain_slot : (c.fetchedAgain i x).slot i = (c.slot i).emptied.bind x .miss := by
  simp [Chip.fetchedAgain_eq, Chip.asked, Chip.unfetched_slot]

theorem Chip.fetchedAgain_slot_ne {j : SlotNo} (h : j ≠ i) : (c.fetchedAgain i x).slot j = c.slot j := by
  simp [Chip.fetchedAgain_eq, Chip.asked, Chip.slot_modSlot_ne _ _ h, Chip.unfetched_slot, Chip.fetchFailed_slot_ne h]

theorem Chip.fetchedAgain_line :
    ((c.fetchedAgain i x).line x).slot = some i ∧ ((c.fetchedAgain i x).line x).st = (c.line x).st := by
  simp [Chip.fetchedAgain_eq, Chip.asked, Chip.unfetched_line, Line.slotted]

theorem Chip.fetchedAgain_line_ne {y : LineNo} (h : y ≠ x) : (c.fetchedAgain i x).line y = c.line y := by
  simp [Chip.fetchedAgain_eq, Chip.asked, Chip.line_modLine_ne _ _ h, Chip.unfetched_line_ne h]

theorem Chip.fetchedAgain_lru : (c.fetchedAgain i x).sst.lru = c.sst.lru.filter (· ≠ i) ++ [i] := by
  simp [Chip.fetchedAgain_eq, Chip.asked, Chip.unfetched_sst]

theorem Chip.fetchedAgain_waitList : (c.fetchedAgain i x).sst.waitList = c.sst.waitList := by
  simp [Chip.fetchedAgain_eq, Chip.asked, Chip.unfetched_sst]

theorem Chip.fetchedAgain_reqs :
    (c.fetchedAgain i x).mpt.reqs = c.mpt.reqs.filter (· ≠ .fetch i) ++ [.fetch i] := by
  simp [Chip.fetchedAgain_eq, Chip.asked, Chip.unfetched_mpt, Chip.fetchFailed]

theorem Chip.fetchedAgain_queue :
    (c.fetchedAgain i x).rsc.queue =
      c.rsc.queue.map fun e => if e.line = x then { e with needsSlot := false, fetching := true } else e := by
  have hqueue : (c.fetchedAgain i x).rsc.queue =
      (c.rsc.queue.map fun e => if e.line = x then { e with needsSlot := true, fetching := false } else e).map
        fun e => if e.line = x then { e with needsSlot := false, fetching := true } else e := by
    rw [Chip.fetchedAgain_eq]
    rfl
  rw [hqueue, List.map_map]
  refine List.map_congr_left fun e _ => ?_
  by_cases h : e.line = x <;> simp [h]

theorem Chip.fetchedAgain_sets : (c.fetchedAgain i x).sets = c.sets := by rw [Chip.fetchedAgain_eq]; rfl
theorem Chip.fetchedAgain_ctb : (c.fetchedAgain i x).ctb = c.ctb := by rw [Chip.fetchedAgain_eq]; rfl
theorem Chip.fetchedAgain_gen : (c.fetchedAgain i x).gen = c.gen := by rw [Chip.fetchedAgain_eq]; rfl

end

end Sys2Proof.Machine
end

section
/-! SUPPORT. An access that fails in a start procedure (11 R168, 05 R77). -/

namespace Sys2Proof.Machine

section
variable (c : Chip)

/-- The plans that a plan read found malformed before it failed (05 R77). -/
def Chip.malformedBefore : List PlanNo :=
  if c.shc.start = .plans then badPlans (c.mpt.read.length / 10) (planOf c.shc.hdr.n c.mpt.read) else []

/-- The plan copies after a start procedure failed (05 R77, log 23). -/
def Chip.copiesBefore : Ctb :=
  if c.shc.start = .plans then
    { c.ctb with
      active := Vector.ofFn fun p : PlanNo =>
        if p.val < c.mpt.read.length / 10 then (planOf c.shc.hdr.n c.mpt.read p).copy else none
      staged := Vector.replicate 8 none }
  else c.ctb

theorem plansBefore_shc :
    (plansBefore c).shc =
      { c.shc with
        attention := if c.malformedBefore = [] then c.shc.attention else c.shc.attention ||| attnFault
        fault := (planFaultsHeld c.stamp c.shc.fault c.shc.further c.malformedBefore).1
        further := (planFaultsHeld c.stamp c.shc.fault c.shc.further c.malformedBefore).2 } := by
  by_cases h : c.shc.start = .plans
  · rw [plansBefore, if_pos h, Chip.malformedBefore, if_pos h, planFaults, foldl_offerFault]
    rfl
  · rw [plansBefore, if_neg h, Chip.malformedBefore, if_neg h]
    rfl

theorem plansBefore_ctb : (plansBefore c).ctb = c.copiesBefore := by
  by_cases h : c.shc.start = .plans
  · rw [plansBefore, if_pos h, Chip.copiesBefore, if_pos h, planFaults, foldl_offerFault]
    rfl
  · rw [plansBefore, if_neg h, Chip.copiesBefore, if_neg h]

theorem plansBefore_sets : (plansBefore c).sets = c.sets := by
  by_cases h : c.shc.start = .plans
  · rw [plansBefore, if_pos h, planFaults, foldl_offerFault]
    rfl
  · rw [plansBefore, if_neg h]

theorem plansBefore_stamp : (plansBefore c).stamp = c.stamp := by simp only [Chip.stamp, plansBefore_shc]

variable (k : FaultKind)

theorem failStart_shc :
    (failStart k c).shc =
      { c.shc with
        run := .failed
        start := .none
        attention := c.shc.attention ||| attnFault
        fault := (offered c.shc.fault c.shc.further ⟨k, none, 0, c.stamp⟩).1
        further := (offered c.shc.fault c.shc.further ⟨k, none, 0, c.stamp⟩).2 } := rfl

theorem failStart_line (x : LineNo) :
    (failStart k c).line x = (c.line x).failed (c.timing x).burstBlank (c.timing x).clearAt := mapEach_get _ _ x

theorem failStart_ctb : (failStart k c).ctb = { c.ctb with step := 0, periods := 0 } := rfl
theorem failStart_sets : (failStart k c).sets = c.sets := rfl
theorem failStart_gen_state : (failStart k c).gen.state = .off := rfl

end

/-- A line of a failed shelf is UNEQUIPPED, without tone, ring and scanning. -/
theorem Line.failed_fields (l : Line) (blank clearAt : Nat) :
    (l.failed blank clearAt).st = .unequipped ∧ (l.failed blank clearAt).tone = .none ∧
      (l.failed blank clearAt).relay = false ∧ (l.failed blank clearAt).sampling = .off := by
  refine ⟨rfl, rfl, ?_, rfl⟩
  by_cases h : l.relay = false <;> simp [Line.failed, Line.moveRelay, Line.enter, h]

/-- A plan copy is present exactly where the read of the plan was good. -/
theorem PlanRead.copy_eq_some (r : PlanRead) (segs : Plan) : r.copy = some segs ↔ r = .good segs := by
  cases r <;> simp [PlanRead.copy]

end Sys2Proof.Machine
end

section
/-! SUPPORT. The rows of MEMORY_TIMEOUT (10 R161, R162, 11 R168). -/

namespace Sys2Proof.Machine

section
variable {s : State} {a : Access}

/-- An access other than a record fetch fails while RUNNING. -/
theorem execMemoryTimeout_of_not_fetch (ha : isFetch a = false) (hs : s.chip.serves a = true)
    (hr : s.chip.shc.run = .running) :
    execMemoryTimeout a s =
      finish s ((isolate s.chip).modMpt fun m =>
        { m with last := if a = .mirror then s.chip.nextMarked.getD m.last else m.last }) := by
  rw [execMemoryTimeout_running hs hr, afterTimeout_eq ha, isolate_nextMarked]

/-- The frame of a shelf made ISOLATED: the Order Reader, the journal, the Memory Port and Shelf Control change with it. -/
theorem isolated_frame {d : Chip} {ps : List Part} (hps : ∀ p ∈ [.orders, .journal, .port, .shelf], p ∈ ps)
    (hlines : .lines ∉ ps → d.lines = (isolate s.chip).lines) (hsets : d.sets = (isolate s.chip).sets)
    (hslots : .slots ∉ ps → d.sst = (isolate s.chip).sst) (hctb : d.ctb = (isolate s.chip).ctb)
    (hrsc : .scheduler ∉ ps → d.rsc = (isolate s.chip).rsc) (hgen : d.gen = (isolate s.chip).gen) :
    OnlyChanges ps s { s with chip := settle s.chip d } := by
  refine OnlyChanges.of_chip (m := s.ram) hlines (fun _ => hsets) hslots (fun _ => hctb) hrsc
    (fun _ => by rw [hgen, isolate_gen]) (fun h => ?_) (fun h => ?_) (fun h => ?_) (fun h => ?_) (fun _ => rfl)
  all_goals exact absurd (hps _ (by simp)) h

/-- No access is in progress on a shelf that is neither RUNNING nor STARTING, once the one that failed has ended. -/
theorem settle_busy_of_stopped {c0 d : Chip} (hb : d.mpt.busy = none) (hr : d.shc.run ≠ .running)
    (hs : d.shc.run ≠ .starting) : (settle c0 d).mpt.busy = none := by
  rw [settle_busy, hb]
  exact Chip.nextAccess_of_stopped hr hs

/-- What becomes of the shelf, the journal, the orders and the Memory Port of a shelf made ISOLATED (10 R161). -/
theorem isolated_settled {d : Chip} (hr : s.chip.shc.run = .running) (hshc : d.shc = (isolate s.chip).shc)
    (hjwr : d.jwr = (isolate s.chip).jwr) (hord : d.ord = (isolate s.chip).ord) :
    (settle s.chip d).shc.run = .isolated ∧
      ((settle s.chip d).shc.fault, (settle s.chip d).shc.further) =
        offered s.chip.shc.fault s.chip.shc.further ⟨.memoryTimeout, none, 0, s.chip.shc.ms⟩ ∧
      (settle s.chip d).shc.attention = s.chip.shc.attention ||| attnFault ∧
      (settle s.chip d).jwr.queue = s.chip.jwr.queue.filter (fun r => r.body.kind == 3) ∧
      (settle s.chip d).jwr.page = s.chip.jwr.page ∧ (settle s.chip d).jwr.used = s.chip.jwr.used ∧
      (settle s.chip d).jwr.written = 0 ∧ (settle s.chip d).jwr.closing = .no ∧
      (settle s.chip d).ord = { Ord.reset with period := s.chip.ord.period } := by
  simp only [settle_shc, settle_jwr, settle_ord, hshc, hjwr, hord]
  rw [isolate_jwr, isolate_shc, Chip.stamp_of_running hr]
  exact ⟨rfl, rfl, rfl, rfl, rfl, rfl, rfl, rfl, rfl⟩

end

end Sys2Proof.Machine
end

section
open Sys2Proof Sys2Proof.Machine

/-- Settles O50: the shelf is first made ISOLATED, or its start procedure failed, and then the requester of the access is served. -/
theorem memoryTimeoutIsolatesOrFails : Obligations.MemoryTimeoutIsolatesOrFails := by
  unfold Obligations.MemoryTimeoutIsolatesOrFails
  intro s
  refine ⟨fun hr => ⟨fun a ha hs => ?_, fun i hs => ?_⟩, fun hr a _ hs => ?_⟩
  · have hnf : isFetch a = false := by
      rcases (by simpa using ha : a = .journal ∨ a = .core ∨ a = .reload ∨ a = .order ∨ a = .mirror) with
        rfl | rfl | rfl | rfl | rfl <;> rfl
    obtain ⟨hrun, hfault, hflag, hqueue, hpage, hused, hwritten, hclosing, hord⟩ := isolated_settled (s := s)
      (d := (isolate s.chip).modMpt fun m => { m with last := if a = .mirror then s.chip.nextMarked.getD m.last else m.last })
      hr rfl rfl rfl
    refine ⟨_, (execMemoryTimeout_of_not_fetch hnf hs hr).trans (finish_eq _ _), hrun, hfault, hflag, hqueue, hpage, hused,
      hwritten, hclosing, hord, ?_, settle_busy_of_stopped rfl (by simp [isolate_shc]) (by simp [isolate_shc]), fun b hb => ?_,
      fun x hm hx => ⟨?_, ?_⟩, ?_⟩
    · simp [isolate_mpt]
    · have hb' : b ∈ s.chip.mpt.reqs ∧ isFetch b = true := by simpa [isolate_mpt] using hb
      cases b with
      | fetch i => exact ⟨i, rfl, hb'.1⟩
      | journal | core | reload | start | order | mirror => cases hb'.2
    · simpa [isolate_line] using nextMarked_mark hx
    · simp [hm, hx]
    · exact isolated_frame (by simp) (fun _ => rfl) rfl (fun _ => rfl) rfl (fun _ => rfl) rfl
  · have hquiet := (Quiet.refl (isolate s.chip)).failFetch i
    have hexec : exec (.memoryTimeout (.fetch i)) s = finish s (failFetch i (isolate s.chip)) :=
      execMemoryTimeout_running hs hr
    obtain ⟨f, hf, hmajor⟩ := isolate_fault_major s.chip
    refine ⟨_, hexec.trans (finish_eq _ _), ?_, ⟨f, ?_, hmajor⟩, ?_, fun hh hw => ?_, fun x hh hl ho => ?_⟩
    · simp [hquiet.shc.run, isolate_shc]
    · simpa using hquiet.shc.major f hf hmajor
    · simp [hquiet.ord, isolate_ord]
    · rw [failFetch_of_none (c := isolate s.chip) hh hw]
      refine ⟨?_, ?_, ?_, ?_, fun j hj => ?_, ?_⟩
      · simp [Slot.emptied]
      · simp [Slot.emptied]
      · simp [Slot.emptied]
      · simp [isolate_sst]
      · simp [Chip.fetchFailed_slot_ne hj, isolate_slot]
      · exact isolated_frame (by simp) (fun _ => rfl) rfl (by simp) rfl (fun _ => rfl) rfl
    · have hrun : (isolate s.chip).shc.run ≠ .starting := by simp [isolate_shc]
      rw [failFetch_of_some (c := isolate s.chip) hh, askAgain_fetchFailed hrun (Chip.fetchFailed_chooseSlot hl ho)]
      obtain ⟨hslot, hst⟩ := (isolate s.chip).fetchedAgain_line i x
      refine ⟨?_, ?_, ?_, ?_, ?_, ?_, ?_, fun y hy => ?_, fun j hj => ?_, ?_⟩
      · rw [settle_slot, Chip.fetchedAgain_slot, isolate_slot]
        simp [Slot.bind, Slot.emptied, hh]
      · rw [settle_sst, Chip.fetchedAgain_lru, isolate_sst]
      · rw [settle_sst, Chip.fetchedAgain_waitList, isolate_sst]
      · rw [settle_line, hslot]
      · rw [settle_line, hst, isolate_line]
      · rw [settle_mpt_reqs, Chip.fetchedAgain_reqs, isolate_mpt, List.filter_filter]
        congr 1
        refine List.filter_congr fun b _ => ?_
        cases b <;> simp [isFetch]
      · rw [settle_rsc, Chip.fetchedAgain_queue, isolate_rsc]
      · rw [settle_line, Chip.fetchedAgain_line_ne _ _ _ hy, isolate_line]
      · rw [settle_slot, Chip.fetchedAgain_slot_ne _ _ _ hj, isolate_slot]
      · exact isolated_frame (by simp) (by simp) ((isolate s.chip).fetchedAgain_sets i x) (by simp)
          ((isolate s.chip).fetchedAgain_ctb i x) (by simp) ((isolate s.chip).fetchedAgain_gen i x)
  · intro k read bad told
    have hbad : s.chip.malformedBefore = bad := rfl
    refine ⟨_, (execMemoryTimeout_starting hs hr).trans (finish_eq _ _), ?_, ?_, ?_, fun x => ?_, ?_, ?_, ?_,
      settle_busy_of_stopped rfl (by simp [failStart_shc]) (by simp [failStart_shc]), ?_, fun hp => ?_,
      fun hp p => ⟨?_, fun segs => ?_⟩, rfl, fun _ => rfl⟩
    · simp [failStart_shc]
    · rw [settle_shc, failStart_shc, plansBefore_stamp, plansBefore_shc, hbad]
      rfl
    · rw [settle_shc, failStart_shc, plansBefore_shc]
      dsimp only
      split
      · rfl
      · rw [BitVec.or_assoc, BitVec.or_self]
    · rw [settle_line, failStart_line]
      exact Line.failed_fields _ _ _
    · rw [settle_gen_state, failStart_gen_state]
    · rw [settle_genEnable, Chip.genEnable, failStart_gen_state]
      rfl
    · rw [settle_ctb, failStart_ctb]
    · rw [settle_sets, failStart_sets, plansBefore_sets]
    · rw [settle_ctb, failStart_ctb, plansBefore_ctb, Chip.copiesBefore, if_neg hp]
    · rw [settle_ctb, failStart_ctb, plansBefore_ctb, Chip.copiesBefore, if_pos hp]
      simp
    · rw [settle_ctb, failStart_ctb, plansBefore_ctb, Chip.copiesBefore, if_pos hp]
      by_cases hk : p.val < s.chip.mpt.read.length / 10
      · simp [hk, PlanRead.copy_eq_some, k, read, planOf]
      · simp [hk, k]

end


section
/-! SUPPORT. The accesses of the Journal Writer to the open page, one by one (10 R154, R155, R160). -/

namespace Sys2Proof.Machine

/-- The Journal Writer has an access to make, where it may go to the RAM (10 R160 class 1). -/
def Jwr.Wants (j : Jwr) : Prop :=
  j.page = .opened ∧ (j.closing ≠ .no ∨ j.queue ≠ []) ∨
    j.page = .opening ∧ (j.stall ≠ .page ∨ 10 ≤ j.retry ∨ j.written ≠ 0)

section
variable {c d : Chip}

theorem Chip.journalWants_iff : c.journalWants = true ↔ c.journalOpen = true ∧ c.jwr.Wants := by
  unfold Chip.journalWants Jwr.Wants
  cases hp : c.jwr.page with
  | none => simp
  | opening => cases hs : c.jwr.stall <;> simp [Chip.retryDue, hs]
  | opened => simp

/-- The Journal Writer's access is the next, if it wants one (10 R160). -/
theorem settle_busy_journal (ho : d.journalOpen = true) (hw : d.jwr.Wants) (hb : d.mpt.busy = none) :
    (settle c d).mpt.busy = some .journal := by
  rw [settle_busy, hb]
  simp [Chip.nextAccess, Chip.journalWants_iff.2 ⟨ho, hw⟩]

end

section
variable {s : State} {r : Rec} {rest : List Rec}

/-- The state after the Journal Writer has made an access that changed it by `f` and left the RAM as `m`. -/
def State.journaled (s : State) (f : Jwr → Jwr) (m : Memory) : State :=
  { s with chip := settle s.chip ((release s.chip).modJwr f), ram := m }

section
variable (f : Jwr → Jwr) (m : Memory)

@[simp] theorem State.journaled_jwr : (s.journaled f m).chip.jwr = f s.chip.jwr := by
  rw [State.journaled, settle_jwr]
  rfl

@[simp] theorem State.journaled_shc : (s.journaled f m).chip.shc = s.chip.shc := by
  rw [State.journaled, settle_shc]
  rfl

@[simp] theorem State.journaled_ram : (s.journaled f m).ram = m := rfl

theorem State.journaled_only : OnlyChanges [.journal, .ram] s (s.journaled f m) :=
  OnlyChanges.of_chip (fun _ => rfl) (fun _ => rfl) (fun _ => rfl) (fun _ => rfl) (fun _ => rfl) (fun _ => rfl)
    (fun _ => rfl) (by simp) (fun _ => rfl) (fun _ => rfl) (by simp)

theorem State.journaled_only_journal : OnlyChanges [.journal] s (s.journaled f s.ram) :=
  OnlyChanges.of_chip (fun _ => rfl) (fun _ => rfl) (fun _ => rfl) (fun _ => rfl) (fun _ => rfl) (fun _ => rfl)
    (fun _ => rfl) (by simp) (fun _ => rfl) (fun _ => rfl) (fun _ => rfl)

/-- The Journal Writer goes on with its next access. -/
theorem State.journaled_serves (ho : s.chip.journalOpen = true) (hw : (f s.chip.jwr).Wants) :
    (s.journaled f m).chip.serves .journal = true :=
  beq_iff_eq.2 (settle_busy_journal (d := (release s.chip).modJwr f) ho hw rfl)

theorem State.journaled_journalOpen : (s.journaled f m).chip.journalOpen = s.chip.journalOpen := by
  simp only [Chip.journalOpen, State.journaled_shc]

theorem State.journaled_pageAddr (h : (f s.chip.jwr).index = s.chip.jwr.index) :
    (s.journaled f m).chip.pageAddr = s.chip.pageAddr := by
  simp only [Chip.pageAddr, Chip.base, State.journaled_shc, State.journaled_jwr, h]

end

/-- The Journal Writer is served with an open page that lies in the RAM (10 R154, R155). -/
structure State.Paged (s : State) : Prop where
  serves : s.chip.serves .journal = true
  page : s.chip.jwr.page = .opened
  fits : s.chip.pageAddr + 64 ≤ Config.ramWords

theorem State.Paged.journaled (h : s.Paged) (ho : s.chip.journalOpen = true) {f : Jwr → Jwr} (m : Memory)
    (hp : (f s.chip.jwr).page = .opened) (hi : (f s.chip.jwr).index = s.chip.jwr.index)
    (hw : (f s.chip.jwr).closing ≠ .no ∨ (f s.chip.jwr).queue ≠ []) : (s.journaled f m).Paged where
  serves := State.journaled_serves f m ho (.inl ⟨hp, hw⟩)
  page := by rw [State.journaled_jwr, hp]
  fits := by rw [State.journaled_pageAddr f m hi]; exact h.fits

theorem State.Paged.journalAccess (h : s.Paged) (hw : s.chip.jwr.closing ≠ .no ∨ s.chip.jwr.queue ≠ []) :
    journalAccess s = finishRam s (pageAccess (release s.chip) s.ram) := by
  simp only [Machine.journalAccess, h.serves, h.page, hw, and_self, if_true, inRam_of_le h.fits]

/-- Nothing is done to a page that is not open. -/
theorem journalAccess_stay (h : s.chip.jwr.page ≠ .opened) : journalAccess s = .next s := by
  simp only [Machine.journalAccess, h, false_and, and_false, if_false]
  rfl

/-! ### The close (10 R155) -/

/-- A close is the next thing to do: it was asked for, or the head record does not fit. -/
def Jwr.ClosesNext (j : Jwr) : Prop :=
  j.closing = .asked ∨ (j.closing = .no ∨ j.closing = .after) ∧ ∃ r rest, j.queue = r :: rest ∧ 62 < j.used + r.body.length

theorem Jwr.ClosesNext.wants {j : Jwr} (h : j.ClosesNext) : j.closing ≠ .no ∨ j.queue ≠ [] := by
  obtain h | ⟨-, r, rest, hq, -⟩ := h
  · exact .inl (by simp [h])
  · exact .inr (by simp [hq])

/-- The words used are in the second header word of the page that is being closed. -/
def State.closeBegun (s : State) : State :=
  s.journaled (fun j => { j with closing := .begun }) (writeWord s.ram (s.chip.pageAddr + 1) (pageWord1 s.chip.jwr.used))

theorem State.Paged.journalAccess_begin (h : s.Paged) (hn : s.chip.jwr.ClosesNext) : Machine.journalAccess s = .next s.closeBegun := by
  have hpage : pageAccess (release s.chip) s.ram = beginClose (release s.chip) s.ram := by
    have hjwr : (release s.chip).jwr = s.chip.jwr := rfl
    obtain hc | ⟨hc | hc, r, rest, hq, hlen⟩ := hn
    · simp only [pageAccess, hjwr, hc]
    all_goals
      have hfits : s.chip.jwr.fits r = false := decide_eq_false (Nat.not_le.2 hlen)
      simp only [pageAccess, hjwr, hc, hq, hfits, Bool.false_eq_true, if_false]
  rw [h.journalAccess hn.wants, hpage]
  rfl

/-- The Journal Writer after a page has been closed. -/
def Jwr.closed (j : Jwr) (pages : Nat) : Jwr :=
  { j with page := .opening, closing := .no, closeTimer := none, index := if pages ≤ j.index + 1 then 0 else j.index + 1 }

/-- CLOSED is in the first header word, JOURNAL is set, and the next page is to be opened. -/
def State.closeEnded (s : State) : State :=
  { s with
    chip := settle s.chip (endClose (release s.chip) s.ram).1
    ram := writeWord s.ram s.chip.pageAddr (pageWord0 pageClosed s.chip.jwr.seq) }

theorem State.Paged.journalAccess_end (h : s.Paged) (hc : s.chip.jwr.closing = .begun) :
    Machine.journalAccess s = .next s.closeEnded := by
  have hpage : pageAccess (release s.chip) s.ram = endClose (release s.chip) s.ram := by
    have hjwr : (release s.chip).jwr.closing = .begun := hc
    simp only [pageAccess, hjwr]
  rw [h.journalAccess (.inl (by simp [hc])), hpage]
  rfl

theorem State.closeEnded_jwr : s.closeEnded.chip.jwr = s.chip.jwr.closed s.chip.shc.hdr.pages := by
  rw [State.closeEnded, settle_jwr]
  rfl

theorem State.closeEnded_shc : s.closeEnded.chip.shc = { s.chip.shc with attention := s.chip.shc.attention ||| attnJournal } := by
  rw [State.closeEnded, settle_shc]
  rfl

theorem State.closeEnded_only : OnlyChanges [.journal, .shelf, .ram] s s.closeEnded :=
  OnlyChanges.of_chip (fun _ => rfl) (fun _ => rfl) (fun _ => rfl) (fun _ => rfl) (fun _ => rfl) (fun _ => rfl)
    (fun _ => rfl) (by simp) (fun _ => rfl) (by simp) (by simp)

/-- A page whose words used are written is closed with the next access, and with no further one. -/
theorem State.Paged.accesses_end (h : s.Paged) (hc : s.chip.jwr.closing = .begun) (more : Nat) :
    accesses Chip.pageUnderWay Machine.journalAccess more s = .next s.closeEnded :=
  accesses_once (h.journalAccess_end hc) (.inr (journalAccess_stay (by rw [State.closeEnded_jwr]; simp [Jwr.closed])))

theorem State.Paged.closeBegun (h : s.Paged) (ho : s.chip.journalOpen = true) : s.closeBegun.Paged :=
  h.journaled ho _ h.page rfl (.inl (by simp))

/-- A close that is the next thing to do takes two accesses. -/
theorem State.Paged.accesses_close (h : s.Paged) (ho : s.chip.journalOpen = true) (hn : s.chip.jwr.ClosesNext) {more : Nat}
    (hm : 1 ≤ more) : accesses Chip.pageUnderWay Machine.journalAccess more s = .next s.closeBegun.closeEnded := by
  obtain ⟨m, rfl⟩ : ∃ m, more = m + 1 := ⟨more - 1, by omega⟩
  have hbegun : s.closeBegun.chip.jwr.closing = .begun := by simp [State.closeBegun]
  rw [accesses_succ (h.journalAccess_begin hn) (by simp [Chip.pageUnderWay, hbegun])]
  exact (h.closeBegun ho).accesses_end hbegun m

theorem State.closeBegun_pageAddr : s.closeBegun.chip.pageAddr = s.chip.pageAddr := State.journaled_pageAddr _ _ rfl

theorem State.closeBegun_closeEnded_jwr : s.closeBegun.closeEnded.chip.jwr = s.chip.jwr.closed s.chip.shc.hdr.pages := by
  rw [State.closeEnded_jwr, State.closeBegun, State.journaled_jwr, State.journaled_shc]
  rfl

theorem State.closeBegun_closeEnded_shc :
    s.closeBegun.closeEnded.chip.shc = { s.chip.shc with attention := s.chip.shc.attention ||| attnJournal } := by
  rw [State.closeEnded_shc, State.closeBegun, State.journaled_shc]

theorem State.closeBegun_closeEnded_only : OnlyChanges [.journal, .shelf, .ram] s s.closeBegun.closeEnded :=
  ((State.journaled_only _ _).mono (by simp)).trans State.closeEnded_only

/-- The two header words of a page closed in one step, and the rest of the RAM. -/
theorem State.closeBegun_closeEnded_ram (hwf : s.ram.wf) :
    readWord s.closeBegun.closeEnded.ram s.chip.pageAddr = pageWord0 pageClosed s.chip.jwr.seq ∧
      readWord s.closeBegun.closeEnded.ram (s.chip.pageAddr + 1) = pageWord1 s.chip.jwr.used ∧
      RamKeptOutside s.chip.pageAddr 2 s s.closeBegun.closeEnded := by
  have hram : s.closeBegun.closeEnded.ram =
      writeWord (writeWord s.ram (s.chip.pageAddr + 1) (pageWord1 s.chip.jwr.used)) s.chip.pageAddr
        (pageWord0 pageClosed s.chip.jwr.seq) := by
    rw [State.closeEnded, State.closeBegun_pageAddr, State.closeBegun, State.journaled_ram, State.journaled_jwr]
  have hwf' := writeWord_wf hwf (s.chip.pageAddr + 1) (pageWord1 s.chip.jwr.used)
  rw [RamKeptOutside, hram]
  refine ⟨readWord_writeWord hwf' _ _, ?_, fun b hb => ?_⟩
  · rw [readWord_writeWord_ne hwf' _ (by omega), readWord_writeWord hwf]
  · rw [byteAt_writeWord hwf', byteAt_writeWord hwf, if_neg (by omega), if_neg (by omega), if_neg (by omega), if_neg (by omega)]

end

end Sys2Proof.Machine
end


section
/-! SUPPORT. A page asked to be closed by FLUSH or by the close timer (10 R155, 11 R166). -/

namespace Sys2Proof.Machine

section
variable {s : State} {c : Chip}

/-- No close is asked for of a page that is not open, or holds no record. -/
theorem askClose_of_unheld (h : c.pageHeld = false) : askClose c = c := by simp [askClose, h]

/-- A close asked for waits for the head record, if that is being written. -/
theorem askClose_of_held (h : c.pageHeld = true) (hc : c.jwr.closing = .no) :
    askClose c = c.modJwr fun j => { j with closing := if c.recordInProgress then .after else .asked } := by
  simp [askClose, h, hc]

theorem Chip.pageHeld_iff : c.pageHeld = true ↔ c.jwr.page = .opened ∧ 0 < c.jwr.used := by
  simp [Chip.pageHeld]

/-- The state with the page of `c` asked to be closed, once the step that asked has settled. -/
def State.closeAsked (s : State) (c : Chip) : State := { s with chip := settle s.chip (askClose c) }

theorem closeOut_zero : closeOut s c 0 = .next (s.closeAsked c) := rfl

/-- While an access is in progress the close waits. -/
theorem closeOut_of_busy (h : s.chip.mpt.busy ≠ none) (more : Nat) : closeOut s c more = .next (s.closeAsked c) := by
  cases more with
  | zero => rfl
  | succ k => exact if_neg (by simp [h])

theorem closeOut_of_unheld (h : c.pageHeld = false) (hc : c.jwr.closing = .no) (more : Nat) :
    closeOut s c more = .next { s with chip := settle s.chip c } := by
  have ht : s.closeAsked c = { s with chip := settle s.chip c } := by rw [State.closeAsked, askClose_of_unheld h]
  cases more with
  | zero => exact congrArg _ ht
  | succ k =>
    refine (if_neg fun hasked => ?_).trans (congrArg _ ht)
    have hclosing : (s.closeAsked c).chip.jwr.closing = .asked := hasked.2
    rw [ht] at hclosing
    simp [hc] at hclosing

/-- With no access in progress the close is the access taken, and the step makes its writes. -/
theorem closeOut_of_idle (hb : s.chip.mpt.busy = none) (ha : (s.closeAsked c).chip.jwr.closing = .asked) (more : Nat) :
    closeOut s c (more + 1) = accesses Chip.pageUnderWay journalAccess more (s.closeAsked c) := if_pos ⟨hb, ha⟩

/-- The chip with the Control register's select bit and mask stored, as far as FLUSH and the timer can change it (11 R166). -/
def State.controlled (s : State) (sel : Bool) (mask : BitVec 5) : Chip :=
  { s.chip with shc := { s.chip.shc with sel := sel, mask := mask } }

section
variable {sel : Bool} {mask : BitVec 5} (hheld : s.chip.pageHeld = true) (hc : s.chip.jwr.closing = .no)

theorem State.controlled_self (hs : sel = s.chip.shc.sel) (hm : mask = s.chip.shc.mask) : s.controlled sel mask = s.chip := by
  rw [State.controlled, hs, hm]

theorem exec_flush (hr : s.chip.shc.run = .running) (more : Nat) :
    exec (.flush sel mask more) s = closeOut s (s.controlled sel mask) more := if_pos hr

/-- FLUSH closes nothing while the shelf is not RUNNING. -/
theorem exec_flush_of_not_running (hr : s.chip.shc.run ≠ .running) (more : Nat) :
    exec (.flush sel mask more) s = finish s (s.controlled sel mask) := if_neg hr

theorem exec_pageCloseTimerExpiry (ho : s.chip.journalOpen = true) (hheld : s.chip.pageHeld = true)
    (hd : timerDue s.chip.jwr.closeTimer = true) (more : Nat) :
    exec (.pageCloseTimerExpiry more) s = closeOut s s.chip more := if_pos ⟨ho, hheld, hd⟩

theorem askClose_parts (c : Chip) : askClose c = { c with jwr := (askClose c).jwr } := by
  unfold askClose
  split <;> rfl

theorem State.closeAsked_shc : (s.closeAsked (s.controlled sel mask)).chip.shc = { s.chip.shc with sel := sel, mask := mask } := by
  rw [State.closeAsked, settle_shc, askClose_parts]
  rfl

theorem State.closeAsked_only : OnlyChanges [.journal, .shelf] s (s.closeAsked (s.controlled sel mask)) := by
  rw [State.closeAsked, askClose_parts]
  exact OnlyChanges.of_chip (m := s.ram) (fun _ => rfl) (fun _ => rfl) (fun _ => rfl) (fun _ => rfl) (fun _ => rfl)
    (fun _ => rfl) (fun _ => rfl) (by simp) (fun _ => rfl) (by simp) (fun _ => rfl)

include hheld hc in
theorem State.closeAsked_jwr :
    (s.closeAsked (s.controlled sel mask)).chip.jwr =
      { s.chip.jwr with closing := if s.chip.recordInProgress then .after else .asked } := by
  have hheld' : (s.controlled sel mask).pageHeld = true := hheld
  have hc' : (s.controlled sel mask).jwr.closing = .no := hc
  rw [State.closeAsked, settle_jwr, askClose_of_held hheld' hc']
  rfl

/-- The head record is being written while the Journal Writer is served with a record that fits. -/
theorem Chip.recordInProgress_eq :
    (if c.recordInProgress then Closing.after else .asked) =
      match c.jwr.queue with
      | r :: _ => if c.mpt.busy = some .journal ∧ c.jwr.used + r.body.length ≤ 62 then .after else .asked
      | [] => .asked := by
  cases hq : c.jwr.queue with
  | nil => simp [Chip.recordInProgress, hq]
  | cons r rest =>
    have hin : c.recordInProgress = true ↔ c.mpt.busy = some .journal ∧ c.jwr.used + r.body.length ≤ 62 := by
      rw [Chip.recordInProgress, hq, Bool.and_eq_true]
      exact and_congr beq_iff_eq decide_eq_true_iff
    simp only [hin]

theorem Chip.recordInProgress_of_idle (hb : c.mpt.busy = none) : c.recordInProgress = false := by
  simp [Chip.recordInProgress, Chip.serves, hb]

include hheld hc in
theorem State.closeAsked_jwr_of_idle (hb : s.chip.mpt.busy = none) :
    (s.closeAsked (s.controlled sel mask)).chip.jwr = { s.chip.jwr with closing := .asked } := by
  rw [State.closeAsked_jwr hheld hc, Chip.recordInProgress_of_idle hb]
  rfl

include hheld hc in
/-- The Journal Writer is served with the close at once, where no access was in progress (10 R160). -/
theorem State.closeAsked_paged (hb : s.chip.mpt.busy = none) (ho : s.chip.journalOpen = true)
    (hfit : s.chip.pageAddr + 64 ≤ Config.ramWords) : (s.closeAsked (s.controlled sel mask)).Paged := by
  have hjwr := State.closeAsked_jwr_of_idle (sel := sel) (mask := mask) hheld hc hb
  have hchip : askClose (s.controlled sel mask) =
      (s.controlled sel mask).modJwr fun j => { j with closing := .asked } := by
    rw [askClose_of_held (c := s.controlled sel mask) hheld hc,
      Chip.recordInProgress_of_idle (c := s.controlled sel mask) hb]
    rfl
  have hpage := (Chip.pageHeld_iff.1 hheld).1
  refine ⟨beq_iff_eq.2 ?_, by rw [hjwr]; exact hpage, ?_⟩
  · rw [State.closeAsked, hchip]
    exact settle_busy_journal ho (.inl ⟨hpage, .inl (by simp [Chip.modJwr])⟩) hb
  · simpa only [Chip.pageAddr, Chip.base, State.closeAsked_shc, hjwr] using hfit

end

end

end Sys2Proof.Machine
end

section
open Sys2Proof Sys2Proof.Machine

/-- Settles O8: both commands ask for the close alike; what then happens is the row of JOURNAL_WRITE on the page asked to be closed. -/
theorem flushAndTimerCloseAHeldPage : Obligations.FlushAndTimerCloseAHeldPage := by
  unfold Obligations.FlushAndTimerCloseAHeldPage
  intro s i sel mask more hc
  refine ⟨fun hwf hpage hused hfit hi => ?_, fun hun => ?_⟩
  · intro asked
    have hheld : s.chip.pageHeld = true := Chip.pageHeld_iff.2 ⟨hpage, hused⟩
    have hexec : exec i s = closeOut s (s.controlled sel mask) more ∧ s.chip.journalOpen = true := by
      obtain ⟨rfl, hr⟩ | ⟨rfl, ho, hd, hs, hm⟩ := hi
      · exact ⟨exec_flush hr more, by simp [Chip.journalOpen, hr]⟩
      · exact ⟨by rw [exec_pageCloseTimerExpiry ho hheld hd, State.controlled_self hs hm], ho⟩
    obtain ⟨hexec, ho⟩ := hexec
    have honly := State.closeAsked_only (s := s) (sel := sel) (mask := mask)
    have hshc := State.closeAsked_shc (s := s) (sel := sel) (mask := mask)
    have hidle := State.closeAsked_jwr_of_idle (sel := sel) (mask := mask) hheld hc
    have hpaged (hb : s.chip.mpt.busy = none) := State.closeAsked_paged (sel := sel) (mask := mask) hheld hc hb ho hfit
    have hbusy := State.closeAsked_jwr (sel := sel) (mask := mask) hheld hc
    have hram : (s.closeAsked (s.controlled sel mask)).ram = s.ram := rfl
    generalize ht : s.closeAsked (s.controlled sel mask) = t at *
    refine ⟨fun hb hm => ?_, fun hb hm => ?_, fun hb hm => ?_, fun hb => ?_⟩
    · subst hm
      exact ⟨t, by rw [hexec, closeOut_zero, ht], hshc, hidle hb, beq_iff_eq.1 (hpaged hb).serves, honly⟩
    · subst hm
      have hnext : t.chip.jwr.ClosesNext := .inl (by rw [hidle hb])
      have hused' : t.chip.jwr.used = s.chip.jwr.used := by rw [hidle hb]
      have haddr : t.chip.pageAddr = s.chip.pageAddr := by simp only [Chip.pageAddr, Chip.base, hshc, hidle hb]
      have hwrite : t.closeBegun.ram = writeWord s.ram (s.chip.pageAddr + 1) (pageWord1 s.chip.jwr.used) := by
        rw [State.closeBegun, State.journaled_ram, hram, haddr, hused']
      refine ⟨t.closeBegun, ?_, by rw [hwrite, readWord_writeWord hwf], ramKeptOutside_writeWord hwf hwrite, ?_, ?_,
        (honly.mono (by simp)).trans ((State.journaled_only _ _).mono (by simp))⟩
      · rw [hexec, closeOut_of_idle hb (by rw [ht, hidle hb]), ht]
        exact (hpaged hb).journalAccess_begin hnext
      · rw [State.closeBegun, State.journaled_shc, hshc]
      · rw [State.closeBegun, State.journaled_jwr, hidle hb]
    · obtain ⟨m, rfl⟩ : ∃ m, more = m + 1 := ⟨more - 1, by omega⟩
      have hnext : t.chip.jwr.ClosesNext := .inl (by rw [hidle hb])
      have haddr : t.chip.pageAddr = s.chip.pageAddr := by simp only [Chip.pageAddr, Chip.base, hshc, hidle hb]
      have hopen : t.chip.journalOpen = true := by simpa only [Chip.journalOpen, hshc] using ho
      obtain ⟨hw0, hw1, hout⟩ := State.closeBegun_closeEnded_ram (s := t) (by rwa [hram])
      rw [haddr, hidle hb] at hw0 hw1
      rw [haddr] at hout
      refine ⟨t.closeBegun.closeEnded, ?_, hw0, hw1, fun b hb => (hout b hb).trans (by rw [hram]), ?_, ?_,
        (honly.mono (by simp)).trans State.closeBegun_closeEnded_only⟩
      · rw [hexec, closeOut_of_idle hb (by rw [ht, hidle hb]), ht]
        exact (hpaged hb).accesses_close hopen hnext (by omega)
      · rw [State.closeBegun_closeEnded_shc, hshc]
      · rw [State.closeBegun_closeEnded_jwr, hidle hb, hshc, Jwr.closed, ← hc]
    · exact ⟨t, by rw [hexec, closeOut_of_busy hb, ht], hshc,
        hbusy.trans (congrArg (fun k => { s.chip.jwr with closing := k }) Chip.recordInProgress_eq), honly⟩
  · have hheld : s.chip.pageHeld = false := by
      rw [← Bool.not_eq_true, Chip.pageHeld_iff]
      exact fun h => hun.elim (absurd h.1) h.2.ne'
    refine ⟨⟨{ s with chip := settle s.chip (s.controlled sel mask) }, ?_, settle_shc _ _, ?_⟩, ?_⟩
    · by_cases hr : s.chip.shc.run = .running
      · rw [exec_flush hr, closeOut_of_unheld (c := s.controlled sel mask) hheld hc]
      · exact exec_flush_of_not_running hr more
    · exact OnlyChanges.of_chip (m := s.ram) (fun _ => rfl) (fun _ => rfl) (fun _ => rfl) (fun _ => rfl) (fun _ => rfl)
        (fun _ => rfl) (fun _ => rfl) (fun _ => rfl) (fun _ => rfl) (by simp) (fun _ => rfl)
    · exact if_neg fun h => by simp [hheld] at h

end


section
/-! SUPPORT. The words of a journal record (10 Tables 10-9, 10-10, 10-12). -/

namespace Sys2Proof.Machine

theorem lineCode_lt (x : Option LineNo) : lineCode x < 128 := by
  cases x with
  | none => decide
  | some x => exact x.isLt.trans (by decide)

theorem lineCode_eq (x : Option LineNo) : lineCode x = (match x with | some x => x.val | none => 127) := by cases x <;> rfl

theorem Digit.code_lt (d : Digit) : d.code < 16 := by
  cases d with
  | value n => exact n.isLt.trans (by decide)
  | error => decide

theorem Body.kind_lt (b : Body) : b.kind < 32 := by cases b <;> simp [Body.kind]

/-- A record has its header word, its time-stamp and the words of its body. -/
theorem Body.words_length (b : Body) (s : Summary) : (b.words s).length + 2 = b.length := by
  cases b with
  | digits ds f ov => simp [Body.words, Body.length, digitWords]; omega
  | _ => rfl

section
variable (j : Jwr) (r : Rec)

theorem Rec.words_length : (r.words j).length = r.body.length := r.body.words_length _

/-- The header word of a record and its time-stamp, read field by field. -/
theorem Rec.words_head {kind len : Nat} (hk : r.body.kind = kind) (hl : r.body.length = len) (h8 : len ≤ 8) :
    r.body.length = len ∧ (r.words j).length = len ∧ field ((r.words j).getD 0 0) 11 5 = kind ∧
      field ((r.words j).getD 0 0) 8 3 = len - 1 ∧
      field ((r.words j).getD 0 0) 0 7 = (match r.line with | some x => x.val | none => 127) ∧
      (r.words j).getD 1 0 = r.stamp := by
  have hkind := r.body.kind_lt
  have hline := lineCode_lt r.line
  have hlen := r.body.words_length (j.summaryOf r.line)
  have hu := ((Config.unlisted 5).extractLsb' 7 1).isLt
  have hhead : ((r.words j).getD 0 0).toNat =
      r.body.kind * 2048 + (len - 1) * 256 + ((Config.unlisted 5).extractLsb' 7 1).toNat * 128 + lineCode r.line := by
    simp only [Rec.words, List.getD_cons_zero, toNat_append_add, BitVec.toNat_ofNat]
    omega
  refine ⟨hl, (r.words_length j).trans hl, ?_, ?_, (?_ : _ = lineCode r.line).trans (lineCode_eq _), rfl⟩
  all_goals
    rw [field_eq_div, hhead]
    omega

end

/-- A line state and a tone bus are the number of their code in the order of Table 10-3. -/
theorem LineSt.code_getElem (st : LineSt) :
    [LineSt.unequipped, .idle, .blocked, .seizeWait, .dialTone, .dialling, .routing, .ringWait, .ringing, .talk, .recall,
      .parked, .releaseGuard][(word st.code).toNat]? = some st := by cases st <;> rfl

theorem Tone.toCode_getElem (bus : Tone) :
    [Tone.none, .dial, .specialDial, .progress, .howler][(word bus.toCode).toNat]? = some bus := by cases bus <;> rfl

/-! ### A DIGITS record (Table 10-10) -/

theorem decide_eq_one {n : Nat} {b : Bool} (h : n = b.toNat) : decide (n = 1) = b := by
  subst h
  cases b <;> rfl

section
variable (ds : List Digit) (f : Option EndFlag) (ov : Bool)

/-- Word 2 of a DIGITS record: the flags and the count. -/
theorem digitsWord2_fields (h : ds.length ≤ 8) :
    flag (digitsWord2 ds f ov) 7 = ov ∧ flag (digitsWord2 ds f ov) 6 = (f == some .error) ∧
      flag (digitsWord2 ds f ov) 5 = (f == some .timeout) ∧ flag (digitsWord2 ds f ov) 4 = (f == some .final) ∧
      field (digitsWord2 ds f ov) 0 4 = ds.length := by
  have hword : (digitsWord2 ds f ov).toNat =
      ((Config.unlisted 3).extractLsb' 8 8).toNat * 256 + ov.toNat * 128 + (f == some .error).toNat * 64 +
        (f == some .timeout).toNat * 32 + (f == some .final).toNat * 16 + ds.length := by
    simp only [digitsWord2, toNat_append_add, BitVec.toNat_ofNat, BitVec.toNat_ofBool]
    omega
  have h7 := Bool.toNat_lt ov
  have h6 := Bool.toNat_lt (f == some .error)
  have h5 := Bool.toNat_lt (f == some .timeout)
  have h4 := Bool.toNat_lt (f == some .final)
  simp only [flag_eq_div, field_eq_div, hword]
  exact ⟨decide_eq_one (by omega), decide_eq_one (by omega), decide_eq_one (by omega), decide_eq_one (by omega), by omega⟩

/-- The four digits of a digit word, from the left. -/
theorem digitWord_field (i : Nat) {m : Nat} (hm : m < 4) :
    field (digitWord ds i) (12 - 4 * m) 4 = (digitNibble ds (i + m)).toNat := by
  have h0 := (digitNibble ds i).isLt
  have h1 := (digitNibble ds (i + 1)).isLt
  have h2 := (digitNibble ds (i + 2)).isLt
  have h3 := (digitNibble ds (i + 3)).isLt
  have hword : (digitWord ds i).toNat = (digitNibble ds i).toNat * 4096 + (digitNibble ds (i + 1)).toNat * 256 +
      (digitNibble ds (i + 2)).toNat * 16 + (digitNibble ds (i + 3)).toNat := by
    simp only [digitWord, toNat_append_add]
    omega
  rw [field_eq_div, hword]
  match m, hm with
  | 0, _ => simp only [Nat.add_zero]; omega
  | 1, _ => omega
  | 2, _ => omega
  | 3, _ => omega

theorem digitWords_getD {k : Nat} (hk : k < ds.length) : (digitWords ds).getD (k / 4) 0 = digitWord ds (4 * (k / 4)) := by
  have hlt : k / 4 < (ds.length + 3) / 4 := by omega
  simp [digitWords, hlt]

/-- Digit number k of a DIGITS record stands in its word, in its place. -/
theorem digitWords_field {k : Nat} {d : Digit} (hd : ds[k]? = some d) :
    field ((digitWords ds).getD (k / 4) 0) (12 - 4 * (k % 4)) 4 = d.code := by
  obtain ⟨hk, -⟩ := List.getElem?_eq_some_iff.1 hd
  have hnibble : digitNibble ds k = BitVec.ofNat 4 d.code := by simp only [digitNibble, hd]
  rw [digitWords_getD ds hk, digitWord_field ds _ (Nat.mod_lt k (by decide)), Nat.div_add_mod, hnibble, BitVec.toNat_ofNat]
  exact Nat.mod_eq_of_lt d.code_lt

end

end Sys2Proof.Machine
end


section
/-! SUPPORT. The end of a stall by resume (10 R158): what the digits held through it add to the write queue. -/

namespace Sys2Proof.Machine

/-- `d` is `c` with digit blocks joined to the write queue, of which one that found it full may have begun a stall of the queue; the
Slot Store and Shelf Control apart (03 R43, 10 R154). -/
structure Chip.GivesDigits (c d : Chip) : Prop where
  parts : d = { c with sst := d.sst, jwr := { c.jwr with queue := d.jwr.queue, stall := d.jwr.stall }, shc := d.shc }
  queue : ∃ blocks, d.jwr.queue = c.jwr.queue ++ blocks ∧ ∀ r ∈ blocks, r.body.kind = 3
  stall : d.jwr.stall = c.jwr.stall ∨ d.jwr.stall = .queue

namespace Chip.GivesDigits
variable {c d e : Chip} {x : LineNo}

theorem refl (c : Chip) : c.GivesDigits c := ⟨rfl, ⟨[], (List.append_nil _).symm, by simp⟩, .inl rfl⟩

theorem trans (h : c.GivesDigits d) (g : d.GivesDigits e) : c.GivesDigits e where
  parts := by rw [g.parts, h.parts]
  queue := by
    obtain ⟨bs, hq, hb⟩ := h.queue
    obtain ⟨bs', hq', hb'⟩ := g.queue
    exact ⟨bs ++ bs', by rw [hq', hq, List.append_assoc], fun r hr => (List.mem_append.1 hr).elim (hb r) (hb' r)⟩
  stall := g.stall.elim (fun e => h.stall.imp e.trans e.trans) .inr

theorem modCtx (h : c.GivesDigits d) (f : Ctx → Ctx) : c.GivesDigits (modCtx x f d) := by
  refine h.trans ?_
  unfold Machine.modCtx
  split
  · exact ⟨rfl, ⟨[], (List.append_nil _).symm, by simp⟩, .inl rfl⟩
  · exact refl d

theorem queued {r : Rec} (hr : r.body.kind = 3) (c : Chip) :
    c.GivesDigits (c.modJwr fun j => { j with queue := j.queue ++ [r] }) :=
  ⟨rfl, ⟨[r], rfl, by simp [hr]⟩, .inl rfl⟩

theorem writeDigits (ds : List Digit) (f : Option EndFlag) (c : Chip) : c.GivesDigits (writeDigits x ds f c).1 := by
  unfold Machine.writeDigits
  split
  · exact refl c
  · split
    · exact ⟨rfl, ⟨[], (List.append_nil _).symm, by simp⟩, .inr rfl⟩
    · dsimp only
      refine (queued ?_ c).modCtx _
      rfl

theorem flushRecords (f : EndFlag) (b fuel : Nat) (ds : List Digit) (c : Chip) :
    c.GivesDigits (flushRecords x f b fuel ds c).1 := by
  induction fuel generalizing ds c with
  | zero => exact refl c
  | succ fuel ih =>
    unfold Machine.flushRecords
    split
    · dsimp only
      split
      · exact (writeDigits _ _ c).trans (ih _ _)
      · exact writeDigits _ _ c
    · exact writeDigits _ _ c

theorem flushUpTo (f : EndFlag) (pos : Nat) (c : Chip) : c.GivesDigits (flushUpTo x f pos c) := by
  unfold Machine.flushUpTo
  split
  · exact refl c
  · next k _ =>
    have hflush := flushRecords (x := x) f (c.blockSize x) (Config.bufferLimit + 1) (k.buffer.take pos) c
    dsimp only
    split
    · next d hd => rw [hd] at hflush; exact hflush.modCtx _
    · next d held hd => rw [hd] at hflush; exact hflush.modCtx _

theorem writeHeldBlocks (fuel : Nat) (c : Chip) : c.GivesDigits (writeHeldBlocks x fuel c) := by
  induction fuel generalizing c with
  | zero => exact refl c
  | succ fuel ih =>
    unfold Machine.writeHeldBlocks
    split
    · exact refl c
    · dsimp only
      split
      · split
        · exact ((writeDigits _ _ c).modCtx _).trans (ih _)
        · exact writeDigits _ _ c
      · exact refl c

theorem resumeDigits (x : LineNo) (c : Chip) : c.GivesDigits (resumeDigits x c) := by
  unfold Machine.resumeDigits
  split
  · exact refl c
  · next k _ =>
    have hflush : c.GivesDigits (match k.mark with | some (f, pos) => Machine.flushUpTo x f pos c | none => c) := by
      split
      · exact flushUpTo _ _ c
      · exact refl c
    dsimp only
    split
    · split
      · exact hflush.trans (writeHeldBlocks _ _)
      · exact hflush
    · exact hflush

theorem foldl_resumeDigits (xs : List LineNo) (c : Chip) :
    c.GivesDigits (xs.foldl (fun c x => if (c.line x).slot.isSome then Machine.resumeDigits x c else c) c) := by
  induction xs generalizing c with
  | nil => exact refl c
  | cons x xs ih =>
    rw [List.foldl_cons]
    refine trans ?_ (ih _)
    split
    · exact resumeDigits x c
    · exact refl c

end Chip.GivesDigits

section
variable {c : Chip} {x : LineNo}

/-- The buffer of a line holds no block and no mark (03 R43). -/
def Chip.BufferHeld (c : Chip) (x : LineNo) : Prop :=
  ∀ k, (c.line x).slot = some k →
    let size := field (c.slot k).copy[1] 0 4
    (c.slot k).ctx.mark = none ∧ (size = 0 ∨ (c.slot k).ctx.buffer.length < size)

/-- Nothing is written for such a line. -/
theorem resumeDigits_of_held (h : c.BufferHeld x) : resumeDigits x c = c := by
  cases hs : (c.line x).slot with
  | none => simp [resumeDigits, Chip.ctx, hs]
  | some k =>
    obtain ⟨hmark, hsize⟩ := h k hs
    have hno : ¬(c.blockSize x ≠ 0 ∧ c.blockSize x ≤ (c.slot k).ctx.buffer.length) := by
      rw [Chip.blockSize_of_slot hs]
      omega
    simp only [resumeDigits, Chip.ctx_of_slot hs, hmark, Option.isNone_none, if_true, Config.bufferLimit, writeHeldBlocks, hno,
      if_false]

theorem foldl_resumeDigits_of_held (xs : List LineNo) (h : ∀ x, c.BufferHeld x) :
    xs.foldl (fun c x => if (c.line x).slot.isSome then resumeDigits x c else c) c = c := by
  induction xs with
  | nil => rfl
  | cons x xs ih => rw [List.foldl_cons, resumeDigits_of_held (h x), ite_self, ih]

end

/-- The chip as the stall ends, before the digits held are looked at: JOURNAL_RESUMED and the summaries head the queue (10 R158). -/
def Chip.resumed (c : Chip) : Chip :=
  c.modJwr fun j =>
    { j with stall := .none, queue := ⟨none, c.stamp, .journalResumed c.resumeRecords.length⟩ :: (c.resumeRecords ++ j.queue) }

theorem resume_eq (c : Chip) :
    resume c = allLines.foldl (fun c x => if (c.line x).slot.isSome then resumeDigits x c else c) c.resumed := rfl

theorem resume_givesDigits (c : Chip) : c.resumed.GivesDigits (resume c) := by
  rw [resume_eq]
  exact Chip.GivesDigits.foldl_resumeDigits _ _

theorem resume_of_held {c : Chip} (h : ∀ x, c.BufferHeld x) : resume c = c.resumed := by
  rw [resume_eq]
  exact foldl_resumeDigits_of_held _ h

/-- Resume ends the stall as R158 has it. -/
theorem resume_resumed (c : Chip) : Resumed c (resume c) := by
  obtain ⟨hparts, ⟨blocks, hqueue, hblocks⟩, hstall⟩ := resume_givesDigits c
  unfold Resumed
  intro lines shelf
  have hrecords : c.resumeRecords = lines ++ shelf := rfl
  have hhead : c.resumed.jwr.queue =
      ⟨none, c.stamp, .journalResumed (lines.length + shelf.length)⟩ :: (lines ++ shelf ++ c.jwr.queue) := by
    rw [← List.length_append, ← hrecords]
    rfl
  have hjwr := congrArg Chip.jwr hparts
  refine ⟨?_, by rw [hjwr]; rfl, by rw [hjwr]; rfl, blocks, by rw [hqueue, hhead]; rfl, hblocks, fun hheld => ?_⟩
  · rcases hstall with h | h <;> simp [h, Chip.resumed, Chip.modJwr]
  · have hno := resume_of_held (c := c) hheld
    rw [hno] at hqueue ⊢
    exact ⟨by simpa using hqueue, rfl, rfl, rfl⟩

end Sys2Proof.Machine
end


section
/-! SUPPORT. The head record written into the open page, word by word (10 R154). -/

namespace Sys2Proof.Machine

/-- Resume looks at the lines, the slots, the generator's state, the journal's records and Shelf Control alone. -/
theorem Resumed.congr {c c' d d' : Chip} (h : Resumed c d) (hl : ∀ x, c'.line x = c.line x) (hs : c'.sst = c.sst)
    (hg : c'.gen.state = c.gen.state) (hq : c'.jwr.queue = c.jwr.queue) (hsum : c'.jwr.summaries = c.jwr.summaries)
    (hshelf : c'.jwr.shelf = c.jwr.shelf) (hc : c'.shc = c.shc) (hj' : d'.jwr = d.jwr) (hs' : d'.sst = d.sst)
    (hc' : d'.shc = d.shc) : Resumed c' d' := by
  have hstamp : c'.stamp = c.stamp := by simp only [Chip.stamp, hc]
  have hslot : ∀ k, c'.slot k = c.slot k := fun k => by simp only [Chip.slot, hs]
  simpa only [Resumed, hl, hs, hg, hq, hsum, hshelf, hc, hj', hs', hc', hstamp, hslot] using h

/-- The head record `r` of the open page is being written: no close comes before it, and it fits (10 R154, R155). -/
structure State.Recording (s : State) (r : Rec) (rest : List Rec) : Prop extends s.Paged where
  queue : s.chip.jwr.queue = r :: rest
  room : s.chip.jwr.used + r.body.length ≤ 62
  closing : s.chip.jwr.closing = .no ∨ s.chip.jwr.closing = .after

/-- The state after the next word of the head record has been written. -/
def State.wordWritten (s : State) (r : Rec) : State :=
  s.journaled (fun j => { j with written := j.written + 1 })
    (writeWord s.ram (s.chip.pageAddr + 2 + s.chip.jwr.used + s.chip.jwr.written)
      ((r.words s.chip.jwr).getD s.chip.jwr.written 0))

section
variable {s v : State} {r : Rec} {rest : List Rec}

theorem State.Recording.access (h : s.Recording r rest) :
    journalAccess s = finishRam s (recordAccess r (release s.chip) s.ram) := by
  have hjwr : (release s.chip).jwr = s.chip.jwr := rfl
  have hfits : s.chip.jwr.fits r = true := decide_eq_true h.room
  have hpage : pageAccess (release s.chip) s.ram = recordAccess r (release s.chip) s.ram := by
    rcases h.closing with hc | hc
    all_goals simp only [pageAccess, hjwr, hc, h.queue, hfits, if_true]
  rw [h.toPaged.journalAccess (.inr (by simp [h.queue])), hpage]

theorem State.Recording.access_word (h : s.Recording r rest) (hlt : s.chip.jwr.written < r.body.length) :
    journalAccess s = .next (s.wordWritten r) := by
  have hlt' : (release s.chip).jwr.written < r.body.length := hlt
  rw [h.access, recordAccess]
  simp only [hlt', if_true]
  rfl

/-- The chip after the last access of a record: the record has left the queue, and a queue stall that has run empty ends. -/
def State.recorded (s : State) (r : Rec) : Chip := endQueueStall ((release s.chip).modJwr (·.wrote r))

theorem State.Recording.access_last (h : s.Recording r rest) (hge : s.chip.jwr.written = r.body.length) :
    journalAccess s = finishRam s (s.recorded r,
      writeWord s.ram (s.chip.pageAddr + 1) (pageWord1 (s.chip.jwr.used + r.body.length))) := by
  have hge' : ¬(release s.chip).jwr.written < r.body.length := by
    have : (release s.chip).jwr.written = r.body.length := hge
    omega
  rw [h.access, recordAccess]
  simp only [hge', if_false]
  rfl

theorem State.Recording.wordWritten (h : s.Recording r rest) (ho : s.chip.journalOpen = true) :
    (s.wordWritten r).Recording r rest where
  toPaged := h.toPaged.journaled ho _ h.page rfl (.inr (by simp [h.queue]))
  queue := by rw [State.wordWritten, State.journaled_jwr, h.queue]
  room := by rw [State.wordWritten, State.journaled_jwr]; exact h.room
  closing := by rw [State.wordWritten, State.journaled_jwr]; exact h.closing

/-- `v` is `s` with further words of the head record written. -/
structure State.Writing (s v : State) (r : Rec) : Prop where
  only : OnlyChanges [.journal, .ram] s v
  shc : v.chip.shc = s.chip.shc
  jwr : v.chip.jwr = { s.chip.jwr with written := v.chip.jwr.written }
  wf : v.ram.wf
  words : ∀ j, s.chip.jwr.written ≤ j → j < v.chip.jwr.written →
    readWord v.ram (s.chip.pageAddr + 2 + s.chip.jwr.used + j) = (r.words s.chip.jwr).getD j 0
  kept : ∀ b, b < 2 * (s.chip.pageAddr + 2 + s.chip.jwr.used + s.chip.jwr.written) ∨
    2 * (s.chip.pageAddr + 2 + s.chip.jwr.used + v.chip.jwr.written) ≤ b → byteAt v.ram b = byteAt s.ram b

theorem State.Writing.refl (hwf : s.ram.wf) : s.Writing s r where
  only := OnlyChanges.refl _ _
  shc := rfl
  jwr := rfl
  wf := hwf
  words j h h' := absurd h (by omega)
  kept _ _ := rfl

theorem State.Writing.pageAddr (h : s.Writing v r) : v.chip.pageAddr = s.chip.pageAddr := by
  rw [Chip.pageAddr, Chip.base, h.shc, h.jwr]
  rfl

theorem State.Writing.used (h : s.Writing v r) : v.chip.jwr.used = s.chip.jwr.used := by rw [h.jwr]

theorem State.Writing.wordWritten (h : s.Writing v r) (hle : s.chip.jwr.written ≤ v.chip.jwr.written) :
    s.Writing (v.wordWritten r) r := by
  have hwritten : (v.wordWritten r).chip.jwr.written = v.chip.jwr.written + 1 := by rw [State.wordWritten, State.journaled_jwr]
  have hwords : r.words v.chip.jwr = r.words s.chip.jwr := by rw [h.jwr]; rfl
  have hram : (v.wordWritten r).ram = writeWord v.ram (s.chip.pageAddr + 2 + s.chip.jwr.used + v.chip.jwr.written)
      ((r.words s.chip.jwr).getD v.chip.jwr.written 0) := by
    rw [State.wordWritten, State.journaled_ram, h.pageAddr, h.used, hwords]
  refine ⟨h.only.trans (State.journaled_only _ _), ?_, ?_, ?_, fun j hj hlt => ?_, fun b hb => ?_⟩
  · rw [State.wordWritten, State.journaled_shc, h.shc]
  · rw [hwritten, State.wordWritten, State.journaled_jwr, h.jwr]
  · rw [hram]
    exact writeWord_wf h.wf _ _
  · rw [hram]
    by_cases hlast : j = v.chip.jwr.written
    · rw [hlast, readWord_writeWord h.wf]
    · rw [readWord_writeWord_ne h.wf _ (by omega), h.words j hj (by omega)]
  · rw [hwritten] at hb
    rw [hram, byteAt_writeWord h.wf, if_neg (by omega), if_neg (by omega), h.kept b (by omega)]

/-- The row comes to its last access with every word of the record written. -/
theorem State.Recording.accesses_words (h : s.Recording r rest) (hwf : s.ram.wf)
    (hle : s.chip.jwr.written ≤ r.body.length) (ho : s.chip.jwr.written = r.body.length ∨ s.chip.journalOpen = true)
    {more : Nat} (hm : r.body.length - s.chip.jwr.written ≤ more) :
    ∃ v m, v.Recording r rest ∧ s.Writing v r ∧ v.chip.jwr.written = r.body.length ∧
      accesses Chip.pageUnderWay journalAccess more s = accesses Chip.pageUnderWay journalAccess m v := by
  obtain ⟨v, m, ⟨hv, hw, -, hle', -⟩, hone, e⟩ := accesses_until
    (R := fun v => v.Recording r rest ∧ s.Writing v r ∧ s.chip.jwr.written ≤ v.chip.jwr.written ∧
      v.chip.jwr.written ≤ r.body.length ∧ (v.chip.jwr.written = r.body.length ∨ v.chip.journalOpen = true))
    (left := fun v => r.body.length + 1 - v.chip.jwr.written) (u := Chip.pageUnderWay) (one := journalAccess)
    (fun v ⟨hv, hw, hfrom, hto, hopen⟩ hleft => by
      have hlt : v.chip.jwr.written < r.body.length := by omega
      have ho : v.chip.journalOpen = true := hopen.resolve_left (by omega)
      have hnext : (v.wordWritten r).chip.jwr.written = v.chip.jwr.written + 1 := by rw [State.wordWritten, State.journaled_jwr]
      refine ⟨_, hv.access_word hlt, by simp [Chip.pageUnderWay, hnext],
        ⟨hv.wordWritten ho, hw.wordWritten hfrom, by omega, by omega, .inr ?_⟩, by omega⟩
      rw [State.wordWritten, State.journaled_journalOpen, ho])
    more (s := s) ⟨h, .refl hwf, le_refl _, hle, ho⟩ (by omega) (by omega)
  exact ⟨v, m, hv, hw, by omega, e⟩

/-! ### The last access of a record -/

/-- The Journal Writer after the head record has been written: the record has left the queue with the summary it carried, the first of
a page has started the close timer, and a close that waited is asked for (10 R154, R155, R158). -/
theorem Jwr.wrote_eq {j : Jwr} (hq : j.queue = r :: rest) (hc : j.closing = .no ∨ j.closing = .after) :
    j.wrote r =
      { j with
        queue := rest
        used := j.used + r.body.length
        written := 0
        closing := if j.closing = .after then .asked else .no
        closeTimer := if j.used = 0 then some ⟨0, j.closeDelay⟩ else j.closeTimer
        summaries :=
          if r.body.kind = 16 then
            match r.line with
            | some x => j.summaries.set x none
            | none => j.summaries
          else j.summaries
        shelf := if r.body.kind = 16 ∧ r.line = none then none else j.shelf } := by
  have hclosing : (if j.closing = .after then Closing.asked else j.closing) = if j.closing = .after then .asked else .no := by
    rcases hc with hc | hc <;> simp [hc]
  obtain ⟨line, stamp, body⟩ := r
  cases body with
  | heldSummary code => cases line <;> simp [Jwr.wrote, Jwr.dropSummary, Body.kind, hq, hclosing, Timer.start]
  | _ => simp [Jwr.wrote, Jwr.dropSummary, Body.kind, hq, hclosing, Timer.start]

/-- Without an empty queue stall nothing further happens. -/
theorem State.recorded_of_goes (h : s.Recording r rest) (hs : s.chip.jwr.stall ≠ .queue ∨ rest ≠ []) :
    s.recorded r = (release s.chip).modJwr (·.wrote r) := by
  refine if_neg fun hstall => ?_
  have hjwr : ((release s.chip).modJwr (·.wrote r)).jwr = s.chip.jwr.wrote r := rfl
  rw [hjwr, Jwr.wrote_eq h.queue h.closing] at hstall
  exact hs.elim (absurd hstall.1) (absurd hstall.2)

/-- The last record of a queue stall ends it by resume (10 R156). -/
theorem State.recorded_of_emptied (h : s.Recording r rest) (hs : s.chip.jwr.stall = .queue) (hr : rest = []) :
    s.recorded r = resume ((release s.chip).modJwr (·.wrote r)) := by
  refine if_pos ?_
  have hjwr : ((release s.chip).modJwr (·.wrote r)).jwr = s.chip.jwr.wrote r := rfl
  rw [hjwr, Jwr.wrote_eq h.queue h.closing]
  exact ⟨hs, hr⟩

end

end Sys2Proof.Machine
end


section
/-! SUPPORT. The head record written to its end (10 R154, R156). -/

namespace Sys2Proof.Machine

section
variable {s v : State} {r : Rec} {rest : List Rec}

/-- The state after the last access of the head record. -/
def State.recordEnded (s : State) (r : Rec) : State :=
  { s with
    chip := settle s.chip (s.recorded r)
    ram := writeWord s.ram (s.chip.pageAddr + 1) (pageWord1 (s.chip.jwr.used + r.body.length)) }

/-- Resume changes the queue, the stall, the slots and Shelf Control alone. -/
theorem resume_parts (c : Chip) :
    resume c =
      { c with
        sst := (resume c).sst
        jwr := { c.jwr with queue := (resume c).jwr.queue, stall := (resume c).jwr.stall }
        shc := (resume c).shc } := (resume_givesDigits c).parts

/-- The record that has left the queue leaves no access under way. -/
theorem State.Recording.recordEnded_over (h : s.Recording r rest) : (s.recordEnded r).chip.pageUnderWay = false := by
  have hwrote := Jwr.wrote_eq h.queue h.closing
  have hover : (s.recorded r).jwr.written = 0 ∧ (s.recorded r).jwr.closing = if s.chip.jwr.closing = .after then .asked else .no := by
    by_cases hs : s.chip.jwr.stall ≠ .queue ∨ rest ≠ []
    · rw [State.recorded_of_goes h hs, Chip.modJwr]
      dsimp only [release, Chip.modMpt]
      rw [hwrote]
      exact ⟨rfl, rfl⟩
    · obtain ⟨hstall, hrest⟩ := not_or.1 hs
      rw [State.recorded_of_emptied h (not_not.1 hstall) (not_not.1 hrest), resume_parts, Chip.modJwr]
      dsimp only [release, Chip.modMpt]
      rw [hwrote]
      exact ⟨rfl, rfl⟩
  obtain ⟨hwritten, hclosing⟩ := hover
  simp only [State.recordEnded, Chip.pageUnderWay, settle_jwr, hwritten, hclosing]
  split <;> rfl

/-- A row that writes the record to its end (10 R154). -/
theorem State.Recording.execJournalWrite (h : s.Recording r rest) (hwf : s.ram.wf)
    (hle : s.chip.jwr.written ≤ r.body.length) (ho : s.chip.jwr.written = r.body.length ∨ s.chip.journalOpen = true)
    {more : Nat} (hm : r.body.length - s.chip.jwr.written ≤ more) :
    ∃ v, v.Recording r rest ∧ s.Writing v r ∧ v.chip.jwr.written = r.body.length ∧
      exec (.journalWrite more) s = .next (v.recordEnded r) := by
  obtain ⟨v, m, hv, hw, hlast, e⟩ := h.accesses_words hwf hle ho hm
  exact ⟨v, hv, hw, hlast, e.trans (accesses_done (hv.access_last hlast) hv.recordEnded_over m)⟩

section
variable (hv : v.Recording r rest) (hw : s.Writing v r)
include hw

theorem State.Writing.recordEnded_ram (hlast : v.chip.jwr.written = r.body.length) :
    (∀ j, s.chip.jwr.written ≤ j → j < r.body.length →
      readWord (v.recordEnded r).ram (s.chip.pageAddr + 2 + s.chip.jwr.used + j) = (r.words s.chip.jwr).getD j 0) ∧
      readWord (v.recordEnded r).ram (s.chip.pageAddr + 1) = pageWord1 (s.chip.jwr.used + r.body.length) ∧
      ∀ b, b < 2 * (s.chip.pageAddr + 1) ∨ 2 * (s.chip.pageAddr + 2) ≤ b →
        b < 2 * (s.chip.pageAddr + 2 + s.chip.jwr.used + s.chip.jwr.written) ∨
          2 * (s.chip.pageAddr + 2 + s.chip.jwr.used + r.body.length) ≤ b →
        byteAt (v.recordEnded r).ram b = byteAt s.ram b := by
  have hram : (v.recordEnded r).ram =
      writeWord v.ram (s.chip.pageAddr + 1) (pageWord1 (s.chip.jwr.used + r.body.length)) := by
    rw [State.recordEnded, hw.pageAddr, hw.used]
  rw [hram]
  refine ⟨fun j hj hlt => ?_, readWord_writeWord hw.wf _ _, fun b hb hb' => ?_⟩
  · rw [readWord_writeWord_ne hw.wf _ (by omega), hw.words j hj (by omega)]
  · rw [byteAt_writeWord hw.wf, if_neg (by omega), if_neg (by omega), hw.kept b (by omega)]

include hv in
/-- The words written are forgotten with the record. -/
theorem State.Writing.wrote : v.chip.jwr.wrote r = s.chip.jwr.wrote r := by
  have hq : s.chip.jwr.queue = r :: rest := by
    have := hv.queue
    rwa [hw.jwr] at this
  have hc : s.chip.jwr.closing = .no ∨ s.chip.jwr.closing = .after := by
    have := hv.closing
    rwa [hw.jwr] at this
  rw [Jwr.wrote_eq hv.queue hv.closing, Jwr.wrote_eq hq hc, hw.jwr]

include hv in
/-- The record leaves the queue, and nothing else happens unless it was the last of a queue stall. -/
theorem State.Writing.recordEnded_goes (hs : s.chip.jwr.stall ≠ .queue ∨ rest ≠ []) :
    (v.recordEnded r).chip.jwr = s.chip.jwr.wrote r ∧ OnlyChanges [.journal, .ram] s (v.recordEnded r) := by
  have hs' : v.chip.jwr.stall ≠ .queue ∨ rest ≠ [] := by rwa [hw.jwr]
  constructor
  · rw [State.recordEnded, settle_jwr, State.recorded_of_goes hv hs', ← hw.wrote hv]
    rfl
  · refine hw.only.trans ?_
    rw [State.recordEnded, State.recorded_of_goes hv hs']
    exact OnlyChanges.of_chip (fun _ => rfl) (fun _ => rfl) (fun _ => rfl) (fun _ => rfl) (fun _ => rfl) (fun _ => rfl)
      (fun _ => rfl) (by simp) (fun _ => rfl) (fun _ => rfl) (by simp)

include hv in
/-- The last record of a queue stall ends it by resume (10 R156, R158). -/
theorem State.Writing.recordEnded_resumes (hs : s.chip.jwr.stall = .queue) (hr : rest = []) :
    Resumed { s.chip with jwr := s.chip.jwr.wrote r } (v.recordEnded r).chip ∧
      OnlyChanges [.slots, .journal, .shelf, .ram] s (v.recordEnded r) := by
  have hs' : v.chip.jwr.stall = .queue := by rwa [hw.jwr]
  have hchip := State.recorded_of_emptied hv hs' hr
  have hgen := congrArg Gen.state (hw.only .generator (by simp))
  constructor
  · refine (resume_resumed ((release v.chip).modJwr (·.wrote r))).congr
      (fun x => (hw.only .lines (by simp) x).symm) (hw.only .slots (by simp)).symm hgen.symm
      (congrArg Jwr.queue (hw.wrote hv)).symm (congrArg Jwr.summaries (hw.wrote hv)).symm
      (congrArg Jwr.shelf (hw.wrote hv)).symm hw.shc.symm ?_ ?_ ?_
    all_goals simp only [State.recordEnded, hchip, settle_jwr, settle_sst, settle_shc]
  · refine (hw.only.mono (by simp)).trans ?_
    rw [State.recordEnded, hchip, resume_parts]
    exact OnlyChanges.of_chip (fun _ => rfl) (fun _ => rfl) (by simp) (fun _ => rfl) (fun _ => rfl) (fun _ => rfl)
      (fun _ => rfl) (by simp) (fun _ => rfl) (by simp) (by simp)

end

end

end Sys2Proof.Machine
end

section
open Sys2Proof Sys2Proof.Machine

/-- Settles O47: the words kind by kind, then the row: word by word and the last access, or the two writes of a close. -/
theorem headRecordIsWritten : Obligations.HeadRecordIsWritten := by
  unfold Obligations.HeadRecordIsWritten
  refine ⟨fun j r => ?_, fun s hwf hserves hpage => ?_⟩
  · intro w tones states head
    have hhead := fun kind len => r.words_head j (kind := kind) (len := len)
    obtain ⟨line, stamp, body⟩ := r
    cases body with
    | seize => exact hhead 1 2 rfl rfl (by decide)
    | toneReady delay bus => exact ⟨hhead 2 4 rfl rfl (by decide), rfl, bus.toCode_getElem⟩
    | digits ds f ov =>
      intro h8
      obtain ⟨hov, herr, htime, hfin, hcount⟩ := digitsWord2_fields ds f ov h8
      refine ⟨hhead 3 _ rfl rfl (by omega), hov, herr, htime, hfin, hcount, fun k d hd => ?_⟩
      have hw : w (3 + k / 4) = (digitWords ds).getD (k / 4) 0 := by
        simp only [w, Rec.words, Body.words, Nat.add_comm 3, List.getD_cons_succ]
      rw [hw, digitWords_field ds hd]
      cases d <;> rfl
    | dialRestart n => exact ⟨hhead 4 3 rfl rfl (by decide), rfl⟩
    | abandon st n => exact ⟨hhead 5 4 rfl rfl (by decide), st.code_getElem, rfl⟩
    | park why => exact ⟨hhead 6 3 rfl rfl (by decide), by cases why <;> rfl⟩
    | ringStarted party plan cls phase k delay left => exact ⟨hhead 7 6 rfl rfl (by decide), rfl, rfl⟩
    | answer rung early means => exact ⟨hhead 8 4 rfl rfl (by decide), rfl⟩
    | ringExpired party plan rung => exact ⟨hhead 9 4 rfl rfl (by decide), rfl⟩
    | ringFailed why party => exact hhead 10 3 rfl rfl (by decide)
    | shed why party plan rung carried => exact ⟨hhead 11 5 rfl rfl (by decide), rfl, rfl⟩
    | flash st n => exact ⟨hhead 12 4 rfl rfl (by decide), st.code_getElem, rfl⟩
    | clear st n => exact ⟨hhead 13 4 rfl rfl (by decide), st.code_getElem, rfl⟩
    | genState new old cause trips => exact hhead 14 4 rfl rfl (by decide)
    | fault k detail => exact hhead 15 3 rfl rfl (by decide)
    | heldSummary code =>
      refine ⟨hhead 16 5 rfl rfl (by decide), rfl, fun x m hx hm => ?_⟩
      obtain rfl : line = some x := hx
      simp [w, Rec.words, Body.words, Jwr.summaryOf, hm]
    | journalResumed n => exact ⟨hhead 17 3 rfl rfl (by decide), rfl⟩
    | restartDone warm n => exact ⟨hhead 18 4 rfl rfl (by decide), by cases warm <;> rfl, rfl⟩
  · intro a used at' next hfit
    have hpaged : s.Paged := ⟨hserves, hpage, hfit⟩
    refine ⟨fun r rest hq hroom hc => ?_, fun hn => ?_, fun more hm => ?_⟩
    · have hrec : s.Recording r rest := ⟨hpaged, hq, hroom, hc⟩
      refine ⟨fun hlt => ?_, fun more hle hmore ho => ?_⟩
      · have hram : (s.wordWritten r).ram = writeWord s.ram (a + 2 + used + at') ((r.words s.chip.jwr).getD at' 0) := rfl
        exact ⟨_, hrec.access_word hlt, by rw [hram, readWord_writeWord hwf], ramKeptOutside_writeWord hwf hram,
          State.journaled_jwr _ _, State.journaled_only _ _⟩
      · obtain ⟨v, hv, hw, hlast, hexec⟩ := hrec.execJournalWrite hwf hle ho hmore
        obtain ⟨hwords, hused, hkept⟩ := hw.recordEnded_ram hlast
        refine ⟨_, hexec, hwords, hused, hkept, ?_⟩
        intro wrote
        have hwrote : s.chip.jwr.wrote r = wrote := Jwr.wrote_eq hq hc
        rw [← hwrote]
        exact ⟨fun hs => hw.recordEnded_goes hv hs, fun hs hr => hw.recordEnded_resumes hv hs hr⟩
    · have hram : s.closeBegun.ram = writeWord s.ram (a + 1) (pageWord1 used) := rfl
      exact ⟨_, hpaged.journalAccess_begin hn, by rw [hram, readWord_writeWord hwf], ramKeptOutside_writeWord hwf hram,
        State.journaled_jwr _ _, State.journaled_only _ _⟩
    · by_cases hbegun : s.chip.jwr.closing = .begun
      · have hram : s.closeEnded.ram = writeWord s.ram a (pageWord0 pageClosed s.chip.jwr.seq) := rfl
        rw [if_pos hbegun]
        exact ⟨_, hpaged.accesses_end hbegun more, by rw [hram, readWord_writeWord hwf], absurd hbegun,
          ramKeptOutside_writeWord hwf hram, State.closeEnded_shc, State.closeEnded_jwr, State.closeEnded_only⟩
      · obtain ⟨hn, h1, ho⟩ := hm.resolve_left hbegun
        obtain ⟨hw0, hw1, hkept⟩ := State.closeBegun_closeEnded_ram hwf
        rw [if_neg hbegun]
        exact ⟨_, hpaged.accesses_close ho hn h1, hw0, fun _ => hw1, hkept, State.closeBegun_closeEnded_shc,
          State.closeBegun_closeEnded_jwr, State.closeBegun_closeEnded_only⟩

end


section
/-! SUPPORT. The opening of a page, access by access: a page as it comes, the first of a start procedure, and a stalled one that is read
again (10 R153, R156, 11 R167). -/

namespace Sys2Proof.Machine

/-- What opens a page: PAGE_OPEN while RUNNING or in step 5, PAGE_OPEN in step 4 of a start procedure, or PAGE_STALL_RETRY. -/
inductive Opener where
  | next | first | retry

/-- The chip with its page open and empty (10 R153). -/
def Chip.pageOpened (c : Chip) : Chip :=
  c.modJwr fun j => { j with page := .opened, seq := j.nextSeq, used := 0, written := 0, opened := true }

namespace Opener

/-- One access of the row. -/
def one : Opener → State → Out
  | .next | .first => pageOpenAccess
  | .retry => stallRetryAccess

theorem one_retry : one .retry = stallRetryAccess := rfl

/-- The page that the row is for. -/
def For : Opener → Chip → Prop
  | .next, c => c.jwr.stall ≠ .page ∧ c.firstPage = false
  | .first, c => c.jwr.stall ≠ .page ∧ c.firstPage = true
  | .retry, c => c.jwr.stall = .page ∧ (10 ≤ c.jwr.retry ∨ c.jwr.written ≠ 0)

/-- The chip after a header that does not read EMPTY. -/
def stalled : Opener → Chip → Chip
  | .next, c => beginPageStall c
  | .first, c => afterPage (beginPageStall (takeStartRecs c))
  | .retry, c => c.modJwr fun j => { j with retry := 0 }

/-- The chip after the last of the two writes. -/
def opened : Opener → Chip → Chip
  | .next, c => c.pageOpened
  | .first, c => afterPage (takeStartRecs c).pageOpened
  | .retry, c => resume c.pageOpened

/-- One access, by the number of accesses made. -/
def access (k : Opener) (c : Chip) (m : Memory) : Chip × Memory :=
  match c.jwr.written with
  | 0 => if pageEmpty (readWord m c.pageAddr) then (foundEmpty c, m) else (k.stalled c, m)
  | 1 => beginPage c m
  | _ => (k.opened c, writeWord m (c.pageAddr + 1) 0)

end Opener

/-- The Journal Writer is served with a page to be opened, by the row of `k`, that lies in the RAM. -/
structure State.Opening (s : State) (k : Opener) : Prop where
  serves : s.chip.serves .journal = true
  page : s.chip.jwr.page = .opening
  fits : s.chip.pageAddr + 64 ≤ Config.ramWords
  mode : k.For s.chip

/-- FILLING and the next sequence number are in the first header word. -/
def State.headBegun (s : State) : State :=
  s.journaled (fun j => { j with written := 2 }) (writeWord s.ram s.chip.pageAddr (pageWord0 pageFilling s.chip.jwr.nextSeq))

/-- The header has been read EMPTY. -/
def State.headFound (s : State) : State := s.journaled (fun j => { j with written := 1 }) s.ram

/-- The state after the last write of the opening. -/
def State.headEnded (s : State) (k : Opener) : State :=
  { s with chip := settle s.chip (k.opened (release s.chip)), ram := writeWord s.ram (s.chip.pageAddr + 1) 0 }

/-- The state after a header that does not read EMPTY. -/
def State.headRefused (s : State) (k : Opener) : State := { s with chip := settle s.chip (k.stalled (release s.chip)) }

section
variable {s v : State} {k : Opener}

theorem pageOpenAccess_eq (hs : s.chip.serves .journal = true) (hp : s.chip.jwr.page = .opening)
    (hfit : s.chip.pageAddr + 64 ≤ Config.ramWords) (hstall : s.chip.jwr.stall ≠ .page) :
    pageOpenAccess s =
      finishRam s (if s.chip.firstPage then firstAccess (release s.chip) s.ram else openAccess (release s.chip) s.ram) := by
  simp only [pageOpenAccess, hs, hp, ne_eq, hstall, not_false_eq_true, and_self, if_true, inRam_of_le hfit]

theorem stallRetryAccess_eq (hs : s.chip.serves .journal = true) (hp : s.chip.jwr.page = .opening)
    (hfit : s.chip.pageAddr + 64 ≤ Config.ramWords) (hstall : s.chip.jwr.stall = .page)
    (hdue : 10 ≤ s.chip.jwr.retry ∨ s.chip.jwr.written ≠ 0) :
    stallRetryAccess s = finishRam s (retryAccess (release s.chip) s.ram) := by
  have hdue' : s.chip.retryDue = true ∨ s.chip.jwr.written ≠ 0 := by simpa [Chip.retryDue, hstall] using hdue
  simp only [stallRetryAccess, hs, hp, hstall, hdue', and_self, if_true, inRam_of_le hfit]

theorem State.Opening.one (h : s.Opening k) : k.one s = finishRam s (k.access (release s.chip) s.ram) := by
  cases k with
  | next =>
    obtain ⟨hstall, hfirst⟩ := h.mode
    refine (pageOpenAccess_eq h.serves h.page h.fits hstall).trans ?_
    rw [hfirst]
    rfl
  | first =>
    obtain ⟨hstall, hfirst⟩ := h.mode
    refine (pageOpenAccess_eq h.serves h.page h.fits hstall).trans ?_
    rw [hfirst]
    rfl
  | retry =>
    obtain ⟨hstall, hdue⟩ := h.mode
    exact stallRetryAccess_eq h.serves h.page h.fits hstall hdue

/-- The page header reads EMPTY. -/
def State.HeadEmpty (s : State) : Prop := field (readWord s.ram s.chip.pageAddr) 14 2 = 0

theorem State.Opening.one_found (h : s.Opening k) (hw : s.chip.jwr.written = 0) (he : s.HeadEmpty) :
    k.one s = .next s.headFound := by
  have hw' : (release s.chip).jwr.written = 0 := hw
  have he' : pageEmpty (readWord s.ram (release s.chip).pageAddr) = true := beq_iff_eq.2 he
  rw [h.one, Opener.access]
  simp only [hw', he', if_true]
  rfl

theorem State.Opening.one_refused (h : s.Opening k) (hw : s.chip.jwr.written = 0) (he : ¬s.HeadEmpty) :
    k.one s = .next (s.headRefused k) := by
  have hw' : (release s.chip).jwr.written = 0 := hw
  have he' : pageEmpty (readWord s.ram (release s.chip).pageAddr) = false := beq_eq_false_iff_ne.2 he
  rw [h.one, Opener.access]
  simp only [hw', he', Bool.false_eq_true, if_false]
  rfl

theorem State.Opening.one_begun (h : s.Opening k) (hw : s.chip.jwr.written = 1) : k.one s = .next s.headBegun := by
  have hw' : (release s.chip).jwr.written = 1 := hw
  rw [h.one, Opener.access]
  simp only [hw']
  rfl

theorem State.Opening.one_ended (h : s.Opening k) (hw : s.chip.jwr.written = 2) : k.one s = .next (s.headEnded k) := by
  have hw' : (release s.chip).jwr.written = 2 := hw
  rw [h.one, Opener.access]
  simp only [hw']
  rfl

/-- After an access that is not the last the row goes on. -/
theorem State.Opening.journaled (h : s.Opening k) (ho : s.chip.journalOpen = true) {f : Jwr → Jwr} (m : Memory)
    (hp : (f s.chip.jwr).page = s.chip.jwr.page) (hi : (f s.chip.jwr).index = s.chip.jwr.index)
    (hs : (f s.chip.jwr).stall = s.chip.jwr.stall) (hw : (f s.chip.jwr).written ≠ 0) : (s.journaled f m).Opening k where
  serves := State.journaled_serves f m ho (.inr ⟨hp.trans h.page, .inr (.inr hw)⟩)
  page := by rw [State.journaled_jwr, hp, h.page]
  fits := by rw [State.journaled_pageAddr f m hi]; exact h.fits
  mode := by
    have hmode := h.mode
    have hfirst : (s.journaled f m).chip.firstPage = s.chip.firstPage := by simp only [Chip.firstPage, State.journaled_shc]
    cases k with
    | next => exact ⟨by rw [State.journaled_jwr, hs]; exact hmode.1, hfirst.trans hmode.2⟩
    | first => exact ⟨by rw [State.journaled_jwr, hs]; exact hmode.1, hfirst.trans hmode.2⟩
    | retry => exact ⟨by rw [State.journaled_jwr, hs]; exact hmode.1, .inr (by rw [State.journaled_jwr]; exact hw)⟩

/-- Nothing further is done where a page is open, stalled, or still to be waited for. -/
theorem pageOpenAccess_stay (h : s.chip.jwr.page = .opened ∨ s.chip.jwr.stall = .page) : pageOpenAccess s = .next s := by
  refine if_neg fun ⟨_, hp, hs⟩ => ?_
  rcases h with h | h
  · simp [h] at hp
  · exact hs h

theorem stallRetryAccess_stay (h : s.chip.jwr.page = .opened ∨ s.chip.jwr.retry = 0 ∧ s.chip.jwr.written = 0) :
    stallRetryAccess s = .next s := by
  refine if_neg fun ⟨_, hp, _, hdue⟩ => ?_
  rcases h with h | ⟨hr, hw⟩
  · simp [h] at hp
  · simp [Chip.retryDue, hr, hw] at hdue

/-! ### What the last access leaves -/

theorem afterPage_eq (c : Chip) :
    afterPage c =
      { c with
        lines := (afterPage c).lines
        rsc := { c.rsc with mode := c.startMode, stagedMode := c.startMode }
        shc := { c.shc with start := .readings, ms := 0 } } := by
  unfold afterPage
  dsimp only
  split <;> rfl

/-- The lines that a cold start brings into supervision begin their first readings (11 R167 step 6). -/
theorem afterPage_line (c : Chip) (x : LineNo) :
    (afterPage c).line x =
      if c.shc.warm = false ∧ (c.line x).equipped = true ∧ (c.line x).st = .unequipped then
        { c.line x with sampling := .first, run := 0 }
      else c.line x := by
  cases hwarm : c.shc.warm with
  | true =>
    have hafter : (afterPage c).line x = c.line x := by
      unfold afterPage
      rw [if_pos (by exact hwarm)]
      rfl
    simp [hafter]
  | false =>
    have hafter : (afterPage c).line x =
        if (c.line x).equipped && (c.line x).st == .unequipped then (c.line x).beginFirst else c.line x := by
      unfold afterPage
      rw [if_neg (by simp [Chip.modRsc, hwarm]), beginReadings, Chip.mapLines_line]
      rfl
    rw [hafter]
    by_cases h : (c.line x).equipped = true ∧ (c.line x).st = .unequipped
    · simp [h, Line.beginFirst]
    · have hno : ((c.line x).equipped && (c.line x).st == .unequipped) = false := by simpa using h
      simp only [hno, h, Bool.false_eq_true, and_false, if_false]

theorem startMode_eq (c : Chip) :
    c.startMode =
      if c.shc.warm = true ∧ c.rsc.hold = true ∨ c.rsc.autoConserve = true ∧ c.shc.mains = true then .conserve else .normal := by
  simp only [Chip.startMode, Bool.or_eq_true, Bool.and_eq_true]

/-- The page of the chip that the last access leaves is open. -/
theorem Opener.opened_page (c : Chip) : (k.opened c).jwr.page = .opened := by
  cases k with
  | next => rfl
  | first => rw [Opener.opened, afterPage_eq]; rfl
  | retry => rw [Opener.opened, resume_parts]; rfl

theorem State.headEnded_stay : k.one (s.headEnded k) = .next (s.headEnded k) := by
  have hpage : (s.headEnded k).chip.jwr.page = .opened := by
    rw [State.headEnded, settle_jwr]
    exact Opener.opened_page _
  cases k with
  | next | first => exact pageOpenAccess_stay (.inl hpage)
  | retry =>
    rw [Opener.one_retry]
    exact stallRetryAccess_stay (.inl hpage)

theorem State.headRefused_stay (hw : s.chip.jwr.written = 0) : k.one (s.headRefused k) = .next (s.headRefused k) := by
  have hjwr : (s.headRefused k).chip.jwr = (k.stalled (release s.chip)).jwr := by rw [State.headRefused, settle_jwr]
  cases k with
  | next =>
    refine pageOpenAccess_stay (.inr ?_)
    rw [hjwr, Opener.stalled, beginPageStall_eq]
  | first =>
    refine pageOpenAccess_stay (.inr ?_)
    rw [hjwr, Opener.stalled, afterPage_eq, beginPageStall_eq]
  | retry =>
    refine stallRetryAccess_stay (.inr ?_)
    rw [hjwr]
    exact ⟨rfl, hw⟩

/-! ### The row -/

/-- `v` is `s` with the first header word written, if it was not. -/
structure State.Heading (s v : State) : Prop where
  only : OnlyChanges [.journal, .ram] s v
  shc : v.chip.shc = s.chip.shc
  jwr : v.chip.jwr = { s.chip.jwr with written := 2 }
  wf : v.ram.wf
  word : s.chip.jwr.written < 2 → readWord v.ram s.chip.pageAddr = pageWord0 pageFilling s.chip.jwr.nextSeq
  kept : RamKeptOutside s.chip.pageAddr (if s.chip.jwr.written = 2 then 0 else 1) s v

theorem State.Heading.pageAddr (h : s.Heading v) : v.chip.pageAddr = s.chip.pageAddr := by
  rw [Chip.pageAddr, Chip.base, h.shc, h.jwr]
  rfl

theorem State.Heading.refl (hwf : s.ram.wf) (hw : s.chip.jwr.written = 2) : s.Heading s where
  only := OnlyChanges.refl _ _
  shc := rfl
  jwr := by rw [← hw]
  wf := hwf
  word h := absurd hw h.ne
  kept _ _ := rfl

theorem State.Heading.begun (hwf : s.ram.wf) (hw : s.chip.jwr.written = 1) : s.Heading s.headBegun where
  only := State.journaled_only _ _
  shc := State.journaled_shc _ _
  jwr := State.journaled_jwr _ _
  wf := writeWord_wf hwf _ _
  word _ := readWord_writeWord hwf _ _
  kept := by
    rw [if_neg (by omega)]
    exact ramKeptOutside_writeWord hwf rfl

theorem State.Heading.found (hwf : s.ram.wf) (hw : s.chip.jwr.written = 0) : s.Heading s.headFound.headBegun := by
  have haddr : s.headFound.chip.pageAddr = s.chip.pageAddr := State.journaled_pageAddr _ _ rfl
  have hjwr : s.headFound.chip.jwr = { s.chip.jwr with written := 1 } := State.journaled_jwr _ _
  obtain ⟨honly, hshc, hjwr', hwf', hword, hkept⟩ := State.Heading.begun (s := s.headFound) hwf (by rw [hjwr])
  rw [hjwr] at hjwr' hword hkept
  rw [haddr] at hword hkept
  refine ⟨(State.journaled_only _ _).trans honly, hshc.trans (State.journaled_shc _ _), hjwr', hwf',
    fun _ => hword (by dsimp only; omega), ?_⟩
  rw [if_neg (by omega)]
  exact hkept

/-- The row comes to its last access with the first header word written. -/
theorem State.Opening.accesses_head (h : s.Opening k) (hwf : s.ram.wf) (hle : s.chip.jwr.written ≤ 2)
    (ho : s.chip.jwr.written = 2 ∨ s.chip.journalOpen = true) (he : s.chip.jwr.written = 0 → s.HeadEmpty) {more : Nat}
    (hm : 2 - s.chip.jwr.written ≤ more) :
    ∃ v m, v.Opening k ∧ s.Heading v ∧ accesses Chip.pageUnderWay k.one more s = accesses Chip.pageUnderWay k.one m v := by
  have hbegun (u : State) : u.headBegun.chip.pageUnderWay = true := by
    simp [Chip.pageUnderWay, State.headBegun]
  obtain hw | hw | hw : s.chip.jwr.written = 0 ∨ s.chip.jwr.written = 1 ∨ s.chip.jwr.written = 2 := by omega
  · obtain ⟨m, rfl⟩ : ∃ m, more = m + 1 + 1 := ⟨more - 2, by omega⟩
    have hopen := ho.resolve_left (by omega)
    have hfound : s.headFound.Opening k := h.journaled hopen _ rfl rfl rfl (by simp)
    have hfw : s.headFound.chip.jwr.written = 1 := by rw [State.headFound, State.journaled_jwr]
    refine ⟨_, m, hfound.journaled (by rw [State.headFound, State.journaled_journalOpen, hopen]) _ rfl rfl rfl (by simp),
      .found hwf hw, ?_⟩
    rw [accesses_succ (h.one_found hw (he hw)) (by simp [Chip.pageUnderWay, hfw]), accesses_succ (hfound.one_begun hfw) (hbegun _)]
    rfl
  · obtain ⟨m, rfl⟩ : ∃ m, more = m + 1 := ⟨more - 1, by omega⟩
    have hopen := ho.resolve_left (by omega)
    exact ⟨_, m, h.journaled hopen _ rfl rfl rfl (by simp), .begun hwf hw, accesses_succ (h.one_begun hw) (hbegun _) m⟩
  · exact ⟨s, more, h, .refl hwf hw, rfl⟩

/-- A row that opens the page (10 R153). -/
theorem State.Opening.accesses_opens (h : s.Opening k) (hwf : s.ram.wf) (hle : s.chip.jwr.written ≤ 2)
    (ho : s.chip.jwr.written = 2 ∨ s.chip.journalOpen = true) (he : s.chip.jwr.written = 0 → s.HeadEmpty) {more : Nat}
    (hm : 2 - s.chip.jwr.written ≤ more) :
    ∃ v, s.Heading v ∧ accesses Chip.pageUnderWay k.one more s = .next (v.headEnded k) := by
  obtain ⟨v, m, hv, hhead, e⟩ := h.accesses_head hwf hle ho he hm
  exact ⟨v, hhead, e.trans (accesses_once (hv.one_ended (by rw [hhead.jwr])) (.inr State.headEnded_stay))⟩

/-- A row that finds a header that does not read EMPTY (10 R156). -/
theorem State.Opening.accesses_refused (h : s.Opening k) (hw : s.chip.jwr.written = 0) (he : ¬s.HeadEmpty) (more : Nat) :
    accesses Chip.pageUnderWay k.one more s = .next (s.headRefused k) :=
  accesses_once (h.one_refused hw he) (.inr (State.headRefused_stay hw))

end

end Sys2Proof.Machine
end


section
/-! SUPPORT. What the rows of a page to be opened leave (10 R153, R156, R158, 11 R167). -/

namespace Sys2Proof.Machine

section
variable {s v : State} {k : Opener}

/-- A page stall folds the queue into the summaries, and keeps its DIGITS records (10 R156, R157). -/
theorem beginPageStall_folds (c : Chip) :
    (beginPageStall c).jwr.queue = c.jwr.queue.filter (fun r => r.body.kind == 3) ∧
      (∀ x : LineNo, (beginPageStall c).jwr.summaries[x] =
        (toldOf c.jwr.queue (some x)).foldl summaryAfter c.jwr.summaries[x]) ∧
      (beginPageStall c).jwr.shelf = (toldOf c.jwr.queue none).foldl summaryAfter c.jwr.shelf :=
  ⟨by rw [beginPageStall_eq], fun x => Jwr.foldQueue_summaries { c.jwr with stall := .page } x,
    Jwr.foldQueue_shelf { c.jwr with stall := .page }⟩

theorem beginPageStall_line (c : Chip) (x : LineNo) : (beginPageStall c).line x = c.line x := by
  rw [Chip.line, show (beginPageStall c).lines = c.lines from rfl, ← Chip.line]

theorem beginPageStall_mpt (c : Chip) : (beginPageStall c).mpt = c.mpt := rfl
theorem beginPageStall_rsc (c : Chip) : (beginPageStall c).rsc = c.rsc := rfl
theorem beginPageStall_warm (c : Chip) : (beginPageStall c).shc.warm = c.shc.warm := rfl
theorem beginPageStall_mains (c : Chip) : (beginPageStall c).shc.mains = c.shc.mains := rfl

/-- A page to be opened is served by one of the rows. -/
theorem State.exists_opening (hs : s.chip.serves .journal = true) (hp : s.chip.jwr.page = .opening)
    (hfit : s.chip.pageAddr + 64 ≤ Config.ramWords)
    (hdue : s.chip.jwr.stall = .page → 10 ≤ s.chip.jwr.retry ∨ s.chip.jwr.written ≠ 0) :
    ∃ k, s.Opening k ∧ ∀ more,
      exec (if s.chip.jwr.stall = .page then .pageStallRetry more else .pageOpen more) s =
        accesses Chip.pageUnderWay k.one more s := by
  by_cases hstall : s.chip.jwr.stall = .page
  · refine ⟨.retry, ⟨hs, hp, hfit, hstall, hdue hstall⟩, fun more => ?_⟩
    rw [if_pos hstall]
    rfl
  · cases hfirst : s.chip.firstPage with
    | false =>
      refine ⟨.next, ⟨hs, hp, hfit, hstall, hfirst⟩, fun more => ?_⟩
      rw [if_neg hstall]
      rfl
    | true =>
      refine ⟨.first, ⟨hs, hp, hfit, hstall, hfirst⟩, fun more => ?_⟩
      rw [if_neg hstall]
      rfl

theorem Chip.firstPage_iff (c : Chip) : c.firstPage = true ↔ c.shc.run = .starting ∧ c.shc.start = .page := by
  simp [Chip.firstPage]

/-- The header words of an opened page, and the rest of the RAM. -/
theorem State.Heading.headEnded_ram (h : s.Heading v) :
    readWord (v.headEnded k).ram (s.chip.pageAddr + 1) = 0 ∧
      (s.chip.jwr.written < 2 → readWord (v.headEnded k).ram s.chip.pageAddr = pageWord0 pageFilling s.chip.jwr.nextSeq) ∧
      RamKeptOutside (if s.chip.jwr.written = 2 then s.chip.pageAddr + 1 else s.chip.pageAddr)
        (if s.chip.jwr.written = 2 then 1 else 2) s (v.headEnded k) := by
  have hram : (v.headEnded k).ram = writeWord v.ram (s.chip.pageAddr + 1) 0 := by rw [State.headEnded, h.pageAddr]
  have hkept := h.kept
  rw [RamKeptOutside, hram]
  refine ⟨readWord_writeWord h.wf _ _, fun hlt => ?_, fun b hb => ?_⟩
  · rw [readWord_writeWord_ne h.wf _ (by omega), h.word hlt]
  · rw [byteAt_writeWord h.wf, if_neg (by split at hb <;> omega), if_neg (by split at hb <;> omega)]
    exact hkept b (by split at hb <;> split <;> omega)

/-- The chip with which the last access of the row is made. -/
theorem State.Heading.pageOpened_jwr (h : s.Heading v) :
    (release v.chip).pageOpened.jwr =
      { s.chip.jwr with page := .opened, seq := s.chip.jwr.nextSeq, used := 0, written := 0, opened := true } := by
  have hjwr : (release v.chip).pageOpened.jwr =
      { v.chip.jwr with page := .opened, seq := v.chip.jwr.nextSeq, used := 0, written := 0, opened := true } := rfl
  rw [hjwr, h.jwr]
  rfl

/-! ### A page as it comes -/

theorem State.Heading.next_jwr (h : s.Heading v) :
    (v.headEnded .next).chip.jwr =
      { s.chip.jwr with page := .opened, seq := s.chip.jwr.nextSeq, used := 0, written := 0, opened := true } := by
  rw [State.headEnded, settle_jwr]
  exact h.pageOpened_jwr

theorem State.Heading.next_only (h : s.Heading v) : OnlyChanges [.journal, .ram] s (v.headEnded .next) :=
  h.only.trans (OnlyChanges.of_chip (fun _ => rfl) (fun _ => rfl) (fun _ => rfl) (fun _ => rfl) (fun _ => rfl) (fun _ => rfl)
    (fun _ => rfl) (by simp) (fun _ => rfl) (fun _ => rfl) (by simp))

theorem State.headRefused_next_only : OnlyChanges [.journal, .shelf] s (s.headRefused .next) := by
  rw [State.headRefused, Opener.stalled, beginPageStall_eq]
  exact OnlyChanges.of_chip (m := s.ram) (fun _ => rfl) (fun _ => rfl) (fun _ => rfl) (fun _ => rfl) (fun _ => rfl)
    (fun _ => rfl) (fun _ => rfl) (by simp) (fun _ => rfl) (by simp) (fun _ => rfl)

/-! ### The first page of a start procedure -/

/-- The power mode and the lines as step 5 of a start procedure begins (06 R108, 11 R167 step 6). -/
theorem ran_afterPage {d : Chip} (hrsc : d.rsc = s.chip.rsc) (hline : ∀ x, d.line x = s.chip.line x)
    (hwarm : d.shc.warm = s.chip.shc.warm) (hmains : d.shc.mains = s.chip.shc.mains) (c0 : Chip) :
    (settle c0 (afterPage d)).rsc = { s.chip.rsc with mode := s.chip.startMode, stagedMode := s.chip.startMode } ∧
      ∀ x, (settle c0 (afterPage d)).line x =
        if s.chip.shc.warm = false ∧ (s.chip.line x).equipped = true ∧ (s.chip.line x).st = .unequipped then
          { s.chip.line x with sampling := .first, run := 0 }
        else s.chip.line x := by
  have hmode : d.startMode = s.chip.startMode := by simp only [Chip.startMode, hrsc, hwarm, hmains]
  refine ⟨?_, fun x => ?_⟩
  · rw [settle_rsc, afterPage_eq]
    dsimp only
    rw [hrsc, hmode]
  · rw [settle_line, afterPage_line, hline, hwarm]

/-- The frame of step 4 at its end. -/
theorem only_afterPage {d : Chip} {m : Memory} (hsets : d.sets = v.chip.sets) (hsst : d.sst = v.chip.sst)
    (hctb : d.ctb = v.chip.ctb) (hgen : d.gen = v.chip.gen) (hord : d.ord = v.chip.ord)
    (hmpt : { d.mpt with busy := none } = { v.chip.mpt with busy := none }) {ps : List Part}
    (hps : [.lines, .scheduler, .journal, .shelf] ⊆ ps) (hm : .ram ∉ ps → m = v.ram) :
    OnlyChanges ps v { v with chip := settle v.chip (afterPage d), ram := m } := by
  rw [afterPage_eq]
  exact OnlyChanges.of_chip (fun h => absurd (hps (by simp)) h) (fun _ => hsets) (fun _ => hsst) (fun _ => hctb)
    (fun h => absurd (hps (by simp)) h) (fun _ => by rw [hgen]) (fun _ => hord) (fun h => absurd (hps (by simp)) h)
    (fun _ => hmpt) (fun h => absurd (hps (by simp)) h) hm

theorem State.Heading.first_jwr (h : s.Heading v) :
    (v.headEnded .first).chip.jwr =
      { s.chip.jwr with
        page := .opened
        seq := s.chip.jwr.nextSeq
        used := 0
        written := 0
        opened := true
        queue := s.chip.jwr.startRecs ++ s.chip.jwr.queue
        startRecs := [] } := by
  have hjwr : (takeStartRecs (release v.chip)).pageOpened.jwr =
      { v.chip.jwr with
        page := .opened
        seq := v.chip.jwr.nextSeq
        used := 0
        written := 0
        opened := true
        queue := v.chip.jwr.startRecs ++ v.chip.jwr.queue
        startRecs := [] } := rfl
  rw [State.headEnded, settle_jwr, Opener.opened, afterPage_eq]
  dsimp only
  rw [hjwr, h.jwr]
  rfl

theorem State.Heading.first_shc (h : s.Heading v) :
    (v.headEnded .first).chip.shc = { s.chip.shc with start := .readings, ms := 0 } := by
  have hshc : (takeStartRecs (release v.chip)).pageOpened.shc = v.chip.shc := rfl
  rw [State.headEnded, settle_shc, Opener.opened, afterPage_eq]
  dsimp only
  rw [hshc, h.shc]

theorem State.Heading.first_only (h : s.Heading v) :
    OnlyChanges [.lines, .scheduler, .journal, .shelf, .ram] s (v.headEnded .first) :=
  (h.only.mono (by simp)).trans (only_afterPage (d := (takeStartRecs (release v.chip)).pageOpened)
    rfl rfl rfl rfl rfl rfl (by simp) (by simp))

theorem State.headRefused_first_jwr :
    (s.headRefused .first).chip.jwr = (beginPageStall (takeStartRecs (release s.chip))).jwr := by
  rw [State.headRefused, settle_jwr, Opener.stalled, afterPage_eq]

theorem State.headRefused_first_shc :
    (s.headRefused .first).chip.shc =
      { s.chip.shc with start := .readings, ms := 0, attention := s.chip.shc.attention ||| attnStall } := by
  rw [State.headRefused, settle_shc, Opener.stalled, afterPage_eq, beginPageStall_eq]
  rfl

theorem State.headRefused_first_only : OnlyChanges [.lines, .scheduler, .journal, .shelf] s (s.headRefused .first) := by
  have hmpt : { (beginPageStall (takeStartRecs (release s.chip))).mpt with busy := none } = { s.chip.mpt with busy := none } := by
    rw [beginPageStall_mpt]
    rfl
  rw [State.headRefused, Opener.stalled]
  generalize hd : takeStartRecs (release s.chip) = d at hmpt ⊢
  have hsame : d.sets = s.chip.sets ∧ d.sst = s.chip.sst ∧ d.ctb = s.chip.ctb ∧ d.gen = s.chip.gen ∧ d.ord = s.chip.ord := by
    rw [← hd]
    exact ⟨rfl, rfl, rfl, rfl, rfl⟩
  obtain ⟨hsets, hsst, hctb, hgen, hord⟩ := hsame
  exact only_afterPage (v := s) (d := beginPageStall d) (m := s.ram) hsets hsst hctb hgen hord hmpt (by simp) (fun _ => rfl)

/-! ### A stalled page read again -/

theorem State.Heading.retry_jwr (h : s.Heading v) :
    (v.headEnded .retry).chip.jwr =
      { s.chip.jwr with
        page := .opened
        seq := s.chip.jwr.nextSeq
        used := 0
        written := 0
        opened := true
        queue := (v.headEnded .retry).chip.jwr.queue
        stall := (v.headEnded .retry).chip.jwr.stall } := by
  have hjwr : (v.headEnded .retry).chip.jwr = (resume (release v.chip).pageOpened).jwr := by rw [State.headEnded, settle_jwr]; rfl
  rw [hjwr, resume_parts]
  dsimp only
  rw [h.pageOpened_jwr]

theorem State.Heading.retry_resumed (h : s.Heading v) : Resumed s.chip (v.headEnded .retry).chip := by
  have hgen := congrArg Gen.state (h.only .generator (by simp))
  refine (resume_resumed (release v.chip).pageOpened).congr (fun x => (h.only .lines (by simp) x).symm)
    (h.only .slots (by simp)).symm hgen.symm ?_ ?_ ?_ h.shc.symm ?_ ?_ ?_
  · rw [h.pageOpened_jwr]
  · rw [h.pageOpened_jwr]
  · rw [h.pageOpened_jwr]
  · rw [State.headEnded, settle_jwr]; rfl
  · rw [State.headEnded, settle_sst]; rfl
  · rw [State.headEnded, settle_shc]; rfl

theorem State.Heading.retry_only (h : s.Heading v) : OnlyChanges [.slots, .journal, .shelf, .ram] s (v.headEnded .retry) := by
  refine (h.only.mono (by simp)).trans ?_
  rw [State.headEnded, Opener.opened, resume_parts]
  exact OnlyChanges.of_chip (fun _ => rfl) (fun _ => rfl) (by simp) (fun _ => rfl) (fun _ => rfl) (fun _ => rfl)
    (fun _ => rfl) (by simp) (fun _ => rfl) (by simp) (by simp)

theorem State.headRefused_retry_only : OnlyChanges [.journal] s (s.headRefused .retry) :=
  OnlyChanges.of_chip (m := s.ram) (fun _ => rfl) (fun _ => rfl) (fun _ => rfl) (fun _ => rfl) (fun _ => rfl)
    (fun _ => rfl) (fun _ => rfl) (by simp) (fun _ => rfl) (fun _ => rfl) (fun _ => rfl)

end

end Sys2Proof.Machine
end

section
open Sys2Proof Sys2Proof.Machine

/-- Settles O48: the first accesses of the three rows are alike; the last one, or the header that does not read EMPTY, is a case of each. -/
theorem pageIsOpenedOrStalls : Obligations.PageIsOpenedOrStalls := by
  unfold Obligations.PageIsOpenedOrStalls
  refine ⟨Jwr.fold_eq, fun s hwf hserves hpage => ?_⟩
  intro a seq empty at' goes headed opened firstPage folds i hfit hdue
  have hfirst : s.chip.firstPage = true ↔ firstPage := s.chip.firstPage_iff
  obtain ⟨k, hk, hexec⟩ := State.exists_opening hserves hpage hfit hdue
  refine ⟨fun hw he => ?_, fun hw => ?_, fun hstall hnf more => ?_, fun hstall hf more => ?_, fun hstall more => ?_⟩
  · exact ⟨_, (hexec 0).trans (hk.one_found hw he), State.journaled_jwr _ _, State.journaled_only_journal _⟩
  · have hram : s.headBegun.ram = writeWord s.ram a (pageWord0 pageFilling seq) := rfl
    exact ⟨_, (hexec 0).trans (hk.one_begun hw), by rw [hram, readWord_writeWord hwf], ramKeptOutside_writeWord hwf hram,
      State.journaled_jwr _ _, State.journaled_only _ _⟩
  · have hopen : s.Opening .next :=
      ⟨hserves, hpage, hfit, hstall, by rw [← Bool.not_eq_true, hfirst]; exact hnf⟩
    refine ⟨fun ⟨hle, hm, ho, he⟩ => ?_, fun hw he => ?_⟩
    · obtain ⟨v, hv, e⟩ := hopen.accesses_opens hwf hle ho he hm
      exact ⟨_, e, hv.headEnded_ram, hv.next_jwr, hv.next_only⟩
    · obtain ⟨hqueue, hsummaries, hshelf⟩ := beginPageStall_folds (release s.chip)
      have hjwr : (s.headRefused .next).chip.jwr = (beginPageStall (release s.chip)).jwr := settle_jwr _ _
      refine ⟨_, hopen.accesses_refused hw he more, ?_, ?_, ?_, ?_, ?_, ?_, State.headRefused_next_only⟩
      · rw [hjwr, beginPageStall_eq]
      · rw [hjwr, beginPageStall_eq]; exact hpage
      · rw [hjwr, beginPageStall_eq]
      · rw [hjwr, beginPageStall_eq]; rfl
      · simp only [folds, hjwr]
        exact ⟨hqueue, hsummaries, hshelf⟩
      · rw [State.headRefused, settle_shc, Opener.stalled, beginPageStall_eq]; rfl
  · have hopen : s.Opening .first := ⟨hserves, hpage, hfit, hstall, hfirst.2 hf⟩
    intro ran
    have hran {d : Chip} (hr : d.rsc = s.chip.rsc) (hl : ∀ x, d.line x = s.chip.line x) (hwarm : d.shc.warm = s.chip.shc.warm)
        (hmains : d.shc.mains = s.chip.shc.mains) {t : State} {c0 : Chip}
        (ht : t.chip = settle c0 (afterPage d)) : ran t := by
      have h := ran_afterPage hr hl hwarm hmains c0
      rw [startMode_eq, ← ht] at h
      exact h
    refine ⟨fun ⟨hle, hm, ho, he⟩ => ?_, fun hw he => ?_⟩
    · obtain ⟨v, hv, e⟩ := hopen.accesses_opens hwf hle ho he hm
      have hwarm : v.chip.shc.warm = s.chip.shc.warm := by rw [hv.shc]
      have hmains : v.chip.shc.mains = s.chip.shc.mains := by rw [hv.shc]
      exact ⟨_, e, hv.headEnded_ram, hran (d := (takeStartRecs (release v.chip)).pageOpened) (hv.only .scheduler (by simp))
        (hv.only .lines (by simp)) hwarm hmains rfl, hv.first_jwr, hv.first_shc, hv.first_only⟩
    · obtain ⟨hqueue, hsummaries, hshelf⟩ := beginPageStall_folds (takeStartRecs (release s.chip))
      refine ⟨_, hopen.accesses_refused hw he more,
        hran (d := beginPageStall (takeStartRecs (release s.chip))) (beginPageStall_rsc _)
          (beginPageStall_line _) (beginPageStall_warm _) (beginPageStall_mains _) rfl, ?_, ?_, ?_, ?_, ?_, State.headRefused_first_shc,
        State.headRefused_first_only⟩
      · rw [State.headRefused_first_jwr, beginPageStall_eq]
      · rw [State.headRefused_first_jwr, beginPageStall_eq]; exact hpage
      · rw [State.headRefused_first_jwr, beginPageStall_eq]
      · rw [State.headRefused_first_jwr, beginPageStall_eq]; rfl
      · simp only [folds, State.headRefused_first_jwr]
        exact ⟨hqueue, hsummaries, hshelf⟩
  · have hopen : s.Opening .retry := ⟨hserves, hpage, hfit, hstall, hdue hstall⟩
    refine ⟨fun ⟨hle, hm, ho, he⟩ => ?_, fun hw he => ?_⟩
    · obtain ⟨v, hv, e⟩ := hopen.accesses_opens hwf hle ho he hm
      have hjwr := hv.retry_jwr
      exact ⟨_, e, hv.headEnded_ram, congrArg Jwr.page hjwr, congrArg Jwr.seq hjwr, congrArg Jwr.used hjwr,
        congrArg Jwr.written hjwr, congrArg Jwr.opened hjwr, hv.retry_resumed, hv.retry_only⟩
    · exact ⟨_, hopen.accesses_refused hw he more, settle_jwr _ _, State.headRefused_retry_only⟩

end
